-- ==== Sys2Proof/Word.lean ====
section
/-! DEFINITION. The machine's words and their plainest arithmetic (R4 of 00_scope.md: bits from 0 at the least
significant end, little-endian). -/

namespace Sys2Proof

/-- A byte of memory. -/
abbrev Byte := BitVec 8

/-- A 32-bit register, instruction word or immediate. -/
abbrev Word := BitVec 32

/-- A 64-bit pair of registers. -/
abbrev Word64 := BitVec 64

/-- A 48-bit code address: pc, link, meet (R68). -/
abbrev CodeAddr := BitVec 48

end Sys2Proof
end

