-- ==== Sys2Proof/Config.lean ====
section
/-! DEFINITION. What stepping A1 fixes, and the FREE VALUES: what the manual leaves open and the machine still needs. A
free value is a constant with no body: nothing can be proved of its value, so a claim holds whatever it is. Each is
applied to the plain counter State.fresh, or to the operands it depends on. See notes/assumptions. -/

namespace Sys2Proof.Config

/-- The encoding hash of stepping A1 (R1). -/
def encodingHash : Nat := 0x6D3A91C40B27E85F

/-- 1 microsecond in clk (R6). -/
def usClk : Nat := 1800

/-- FREE. Typical latencies of memory, engines and the dispatcher, which R144, R196, R288 and others state as no bounds:
the clk beyond the first that the n-th such operation takes. -/
opaque latency : Nat → Nat

/-- FREE (R29). Whether a read of a register (thread, register) made before its write has landed sees the new value. -/
opaque seesNew : Nat → Nat → Nat → Bool

/-- FREE (R29). Whether a read of a register of a home wave (wave, register) with a write outstanding chooses lane by lane. -/
opaque mixesLanes : Nat → Nat → Nat → Bool

/-- FREE (R29). The new value that a read made before its landing sees, where the value is sampled only when it lands. -/
opaque lateNew : Nat → Nat → Nat → BitVec 32

/-- FREE (R157). How long an L1 copy or dirty bytes stay, at most 16,384 clk. -/
opaque l1Life : Nat → Nat

/-- FREE (R125). Whether an access uses a TLB entry although the tables may have changed. -/
opaque tlbHit : Nat → Nat → Bool

/-- FREE (R123). Which of the 16 entries of an inconsistent 64 KiB group translates. -/
opaque groupPick : Nat → Nat → Nat

/-- FREE (R51). The 16 bits rho that a home lane's generator gives for one rounded element. -/
opaque rho : Nat → Nat → Nat → BitVec 16

/-- FREE within the bounds of R117. The result bits of an approximate function: function, type, FPCTL control bits and
input bits. It is a fixed function of them. -/
opaque approx : Nat → Nat → Nat → Nat → Nat

/-- FREE (R210, R271, R282, R353, R354). Choices that no rule fixes: whether a refresh is postponed, which handle a launch
gets, which task the dispatcher starts, the order in which buffered entries are released, a result of a mismatched interval. -/
opaque choice : Nat → Nat

/-- FREE (R371). Whether the k-th assay or measurement of a die passes. -/
opaque assayPasses : Nat → Nat → Bool

/-- FREE (R371, R380). The key-store entry that the root fills for a link's direction. -/
opaque keyHandle : Nat → Nat → Nat

/-- FREE (R378). Words 0 to 8 of a die's hallmark record: digest and serial number. -/
opaque hallmark : Nat → Nat → BitVec 64

/-- FREE (R361). The syndrome of an error record. -/
opaque syndrome : Nat → BitVec 16

/-- FREE (R387). Whether the package that a request names answers within 100 microseconds. -/
opaque ralpexAnswers : Nat → Nat → Bool

/-- FREE (R360). Whether the mirror partner acknowledges a write within 100 microseconds. -/
opaque mirrorAcks : Nat → Bool

/-- FREE (R3, R137, R163, R225). Old or new, where an access races another. -/
opaque raceNew : Nat → Bool

/-- FREE (R384). The byte that a read of MIRPART, ALLOW or ROUTE outside the secure world returns, by clk and offset. -/
opaque guardedByte : Nat → Nat → BitVec 8

end Sys2Proof.Config
end

