-- ==== Sys2Proof/Syntax.lean ====
section
/-! DEFINITION. The syntax of Haresque: operand forms and the one inductive of instructions and events. The
constructors of the first part are the encodings of R34 and R35 (02_encoding_and_assembly.md); those of the second
part are the events of spec/opcode_table.json, the other indivisible steps of the part. -/

namespace Sys2Proof

/-- A register code of a field, 0 to 63 (R33). Codes 0 to 62 name v0 to v62. -/
abbrev RegCode := BitVec 6

/-- A predicate number, 0 to 7 (R78). -/
abbrev PredCode := BitVec 3

/-- The bits every instruction word carries beside its own (R32): the switch marker `sw`, bit 31, and the guard
predicate `pd`, bits 23:21. -/
structure Guard where
  sw : Bool
  pd : PredCode
  deriving DecidableEq, Repr

/-- A source field (R33): a register code, or code 63 with the extension word it reads. -/
inductive Src where
  | reg (c : RegCode)
  | imm (x : Word)
  deriving DecidableEq, Repr

/-- The off6 field of format M (R32): an unsigned offset in access sizes, or 63 with the signed byte offset of the
extension word. -/
inductive Off where
  | scaled (o : BitVec 6)
  | ext (x : Word)
  deriving DecidableEq, Repr

/-- The instructions and the events of the GB-4432, one constructor for each row of spec/opcode_table.json. -/
inductive Instr where
  /-- NOP (R88): No operation in any thread; its switch marker still makes the bundle wait. -/
  | nop (g : Guard)
  /-- BRA (R83): Unconditional relative branch for every thread of the bundle. -/
  | bra (g : Guard) (o : BitVec 21)
  /-- BRP (R83): Relative branch taken in the threads where predicate pd is true. -/
  | brp (g : Guard) (o : BitVec 21)
  /-- BRN (R83): Relative branch taken in the threads where predicate pd is false. -/
  | brn (g : Guard) (o : BitVec 21)
  /-- BRX (R84): Branch to this word's address plus a per-lane register offset. -/
  | brx (g : Guard) (a : Src)
  /-- JMP (R84): Jump to the per-lane 48-bit address held in a register pair. -/
  | jmp (g : Guard) (a : RegCode)
  /-- CALLR (R85): Register call that saves the old link in a pair, sets link to the next header and jumps. -/
  | callr (g : Guard) (d : RegCode) (a : RegCode)
  /-- RET (R85): Returns to the address held in the link register. -/
  | ret (g : Guard)
  /-- CALL (R85): Relative call that sets link to the next header. -/
  | call (g : Guard) (o : BitVec 21)
  /-- MEET (R86): Sets the thread's meet register to a relative clause-header address. -/
  | meet (g : Guard) (o : BitVec 21)
  /-- UNMEET (R86): Clears the thread's meet register. -/
  | unmeet (g : Guard)
  /-- EXIT (R87): Ends each active thread, its stores still draining. -/
  | exit (g : Guard)
  /-- VOTE_ANY (R89): Writes the OR of a predicate over the active lanes. -/
  | voteAny (g : Guard) (d : PredCode) (a : PredCode) (inv : BitVec 1)
  /-- VOTE_ALL (R89): Writes the AND of a predicate over the active lanes. -/
  | voteAll (g : Guard) (d : PredCode) (a : PredCode) (inv : BitVec 1)
  /-- VOTE_BALLOT (R89): Writes a 32-bit mask of the active lanes whose predicate holds. -/
  | voteBallot (g : Guard) (d : RegCode) (a : PredCode) (inv : BitVec 1)
  /-- SHFL_IDX (R90): Reads a value from the lane named by an index. -/
  | shflIdx (g : Guard) (d : RegCode) (a : Src) (b : Src)
  /-- SHFL_UP (R90): Reads a value from the lane a distance below. -/
  | shflUp (g : Guard) (d : RegCode) (a : Src) (b : Src)
  /-- SHFL_DOWN (R90): Reads a value from the lane a distance above. -/
  | shflDown (g : Guard) (d : RegCode) (a : Src) (b : Src)
  /-- SHFL_XOR (R90): Reads a value from the lane whose number is XORed with an operand. -/
  | shflXor (g : Guard) (d : RegCode) (a : Src) (b : Src)
  /-- SHAPE (R91): Forces a register image into tag U, A or G built from lanes 0 and 1. -/
  | shape (g : Guard) (d : RegCode) (a : Src) (t : BitVec 6)
  /-- TAGQ (R91): Writes the shape tag of a register. -/
  | tagq (g : Guard) (d : RegCode) (a : Src)
  /-- MOVX (R92): Reads the register whose number is held in a per-lane index. -/
  | movx (g : Guard) (d : RegCode) (a : Src)
  /-- MOVXW (R92): Writes the register whose number is held in a per-lane index. -/
  | movxw (g : Guard) (a : Src) (b : Src)
  /-- MOV (R100): Copies a register with its tag, or the home lane as an A-tagged value. -/
  | mov (g : Guard) (d : RegCode) (a : RegCode)
  /-- MOVI (R100): Writes a 32-bit immediate. -/
  | movi (g : Guard) (d : RegCode) (x : Word)
  /-- MOVH (R100): Writes a 32-bit immediate to the high register of a pair. -/
  | movh (g : Guard) (d : RegCode) (x : Word)
  /-- ADD (R101): 32-bit wrapping add. -/
  | add (g : Guard) (d : RegCode) (a : Src) (b : Src)
  /-- ADDC (R101): Add with carry in and out through p7. -/
  | addc (g : Guard) (d : RegCode) (a : Src) (b : Src)
  /-- SUB (R101): 32-bit wrapping subtract. -/
  | sub (g : Guard) (d : RegCode) (a : Src) (b : Src)
  /-- SUBB (R101): Subtract with borrow in and out through p7. -/
  | subb (g : Guard) (d : RegCode) (a : Src) (b : Src)
  /-- NEG (R101): Two's-complement negation. -/
  | neg (g : Guard) (d : RegCode) (a : Src)
  /-- ABS (R101): Signed absolute value. -/
  | abs (g : Guard) (d : RegCode) (a : Src)
  /-- MUL (R102): Low 32 bits of a product. -/
  | mul (g : Guard) (d : RegCode) (a : Src) (b : Src)
  /-- MULH_I (R102): High word of a signed 32-bit product. -/
  | mulhI (g : Guard) (d : RegCode) (a : Src) (b : Src)
  /-- MULH_N (R102): High word of an unsigned 32-bit product. -/
  | mulhN (g : Guard) (d : RegCode) (a : Src) (b : Src)
  /-- MAD (R102): Multiply and add into the destination, 32 bits. -/
  | mad (g : Guard) (d : RegCode) (a : Src) (b : Src)
  /-- MADW_I (R102): Signed widening multiply-add into a 64-bit pair. -/
  | madwI (g : Guard) (d : RegCode) (a : Src) (b : Src)
  /-- MADW_N (R102): Unsigned widening multiply-add into a 64-bit pair. -/
  | madwN (g : Guard) (d : RegCode) (a : Src) (b : Src)
  /-- MIN_I (R103): Signed minimum. -/
  | minI (g : Guard) (d : RegCode) (a : Src) (b : Src)
  /-- MIN_N (R103): Unsigned minimum. -/
  | minN (g : Guard) (d : RegCode) (a : Src) (b : Src)
  /-- MAX_I (R103): Signed maximum. -/
  | maxI (g : Guard) (d : RegCode) (a : Src) (b : Src)
  /-- MAX_N (R103): Unsigned maximum. -/
  | maxN (g : Guard) (d : RegCode) (a : Src) (b : Src)
  /-- AND (R103): Bitwise AND. -/
  | and (g : Guard) (d : RegCode) (a : Src) (b : Src)
  /-- OR (R103): Bitwise OR. -/
  | or (g : Guard) (d : RegCode) (a : Src) (b : Src)
  /-- XOR (R103): Bitwise XOR. -/
  | xor (g : Guard) (d : RegCode) (a : Src) (b : Src)
  /-- NOT (R103): Bitwise inversion. -/
  | not (g : Guard) (d : RegCode) (a : Src)
  /-- SHL (R103): Logical shift left. -/
  | shl (g : Guard) (d : RegCode) (a : Src) (b : Src)
  /-- SHR (R103): Logical shift right. -/
  | shr (g : Guard) (d : RegCode) (a : Src) (b : Src)
  /-- SAR (R103): Arithmetic shift right. -/
  | sar (g : Guard) (d : RegCode) (a : Src) (b : Src)
  /-- ROT (R103): Rotate left. -/
  | rot (g : Guard) (d : RegCode) (a : Src) (b : Src)
  /-- BFX_I (R104): Signed bit-field extract. -/
  | bfxI (g : Guard) (d : RegCode) (a : Src) (b : Src)
  /-- BFX_N (R104): Unsigned bit-field extract. -/
  | bfxN (g : Guard) (d : RegCode) (a : Src) (b : Src)
  /-- BFI (R104): Bit-field insert with position and length in an extension word. -/
  | bfi (g : Guard) (d : RegCode) (a : RegCode) (b : RegCode) (x : Word)
  /-- POPC (R105): Population count. -/
  | popc (g : Guard) (d : RegCode) (a : Src)
  /-- CLZ (R105): Count of leading zeros. -/
  | clz (g : Guard) (d : RegCode) (a : Src)
  /-- BREV (R105): Bit reversal. -/
  | brev (g : Guard) (d : RegCode) (a : Src)
  /-- SEL (R106): Selects one of two sources by a predicate. -/
  | sel (g : Guard) (q : BitVec 3) (d : RegCode) (a : Src) (b : Src)
  /-- ICMP (R107): Integer compare into a predicate by a condition field. -/
  | icmp (g : Guard) (c : BitVec 3) (d : PredCode) (a : Src) (b : Src)
  /-- PLOP (R108): Combines three predicates through an 8-entry truth table. -/
  | plop (g : Guard) (d : PredCode) (a : PredCode) (b : PredCode) (x : Word)
  /-- ADDA (R109): 64-bit address add. -/
  | adda (g : Guard) (d : RegCode) (a : RegCode) (b : Src)
  /-- LEA (R109): 64-bit address of this word plus an offset. -/
  | lea (g : Guard) (d : RegCode) (b : Src)
  /-- FADD (R112): Correctly rounded floating-point add. -/
  | fadd (g : Guard) (t : BitVec 3) (d : RegCode) (a : Src) (b : Src)
  /-- FSUB (R112): Correctly rounded floating-point subtract. -/
  | fsub (g : Guard) (t : BitVec 3) (d : RegCode) (a : Src) (b : Src)
  /-- FMUL (R112): Correctly rounded floating-point multiply. -/
  | fmul (g : Guard) (t : BitVec 3) (d : RegCode) (a : Src) (b : Src)
  /-- FFMA (R112): Fused multiply-add with one rounding into the destination. -/
  | ffma (g : Guard) (t : BitVec 3) (d : RegCode) (a : Src) (b : Src)
  /-- FMIN (R113): minimumNumber of two values. -/
  | fmin (g : Guard) (t : BitVec 3) (d : RegCode) (a : Src) (b : Src)
  /-- FMAX (R113): maximumNumber of two values. -/
  | fmax (g : Guard) (t : BitVec 3) (d : RegCode) (a : Src) (b : Src)
  /-- FCMP (R114): Quiet compare writing a relation code. -/
  | fcmp (g : Guard) (t : BitVec 3) (d : RegCode) (a : Src) (b : Src)
  /-- FCLASS (R115): Writes a one-hot class mask of the source encoding. -/
  | fclass (g : Guard) (t : BitVec 3) (d : RegCode) (a : Src)
  /-- FSQRT (R116): Correctly rounded square root. -/
  | fsqrt (g : Guard) (t : BitVec 3) (d : RegCode) (a : Src)
  /-- FDIV (R116): Correctly rounded division. -/
  | fdiv (g : Guard) (t : BitVec 3) (d : RegCode) (a : Src) (b : Src)
  /-- FRCP (R117): Approximate reciprocal. -/
  | frcp (g : Guard) (t : BitVec 3) (d : RegCode) (a : Src)
  /-- FRSQ (R117): Approximate reciprocal square root. -/
  | frsq (g : Guard) (t : BitVec 3) (d : RegCode) (a : Src)
  /-- FEX2 (R117): Approximate power of two. -/
  | fex2 (g : Guard) (t : BitVec 3) (d : RegCode) (a : Src)
  /-- FLG2 (R117): Approximate base-2 logarithm. -/
  | flg2 (g : Guard) (t : BitVec 3) (d : RegCode) (a : Src)
  /-- FSIN (R117): Approximate sine. -/
  | fsin (g : Guard) (t : BitVec 3) (d : RegCode) (a : Src)
  /-- FCOS (R117): Approximate cosine. -/
  | fcos (g : Guard) (t : BitVec 3) (d : RegCode) (a : Src)
  /-- CVT (R61): Converts by conversion index under FPCTL, plain or saturating. -/
  | cvt (g : Guard) (f : BitVec 1) (d : RegCode) (a : Src) (i : BitVec 6)
  /-- CVTR (R61): Converts by conversion index with the rounding and saturation of a format slot. -/
  | cvtr (g : Guard) (f : BitVec 3) (d : RegCode) (a : Src) (i : BitVec 6)
  /-- BPACK (R64): Quantises a block of FP32 values and packs them into words of lanes 0 to n-1. -/
  | bpack (g : Guard) (f : BitVec 3) (d : RegCode) (a : Src) (b : Src)
  /-- BUNPACK (R65): Unpacks a packed block into scaled FP32 values. -/
  | bunpack (g : Guard) (f : BitVec 3) (d : RegCode) (a : Src) (b : Src)
  /-- BSCALE_READ (R63): Computes a block's shared E8M0 scale. -/
  | bscaleRead (g : Guard) (d : RegCode) (a : Src) (k : BitVec 3)
  /-- BSCALE_WRITE (R63): Applies an E8M0 scale to FP32 values. -/
  | bscaleWrite (g : Guard) (d : RegCode) (a : Src) (k : BitVec 3)
  /-- FMTQ (R66): Writes the property word of a format code held in a register. -/
  | fmtq (g : Guard) (d : RegCode) (a : Src)
  /-- FMTQ_SLOT (R66): Writes the low word of a format slot unchecked. -/
  | fmtqSlot (g : Guard) (d : RegCode) (k : BitVec 3)
  /-- FMTQ_ELEM (R66): Writes the property word of a format slot's element code. -/
  | fmtqElem (g : Guard) (d : RegCode) (k : BitVec 3)
  /-- FPACK2 (R67): Packs two 16-bit halves into one word. -/
  | fpack2 (g : Guard) (d : RegCode) (a : Src) (b : Src)
  /-- FUNPK2 (R67): Extracts one 16-bit half of a word. -/
  | funpk2 (g : Guard) (d : RegCode) (a : Src) (b : Src)
  /-- LD (R141): Global load of one value per active lane. -/
  | ld (g : Guard) (w : BitVec 3) (d : RegCode) (a : RegCode) (off : Off)
  /-- ST (R143): Global store of one value per active lane through the store queue. -/
  | st (g : Guard) (w : BitVec 3) (d : RegCode) (a : RegCode) (off : Off)
  /-- LDU (R142): Global load of one value per home wave. -/
  | ldu (g : Guard) (w : BitVec 3) (d : RegCode) (a : RegCode) (off : Off)
  /-- LDL (R141): Local-store load per active lane. -/
  | ldl (g : Guard) (w : BitVec 3) (d : RegCode) (a : RegCode) (off : Off)
  /-- STL (R143): Local-store store per active lane. -/
  | stl (g : Guard) (w : BitVec 3) (d : RegCode) (a : RegCode) (off : Off)
  /-- PREF (R145): Requests a sector into a cache level without fault or visible effect. -/
  | pref (g : Guard) (f : BitVec 3) (a : RegCode) (off : Off)
  /-- TDEF (R148): Defines a tile from a descriptor, EMPTY or READY. -/
  | tdef (g : Guard) (e : BitVec 1) (a : RegCode) (k : BitVec 6)
  /-- TFREE (R149): Returns a tile to FREE. -/
  | tfree (g : Guard) (k : BitVec 6)
  /-- TQRY (R150): Writes one word about a tile, optionally clearing its overflow counter. -/
  | tqry (g : Guard) (f : BitVec 3) (d : RegCode) (k : BitVec 6)
  /-- TLD (R151): Loads a tile element, raw or converted to FP32. -/
  | tld (g : Guard) (f : BitVec 3) (d : RegCode) (a : RegCode) (b : RegCode) (x : Word)
  /-- TST (R152): Stores a tile element, raw or converted by format slot. -/
  | tst (g : Guard) (f : BitVec 1) (d : RegCode) (a : RegCode) (b : RegCode) (x : Word)
  /-- LDTR (R153): Transposing tile load of one column word over consecutive rows. -/
  | ldtr (g : Guard) (d : RegCode) (a : RegCode) (b : RegCode) (x : Word)
  /-- LSERRQ (R154): Reads LSERR and optionally clears it. -/
  | lserrq (g : Guard) (f : BitVec 1) (d : RegCode)
  /-- CCTL (R146): Cleans, cleans and invalidates, or invalidates the L1 copy of a sector. -/
  | cctl (g : Guard) (f : BitVec 3) (a : RegCode) (off : Off)
  /-- FENCE (R176): Orders predecessor-kind accesses before successor-kind accesses at a scope. -/
  | fence (g : Guard) (k : BitVec 3) (x : Word)
  /-- BAR (R179): Arrives at a workgroup barrier with the full count and waits for its phase. -/
  | bar (g : Guard) (k : BitVec 4)
  /-- BARX (R179): Arrives at a workgroup barrier with a given count and waits. -/
  | barx (g : Guard) (a : Src) (k : BitVec 4)
  /-- GSYNC (R180): Grid barrier over every thread of a COOP launch. -/
  | gsync (g : Guard)
  /-- ARRIVE (R179): Arrives at a barrier without waiting and returns the prior phase. -/
  | arrive (g : Guard) (f : BitVec 1) (d : RegCode) (a : Src) (k : BitVec 4)
  /-- AWAITB (R179): Waits until a barrier's phase differs from a given value. -/
  | awaitb (g : Guard) (a : Src) (k : BitVec 4)
  /-- WAITV (R178): Blocks until a memory word satisfies a condition. -/
  | waitv (g : Guard) (c : BitVec 3) (d : RegCode) (a : RegCode) (off : Off)
  /-- LDA (R177): Acquire load at a scope. -/
  | lda (g : Guard) (c : BitVec 3) (d : RegCode) (a : RegCode) (off : Off)
  /-- STRL (R177): Release store at a scope. -/
  | strl (g : Guard) (c : BitVec 3) (d : RegCode) (a : RegCode) (off : Off)
  /-- ATOM (R181): Atomic read-modify-write, with or without a result. -/
  | atom (g : Guard) (f : BitVec 1) (d : RegCode) (a : RegCode) (b : RegCode) (x : Word)
  /-- ATOMC (R181): Atomic compare and exchange, with or without a result. -/
  | atomc (g : Guard) (f : BitVec 1) (d : RegCode) (a : RegCode) (b : RegCode) (x : Word)
  /-- RED (R181): Return-free atomic reduction, by scope or at the hearth. -/
  | red (g : Guard) (a : RegCode) (b : RegCode) (x : Word)
  /-- TBEGIN (R182): Opens a transaction with a relative abort target. -/
  | tbegin (g : Guard) (o : BitVec 21)
  /-- TEND (R183): Commits the transactions of the active lanes. -/
  | tend (g : Guard)
  /-- TABORT (R184): Aborts the open transaction with an explicit code. -/
  | tabort (g : Guard) (b : Src)
  /-- TSTAT (R184): Reads the transaction status word. -/
  | tstat (g : Guard) (d : RegCode)
  /-- CPY (R196): Submits a copy between global memory and a tile, or between tiles of one launch. -/
  | cpy (g : Guard) (a : RegCode)
  /-- CPYG (R198): Submits a gather of indexed global rows into a tile. -/
  | cpyg (g : Guard) (a : RegCode)
  /-- CPYS (R198): Submits a scatter of tile rows to indexed global rows. -/
  | cpys (g : Guard) (a : RegCode)
  /-- CPYX (R199): Submits a copy with a transform computed at the memory end. -/
  | cpyx (g : Guard) (a : RegCode)
  /-- CQBIND (R202): Binds the workgroup's later submissions to a copy queue. -/
  | cqbind (g : Guard) (k : BitVec 4)
  /-- CQSTAT (R203): Reads a field of a copy queue. -/
  | cqstat (g : Guard) (f : BitVec 3) (d : RegCode) (k : BitVec 4)
  /-- CQDRAIN (R204): Waits until a copy queue has finished the commands accepted up to now. -/
  | cqdrain (g : Guard) (k : BitVec 4)
  /-- HLUT (R209): Submits an all-bank hearth wave streaming weight rows through the tables. -/
  | hlut (g : Guard) (a : RegCode)
  /-- HLUTW (R208): Submits the writing of look-up tables into a channel's reserved rows. -/
  | hlutw (g : Guard) (a : RegCode)
  /-- HSUM (R213): Submits a read, optionally clearing, of a channel's check status. -/
  | hsum (g : Guard) (f : BitVec 1) (d : RegCode) (a : Src)
  /-- SLABM (R236): Sets a slab to storage or anvil mode. -/
  | slabm (g : Guard) (f : BitVec 1) (k : BitVec 4)
  /-- WLOAD (R237): Queues the loading of a slab's weight image from memory or a tile. -/
  | wload (g : Guard) (f : BitVec 1) (a : Src) (k : BitVec 4)
  /-- WBMAP (R238): Loads or scans a slab's block map. -/
  | wbmap (g : Guard) (f : BitVec 1) (a : Src) (k : BitVec 4)
  /-- WSCALE (R238): Loads or fills a slab's scale side store. -/
  | wscale (g : Guard) (f : BitVec 1) (a : Src) (k : BitVec 4)
  /-- ELECT (R239): Sets a predicate true in exactly the elected thread. -/
  | elect (g : Guard) (d : PredCode)
  /-- AMV (R240): Submits a single-slab single-vector anvil operation. -/
  | amv (g : Guard) (a : RegCode) (q : BitVec 1)
  /-- AMVB (R240): Submits a lock-step multi-slab multi-vector anvil operation. -/
  | amvb (g : Guard) (a : RegCode) (q : BitVec 1)
  /-- AWAIT (R241): Waits until the workgroup's earlier anvil operations in a mask complete. -/
  | await (g : Guard) (m : BitVec 2)
  /-- CRALLOC (R242): Requests crucible bank names and waits for grant or NOPROGRESS. -/
  | cralloc (g : Guard) (d : PredCode) (a : Src) (k : BitVec 4)
  /-- CRFREE (R243): Makes crucible bank names unheld. -/
  | crfree (g : Guard) (a : Src) (k : BitVec 4)
  /-- CRZERO (R244): Zeroes a range of crucible entries. -/
  | crzero (g : Guard) (a : Src) (k : BitVec 4)
  /-- CRRD (R245): Reads crucible entries or overflow counters through the column port. -/
  | crrd (g : Guard) (f : BitVec 1) (d : RegCode) (a : Src) (k : BitVec 4)
  /-- LEASE (R246): Requests a lease of an anvil sequencer or the dense pipe. -/
  | lease (g : Guard) (a : Src) (k : BitVec 2)
  /-- UNLEASE (R246): Gives up an engine lease at once. -/
  | unlease (g : Guard) (k : BitVec 2)
  /-- OMAP (R249): Sets an operand map from a descriptor. -/
  | omap (g : Guard) (a : RegCode) (k : BitVec 3)
  /-- MMA (R252): Submits a dense matrix multiply-accumulate into the crucible. -/
  | mma (g : Guard) (a : RegCode)
  /-- NZSCAN (R254): Submits a scan that compacts the positions of non-zero elements into a tile. -/
  | nzscan (g : Guard) (a : RegCode) (k : BitVec 3)
  /-- MMAG (R255): Submits a gathered multiply-accumulate over an index list. -/
  | mmag (g : Guard) (a : RegCode)
  /-- EPI (R258): Submits an epilogue draining crucible entries into a tile. -/
  | epi (g : Guard) (a : RegCode)
  /-- CRWR (R259): Writes crucible entries from registers. -/
  | crwr (g : Guard) (d : RegCode) (a : Src) (k : BitVec 4)
  /-- LAUNCH (R288): Submits a launch record and returns its status and handle. -/
  | launch (g : Guard) (d : RegCode) (a : RegCode)
  /-- LWAIT (R289): Waits for a launch to complete and returns its status. -/
  | lwait (g : Guard) (d : RegCode) (a : Src)
  /-- MIGRATE (R290): Arrives for a move of the workgroup to another core of its rectangle. -/
  | migrate (g : Guard) (d : PredCode) (a : Src)
  /-- QPUT (R291): Offers a task entry to a queue without blocking. -/
  | qput (g : Guard) (d : PredCode) (a : RegCode) (q : BitVec 6)
  /-- QPUTW (R291): Offers a task entry to a queue, retrying for a bounded time. -/
  | qputw (g : Guard) (d : PredCode) (a : RegCode) (q : BitVec 6)
  /-- QSTAT (R292): Reads a task queue's state word. -/
  | qstat (g : Guard) (d : RegCode) (q : BitVec 6)
  /-- TARG (R293): Reads a word of the running task's entry. -/
  | targ (g : Guard) (d : RegCode) (k : BitVec 3)
  /-- TDONE (R294): Retires a scoreboard tile with a release and triggers stencil evaluation. -/
  | tdone (g : Guard) (a : Src) (k : BitVec 1)
  /-- STNC (R295): Sets a task queue's stencil mask. -/
  | stnc (g : Guard) (a : RegCode) (q : BitVec 6)
  /-- VDECL (R312): Declares a root view over a tile with a merge operator. -/
  | vdecl (g : Guard) (t : BitVec 6) (o : BitVec 6) (k : BitVec 3)
  /-- SPAWN (R313): Offers a child task with blanks of the masked views. -/
  | spawn (g : Guard) (d : PredCode) (a : RegCode) (q : BitVec 6)
  /-- VTILE (R314): Binds a free tile number to one of the thread's blanks. -/
  | vtile (g : Guard) (t : BitVec 6) (k : BitVec 3)
  /-- SOLDER (R315): Ends the task, closing families and carrying ready merges. -/
  | solder (g : Guard)
  /-- VSYNC (R316): Closes the thread's families and waits for their merges. -/
  | vsync (g : Guard)
  /-- VQRY (R317): Reads a word about a view slot or the merge fault word. -/
  | vqry (g : Guard) (d : RegCode) (e : BitVec 6)
  /-- TRAP (R340): Enters the handler with code SOFTWARE. -/
  | trap (g : Guard) (k : BitVec 6)
  /-- ERET (R341): Returns from a handler to the saved point at program level. -/
  | eret (g : Guard)
  /-- YIELD (R342): Yields the thread under a pending save with a register keep mask. -/
  | yield (g : Guard) (a : RegCode)
  /-- DBRK (R340): Raises DEBUG when enabled, otherwise does nothing. -/
  | dbrk (g : Guard) (k : BitVec 6)
  /-- SLEEP (R343): Blocks the thread for a number of clk. -/
  | sleep (g : Guard) (a : Src)
  /-- SCALL (R340): Enters the system-call handler at control level. -/
  | scall (g : Guard) (k : BitVec 6)
  /-- SRET (R341): Returns from a system call, keeping predicates. -/
  | sret (g : Guard)
  /-- MFS (R344): Reads a system register. -/
  | mfs (g : Guard) (d : RegCode) (n : BitVec 6)
  /-- MTS (R344): Writes a system register. -/
  | mts (g : Guard) (a : Src) (n : BitVec 6)
  /-- TLBI (R345): Invalidates the context's translations, all or one page, package-wide. -/
  | tlbi (g : Guard) (a : RegCode) (k : BitVec 1)
  /-- CTXSW (R346): Saves, resumes or queries a context. -/
  | ctxsw (g : Guard) (d : RegCode) (a : Src) (k : BitVec 2)
  /-- COMMIT (R364): Arrives at the copy's next commit point in REDUN or SCREEN launches. -/
  | commit (g : Guard)
  /-- SIGQ (R365): Reads a thread or workgroup signature or the commit point number. -/
  | sigq (g : Guard) (d : RegCode) (k : BitVec 2)
  /-- ERRQ (R366): Reads a word of an error bank. -/
  | errq (g : Guard) (d : RegCode) (a : Src) (k : BitVec 3)
  /-- ERRCLR (R366): Clears an error bank's record and counts. -/
  | errclr (g : Guard) (a : Src)
  /-- ERRINJ (R367): Injects an error of a given kind. -/
  | errinj (g : Guard) (a : RegCode) (k : BitVec 3)
  /-- MIRF (R368): Waits until earlier mirrored writes are acknowledged and reports failure. -/
  | mirf (g : Guard) (d : PredCode)
  /-- HMQ (R378): Reads a word of a die's hallmark record. -/
  | hmq (g : Guard) (d : RegCode) (a : Src) (k : BitVec 4)
  /-- ASGN (R379): Asks the root to re-assay or re-measure a die. -/
  | asgn (g : Guard) (d : RegCode) (a : Src) (k : BitVec 1)
  /-- KEYI (R380): Installs the next receive-key generation of a link direction. -/
  | keyi (g : Guard) (a : RegCode)
  /-- KEYROLL (R381): Proposes or switches a link direction's key generation. -/
  | keyroll (g : Guard) (d : PredCode) (a : Src) (k : BitVec 1)
  /-- QUAR (R382): Quarantines a die or runs a single-die reset. -/
  | quar (g : Guard) (a : Src) (k : BitVec 1)
  /-- DIEQ (R378): Reads a die's state word. -/
  | dieq (g : Guard) (d : RegCode) (a : Src)
  /-- Event FLIT_CRC_FAILURE (R347): A flit fails its CRC on a link and is replayed. -/
  | flitCrcFailure (link : BitVec 9)
  /-- Event KEY_GENERATION_DROP (R374): The receiver drops the old key generation after 64 flits. -/
  | keyGenerationDrop (link : BitVec 9) (dir : BitVec 1)
  /-- Event ROLLOVER_REQUEST (R374): At 2^39 flits under one key the rollover interrupt is raised. -/
  | rolloverRequest (link : BitVec 9) (dir : BitVec 1)
  /-- Event HOST_MEMORY_ACCESS (R383): A host CXL.mem access is performed at the home slices. -/
  | hostMemoryAccess (write : Bool) (pa : BitVec 52) (data : List (BitVec 8))
  /-- Event DOORBELL (R272): A host write to a context's doorbell gives the new launch ring TAIL. -/
  | doorbell (ctx : BitVec 6) (secure : Bool) (tail : BitVec 64)
  /-- Event CTXCMD_SAVE (R385): A host CTXCMD write starts a context save. -/
  | ctxcmdSave (ctx : BitVec 6) (secure : Bool)
  /-- Event CTXCMD_RESUME (R385): A host CTXCMD write starts a context resume. -/
  | ctxcmdResume (ctx : BitVec 6) (secure : Bool)
  /-- Event CTXCMD_QUERY (R385): A host CTXCMD write queries a context. -/
  | ctxcmdQuery (ctx : BitVec 6) (secure : Bool)
  /-- Event TASK_PUT (R386): A host write to PUT offers the stored entry to a queue. -/
  | taskPut (ctx : BitVec 6) (queue : BitVec 6)
  /-- Event IRQSTAT_CLEAR (R384): Writing 1 to an IRQSTAT bit clears the pending vector. -/
  | irqstatClear (mask : BitVec 64)
  /-- Event PKGID_WRITE (R384): The first write to PKGID after reset sets the package ID. -/
  | pkgidWrite (v : BitVec 16)
  /-- Event ALLOW_WRITE (R384): A write to ALLOW sets the compute allowance, clamped to 2,360 W. -/
  | allowWrite (v : BitVec 32)
  /-- Event CTXTAB_WRITE (R384): A write to CTXTAB sets the context table base unless a context runs. -/
  | ctxtabWrite (v : BitVec 64)
  /-- Event DEVICE_REGISTER_WRITE (R384): A write to a device register without behaviour of its own stores the value. -/
  | deviceRegisterWrite (off : BitVec 32) (wide : Bool) (v : BitVec 64)
  /-- Event THERMAL_LIMIT (R227): A die's or stack's thermal limit changes, capping its permit demand from the next grant and applying to anvil operations and hearth waves that start afterwards. -/
  | thermalLimit (unit : BitVec 7) (slabs dense : BitVec 9)
  /-- Event BUNDLE_FORMATION (R73): Every 4 clk the bundler forms at most one bundle from candidates. -/
  | bundleFormation
  /-- Event CLAUSE_FETCH (R30): A clause is fetched whole and checked before any word issues. -/
  | clauseFetch
  /-- Event RESULT_LANDS (R93): A fixed-latency result lands in its register after its latency. -/
  | resultLands
  /-- Event LOAD_RESULT_LANDS (R141): A load result is written and counter L falls. -/
  | loadResultLands
  /-- Event STORE_LEAVES_QUEUE (R143): A store leaves the thread's store queue and counter S falls. -/
  | storeLeavesQueue
  /-- Event ATOMIC_PERFORMED (R181): An atomic is performed at its place and its counter falls. -/
  | atomicPerformed
  /-- Event TOKEN_GRANT (R172): The rectangle's serialisation token is granted to the next waiting thread. -/
  | tokenGrant
  /-- Event BARRIER_RELEASE (R179): Waiters are released 8 clk after a phase completes. -/
  | barrierRelease
  /-- Event GSYNC_SWAP_OUT (R270): A parked workgroup is saved to free room for an unstarted one. -/
  | gsyncSwapOut
  /-- Event GSYNC_COMPLETE (R270): The grid barrier completes and saved workgroups are restored in order. -/
  | gsyncComplete
  /-- Event WAITV_REREAD (R178): The waited word is read again after a write to its sector or every 1,024 clk. -/
  | waitvReread
  /-- Event L1_COPY_EXPIRY (R157): An L1 copy expires or its dirty bytes are written back within 16,384 clk. -/
  | l1CopyExpiry
  /-- Event TRAP_ENTRY (R323): A delivered fault enters the handler once outstanding writes have landed. -/
  | trapEntry
  /-- Event BREAKPOINT (R336): A thread about to issue a word at an enabled breakpoint takes a debug event. -/
  | breakpoint
  /-- Event COPY_ACCEPTANCE (R187): A copy queue accepts a command when it has room and counter C falls. -/
  | copyAcceptance
  /-- Event COPY_COMMAND_START (R185): A copy engine starts the next command of a queue it serves. -/
  | copyCommandStart
  /-- Event COPY_SEGMENT_ARRIVAL (R134): A row segment lands and adds its bytes to the tile's arrived count. -/
  | copySegmentArrival
  /-- Event COPY_FINISH (R192): A command finishes once its writes are performed and DONE increments. -/
  | copyFinish
  /-- Event HSUM_SAMPLE (R213): At the queue head the channel status is sampled into the register. -/
  | hsumSample
  /-- Event HEARTH_RED_ACCEPT (R205): A hearth RED is accepted into its channel's queue when it has room. -/
  | hearthRedAccept
  /-- Event HEARTH_RED_APPLY (R205): The hearth applies an accepted update to its sector. -/
  | hearthRedApply
  /-- Event HLUT_WAVE_STEP (R209): One all-bank wave step opens a row and accumulates table values. -/
  | hlutWaveStep
  /-- Event HEARTH_REFRESH (R212): At 8 postponed refreshes the wave splits and the channel refreshes. -/
  | hearthRefresh
  /-- Event ANVIL_OPERATION_START (R227): An accepted anvil operation starts once its sequencer, slabs and permits are free. -/
  | anvilOperationStart
  /-- Event PERMIT_GROUP_END (R227): A permit group ends and writes the values accumulated so far. -/
  | permitGroupEnd
  /-- Event ANVIL_OPERATION_COMPLETE (R224): An anvil operation writes its last entry and M falls. -/
  | anvilOperationComplete
  /-- Event MMA_START (R251): A dense operation starts with a permit and reads its tiles once. -/
  | mmaStart
  /-- Event MMA_COMPLETE (R252): A dense operation writes its last entry and M falls. -/
  | mmaComplete
  /-- Event NZSCAN_COMPLETE (R254): A scan writes its last word, making the destination READY. -/
  | nzscanComplete
  /-- Event EPI_START (R258): An epilogue starts and reads its bias values. -/
  | epiStart
  /-- Event EPI_COMPLETE (R258): An epilogue writes its trailer and M falls. -/
  | epiComplete
  /-- Event CRALLOC_GRANT (R242): The head bank request is granted when enough banks are free. -/
  | crallocGrant
  /-- Event NOPROGRESS (R234): After 256 clk without progress the youngest bank request fails. -/
  | noprogress
  /-- Event LEASE_GRANT (R231): A free engine is leased to the next requesting workgroup. -/
  | leaseGrant
  /-- Event LAUNCH_ACCEPTANCE (R263): The dispatcher checks a launch record and accepts or refuses it. -/
  | launchAcceptance
  /-- Event WORKGROUP_PLACEMENT (R267): A waiting workgroup is placed on a core with room. -/
  | workgroupPlacement
  /-- Event WORKGROUP_RETIRE (R269): An exited workgroup retires once its resources are released. -/
  | workgroupRetire
  /-- Event LAUNCH_COMPLETION (R265): A launch completes and its completion area is written. -/
  | launchCompletion
  /-- Event MIGRATE_MOVE (R286): Once every thread has arrived the workgroup is checked and moved. -/
  | migrateMove
  /-- Event TASK_PUT_PLACEMENT (R276): The home die places a put on-die, spills it, or refuses it. -/
  | taskPutPlacement
  /-- Event TASK_REFILL (R277): An entry is refilled from the spill ring into the on-die portion. -/
  | taskRefill
  /-- Event STENCIL_EVALUATION (R285): The release rule is evaluated after a TDONE or every 4,096 clk. -/
  | stencilEvaluation
  /-- Event TASK_DISPATCH (R283): The dispatcher starts a group of released tasks in idle slots. -/
  | taskDispatch
  /-- Event MERGE (R307): A ready merge computes a shadow of target and source. -/
  | merge
  /-- Event MERGE_COMMIT (R307): A merge's shadow becomes the target's contents. -/
  | mergeCommit
  /-- Event CONTEXT_SAVE_COMPLETE (R328): A context save finishes its drain and writes the save area. -/
  | contextSaveComplete
  /-- Event WORKGROUP_RESTORE (R330): A saved workgroup is restored on a core with room after resume. -/
  | workgroupRestore
  /-- Event YIELD_DEADLINE_EXPIRY (R332): The yield grace count reaches 0 and the workgroup is saved in full. -/
  | yieldDeadlineExpiry
  /-- Event WATCHDOG (R334): WDCOUNT reaches WDLIMIT and WATCHDOG is delivered. -/
  | watchdog
  /-- Event SLEEP_EXPIRY (R343): A sleeping thread's count expires and it returns. -/
  | sleepExpiry
  /-- Event QPUTW_TIMEOUT (R291): A QPUTW bound expires and the lane writes false. -/
  | qputwTimeout
  /-- Event COMMIT_POINT (R352): A copy reaches a commit point and signatures are compared. -/
  | commitPoint
  /-- Event MIRROR_TIMEOUT (R360): A mirror write unacknowledged for 100 µs counts as acknowledged and is recorded. -/
  | mirrorTimeout
  /-- Event PATROL_SCRUB (R347): Patrol scrub reads and corrects protected words. -/
  | patrolScrub
  /-- Event PACKAGE_RESET (R373): Package reset ends and the root assays the dies. -/
  | packageReset
  /-- Event ASSAY (R371): The root completes an SPDM assay of a die and makes it LIVE or quarantines it. -/
  | assay
  /-- Event ASSAY_TIMEOUT (R373): An assay not complete within 50 ms quarantines the die. -/
  | assayTimeout
  /-- Event LINK_TRAINING (R372): Link training after reset brings a link to MGMT. -/
  | linkTraining
  /-- Event POWER_GRANT_PERIOD (R388): Each 1 µs period the arbiter grants permits within the allowance. -/
  | powerGrantPeriod
  /-- Event RALPEX_TIMEOUT (R387): A request to a package unanswered for 100 µs fails and is recorded. -/
  | ralpexTimeout
  /-- Event RALPEX_REQUEST (R387): A request for another package's address is carried and performed there. -/
  | ralpexRequest
  /-- Event LAUNCH_RING_READ (R272): The device reads and starts a host launch record from the ring. -/
  | launchRingRead
  /-- Event KEY_INSTALL_ACKNOWLEDGEMENT (R380): The receiving end installs or rejects the key sent by KEYI and its acknowledgement reaches the sender, recording the ack and letting KEYI return. -/
  | keyInstallAcknowledgement
  /-- Event MIRROR_ACKNOWLEDGEMENT (R360): Both writes of a store to an M = 1 page have been acknowledged, so the store counts as performed at PACKAGE scope and waiting MIRF threads may proceed. -/
  | mirrorAcknowledgement
  /-- Event MIGRATE_ARRIVAL (R286): The moved workgroup's message arrives on the target core, and each thread receives true and continues after MIGRATE with its new age. -/
  | migrateArrival
  deriving DecidableEq, Repr

end Sys2Proof
end

