-- ==== Sys2Proof/Machine/State.lean ====
section
/-! DEFINITION. The state of the package GB-4432 as plain data: every piece of state the manual names, and the few
fields of the model's own that INVENTORY.md lists as such. -/

namespace Sys2Proof.Machine

/-- Sparse bytes by address, rising, no byte of 0 listed: an unlisted address reads 0 (R127 for local store; for
physical memory the choice of log entry 2). -/
abbrev Mem := List Host.Cell

/-- A register's image in one home wave, by its shape tag (R79): U one word, A base and stride, G 32 words. -/
inductive RegImg where
  | u (x : Word)
  | a (base stride : Word)
  | g (ws : List Word)
  deriving DecidableEq, Repr

/-- The six issue counters that count (R28). T is no count. -/
inductive Ctr where
  | l | s | c | m | a | v
  deriving DecidableEq, Repr

/-- The values of a thread's counters, each 6 bits wide (R28). -/
structure Counters where
  l : Nat
  s : Nat
  c : Nat
  m : Nat
  a : Nat
  v : Nat
  deriving DecidableEq, Repr, Inhabited

/-- What an entry of a thread's store queue does when it leaves it (R143, R146, R177). -/
inductive SqAct where
  /-- bytes to window addresses, each list from its address on -/
  | window (ws : List (Nat × List Byte))
  /-- bytes to the blank of view entry `v`, from a byte offset on (R303) -/
  | blank (v : Nat) (ws : List (Nat × List Byte))
  /-- bytes to memory at a physical address; `ca` cacheable, `mi` mirrored (R124, R165) -/
  | memory (va pa : Nat) (ca mi : Bool) (bs : List Byte)
  /-- bytes of an element and a trailer in the spill area, in this order: virtual and physical address, cacheable,
  mirrored (R303) -/
  | spilled (ws : List (Nat × Nat × Bool × Bool × List Byte))
  /-- STRL at a scope (R177) -/
  | release (scope va pa : Nat) (ca mi : Bool) (bs : List Byte)
  /-- CCTL (R146) -/
  | cctl (fn pa : Nat)
  /-- TDONE: a bit of the byte at a physical address in the scoreboard of a queue (R294) -/
  | retire (queue pa : Nat) (mi : Bool) (bit : Nat)
  deriving DecidableEq, Repr

structure SqEntry where
  due : Nat
  /-- the number of the instruction that made it, one for all the lanes of its bundle -/
  seq : Nat
  act : SqAct
  deriving DecidableEq, Repr

/-- A transaction's state (R169, R173). `writes` holds the buffered bytes by physical address. -/
structure Tx where
  active : Bool
  target : CodeAddr
  reads : List (Nat × List Byte)
  wsecs : List Nat
  writes : List (Nat × List Byte)
  aborts : Nat
  token : Bool
  fcode : Nat
  cause : Nat
  code : Nat
  /-- sectors of its write set on mirrored pages -/
  msecs : List Nat
  deriving DecidableEq, Repr

/-- The trap registers (R320). -/
structure TrapRegs where
  cause : Word
  addr : Word64
  pc : Word64
  cls : Word64
  meet : Word64
  link : Word64
  pred : Word
  scr : List Word64
  deriving DecidableEq, Repr

/-- A fault on its way to the handler (R31, R323). `cls` is the value TRAPCLS will hold. -/
structure TrapRec where
  code : Nat
  addr : Word64
  pc : CodeAddr
  cls : Word64
  deriving DecidableEq, Repr

/-- A task entry (R275): words 0 to 6, its queue, its spawn-record number (R301), and whether the host put it. -/
structure TaskEntry where
  words : List Word
  queue : Nat
  spawn : Nat
  host : Bool
  deriving DecidableEq, Repr

/-- What a blocked thread waits on (R72). -/
inductive Wait where
  | bar (k phase : Nat)
  | awaitb (k phase : Nat)
  | gsync
  | waitv (cond va : Nat) (v : Word) (external : Bool)
  | await (ops : List Nat)
  | cralloc (req : Nat)
  | lwait (handle d : Nat)
  | vsync
  | solder
  | qputw (put : Nat)
  /-- the target is TAIL once the thread's own commands are accepted (R204) -/
  | cqdrain (queue : Nat) (target : Option Nat)
  | lease (eng : Nat)
  | sleep (till : Nat)
  /-- the die, or 128 and the answer already known; the result register -/
  | asgn (die d : Nat)
  | commit (point : Nat)
  | migrate (target : Word) (d : Nat)
  | ctxsw (ctx d : Nat)
  | yield (mask : Word64)
  | mirf (d : Nat)
  | keyi (id : Nat)
  | token
  | slot
  /-- held at its meet point: only of a thread that WATCHDOG has taken from there (R329, R334) -/
  | meet
  deriving DecidableEq, Repr

/-- What a thread parked on T waits for (R28, R133, R197, R315). -/
inductive Park where
  /-- the tile READY -/
  | ready (t : Nat)
  /-- the tile READY and no merge copying it in: an emptying command may start (R307) -/
  | empty (t : Nat)
  /-- the tile EMPTY or READY and no accepted reader of it outstanding: a fill may start -/
  | fill (t : Nat)
  /-- the tile EMPTY, READY or FREE, no accepted reader outstanding: TFREE may act -/
  | free (t : Nat)
  /-- source READY here and target EMPTY or READY there -/
  | pair (t wg rt : Nat)
  /-- none of the thread's view tiles FILLING or DRAINING -/
  | views
  deriving DecidableEq, Repr

/-- Where a thread stands. -/
inductive TStatus where
  /-- in a live bundle (R73) -/
  | live
  /-- belongs to no bundle and is neither held nor blocked; a candidate once its waits hold (R71, R397) -/
  | ready
  | blocked (w : Wait)
  | parked (p : Park)
  /-- held at its meet point (R76) -/
  | held
  /-- a fault delivered, waiting for its outstanding writes (R323) -/
  | trapping (r : TrapRec)
  | exited
  /-- an idle task slot (R280) -/
  | idle
  deriving DecidableEq, Repr

/-- A place in code: the word's address, its clause's header and its index in the clause. -/
structure Pos where
  pc : CodeAddr
  hdr : CodeAddr
  idx : Nat
  deriving DecidableEq, Repr

/-- A wait after arrival that WATCHDOG interrupted: the return point it recorded, and where the thread goes on once the
wait is over (R329, R334). -/
structure Interrupted where
  wait : Wait
  cls : Word64
  pc : CodeAddr
  mid : Option (CodeAddr × Nat)
  deriving DecidableEq, Repr

/-- A thread (R68, R318, R320, R169, R297, R351, R360). -/
structure Thread where
  pc : CodeAddr
  /-- inside a clause: its header's address and the index of the word at pc; `none` at a header -/
  mid : Option (CodeAddr × Nat)
  /-- the word it issued last: where a wait issues again (R329, R334) -/
  here : Pos
  meet : Option CodeAddr
  link : CodeAddr
  preds : BitVec 8
  ctr : Counters
  /-- instructions that are over while an earlier one of their counter is not: counter and number (R28) -/
  fell : List (Ctr × Nat)
  sq : List SqEntry
  fpctl : Word
  priv : Bool
  trap : TrapRegs
  tx : Tx
  vs : List (Option Nat)
  mergeFault : Word
  task : Option TaskEntry
  seed : Bool
  sig : Word64
  mirFail : Bool
  poison : Option Word64
  skipBp : Bool
  wd : Option Interrupted
  /-- its last word carried the switch marker (R29) -/
  drain : Bool
  st : TStatus
  /-- clk since which it has been a candidate without issuing, for the age of R73: it moves on while it is none -/
  since : Nat
  /-- the earliest clk it may be a candidate, 4 clk after a branch (R83) -/
  notBefore : Nat
  /-- the clk at which its block ends, once that is known -/
  wake : Option Nat
  /-- the number from which on instructions are its task's: earlier ones count no more (R283) -/
  born : Nat
  /-- registers whose value depends on a load, each with a clk that such a load was performed before (R160) -/
  deps : List (Nat × Nat)
  deriving DecidableEq, Repr

/-- Tile states (R132, R150 codes). -/
inductive TileState where
  | free | empty | filling | ready | draining
  deriving DecidableEq, Repr

/-- A tile table entry (R131). -/
structure Tile where
  st : TileState
  /-- the descriptor of R148 -/
  desc : Word64
  expected : Nat
  arrived : Nat
  ovf : Nat
  /-- the clk of the counter's last increments, its value before them, and how many there were in that clk (R150) -/
  recent : Nat × Nat × Nat
  /-- a view tile: the view entry of the blank it is bound to (R303) -/
  view : Option Nat
  /-- a root view is declared over it (R312) -/
  bound : Bool
  /-- accepted matrix operations that have still to read it: a fill waits for them (R224, R251) -/
  readers : Nat
  /-- copies to another tile that have still to read it: a fill and a TFREE wait for them (R197) -/
  lent : Nat
  deriving DecidableEq, Repr

/-- Where a view's data stands: the tile of a root, granules of a core, or the spill area (R296, R302, R307). -/
inductive ViewStore where
  | tile (t : Nat)
  | local_ (core : Nat) (m : Mem)
  | spill (off : Nat) (reached : Bool)
  deriving DecidableEq, Repr

inductive ViewState where
  | live | soldering | merged | faulted
  deriving DecidableEq, Repr

/-- A view table entry (R296). -/
structure View where
  entry : Nat
  owner : Nat
  slot : Nat
  root : Bool
  op : Nat
  /-- geometry: the descriptor of its tile -/
  desc : Word64
  store : ViewStore
  st : ViewState
  /-- parent: holding workgroup g and entry (R296) -/
  parent : Option (Nat × Nat)
  index : Nat
  counter : Nat
  closed : Bool
  /-- sibling merges received so far: the j of R304 that comes next -/
  recv : Nat
  deriving DecidableEq, Repr

/-- A barrier (R179). -/
structure Barrier where
  expected : Nat
  arrived : Nat
  phase : Nat
  deriving DecidableEq, Repr

/-- An owned slab's mode, scale side store and block map (R214, R217, R218). Its bytes stand in the window (R127). -/
structure Slab where
  anvil : Bool
  scales : Mem
  map : Mem
  /-- bytes of the side store, and of the map from 2,048 on, that were written with uncorrectable data (R229) -/
  bad : List Nat
  deriving DecidableEq, Repr

/-- An operation in a slab's order (R215). -/
inductive SlabAct where
  /-- SLABM: it also waits for the store queues of its threads (R236) -/
  | mode (anvil : Bool) (ts : List Nat)
  | wload (cmd : Nat)
  /-- bytes read at issue, and which of them were uncorrectable (R229, R238) -/
  | mapLoad (bs : List Byte) (bad : List Nat)
  | mapScan (elem : Nat)
  | scaleLoad (bs : List Byte) (bad : List Nat)
  | scaleFill (x : Byte)
  | anvil (op : Nat)
  deriving DecidableEq, Repr

/-- A crucible bank name (R232): held, 4,096 words by entry as bytes, overflow counter, poisoned entries. -/
structure CrBank where
  held : Bool
  data : Mem
  ovf : Nat
  /-- entries written with uncorrectable data (R229, R258) -/
  bad : List Nat
  deriving DecidableEq, Repr

/-- A physical bank whose name was freed while operations accepted before still use it (R243). -/
structure FreedBank where
  wg : Nat
  name : Nat
  bank : CrBank
  ops : List Nat
  deriving DecidableEq, Repr

/-- Lease states (R230). -/
inductive Lease where
  | none
  | held (r n : Nat)
  | spent (n : Nat)
  deriving DecidableEq, Repr

/-- An atomic that has issued and is not performed (R181, R205, R354). `fields` is its parameter word. -/
structure AtomOp where
  id : Nat
  due : Nat
  wg : Nat
  tidx : Nat
  va : Nat
  pa : Nat
  fields : Word
  isC : Bool
  result : Option Nat
  opB : Word64
  opC : Word64
  ca : Bool
  mi : Bool
  /-- its result goes onto a pair's forwarding path: its thread ran beside a trailing one when it issued (R350, R356) -/
  fwd : Bool
  deriving DecidableEq, Repr

/-- A store or no-result atomic held in a store-buffer slot (R353, R354, R358). -/
inductive BufAct where
  | store (a : SqAct)
  | atomic (a : AtomOp)
  deriving DecidableEq, Repr

structure BufEntry where
  tidx : Nat
  /-- the commit point its interval ends at (R352) -/
  point : Nat
  act : BufAct
  deriving DecidableEq, Repr

/-- A checkpoint of a copy (R352), its window included (which the undo log of R353 stands for). -/
structure Checkpoint where
  point : Nat
  threads : List Thread
  waves : List (List RegImg)
  barriers : List Barrier
  tiles : List Tile
  window : Mem
  deriving DecidableEq, Repr

/-- A performed atomic of a REDUN pair (R354). -/
structure AtomLog where
  tidx : Nat
  point : Nat
  ordinal : Nat
  operands : List Word64
  result : Word64
  deriving DecidableEq, Repr

/-- Redundant or screened execution of one copy (R349 to R357). A workgroup of a SCREEN launch that is not screened runs once: its
partner is 0, which no workgroup has, and it keeps signatures and commit points alone (R351, R357). -/
structure Redun where
  trailing : Bool
  screen : Bool
  partner : Nat
  point : Nat
  matched : Nat
  sigs : List (Nat × Word64)
  checkpoints : List Checkpoint
  rollbacks : Nat
  everRolled : Bool
  everFaulted : Bool
  /-- intervals marked mismatched, by the point they end at (R350, R354) -/
  bad : List Nat
  screenHit : Bool
  inject : Bool
  reexec : Bool
  /-- the point at which every thread has exited is reached -/
  final : Bool
  buf : List BufEntry
  /-- values forwarded to this trailing copy: thread, address, value -/
  fwd : List (Nat × Word64 × List Byte)
  atoms : List AtomLog
  issued : List (Nat × Nat)
  /-- logged segments of the window: interval and segment (R353) -/
  segs : List (Nat × Nat)
  /-- stores and atomics of matched intervals that are being performed, in this order (R353, R354) -/
  rel : List BufEntry
  /-- points whose signature ERRINJ inverted (R367) -/
  injAt : List Nat
  deriving DecidableEq, Repr

/-- Containment (R358): whether the workgroup is contained, and its held stores; once it is not, those that are still to be
performed, in this order. -/
structure Contain where
  on : Bool
  buf : List BufEntry
  deriving DecidableEq, Repr

/-- A resident or saved workgroup (R69, R70, R127, R131, R179, R202, R214, R230, R232, R248, R296, R332). -/
structure Workgroup where
  uid : Nat
  launch : Nat
  ctx : Nat
  g : Nat
  core : Nat
  slot : Nat
  age : Nat
  /-- clk when the bundler last served it (R73) -/
  served : Nat
  secure : Bool
  regs : Nat
  threads : List Thread
  waves : List (List RegImg)
  window : Mem
  lsbytes : Nat
  /-- poisoned and flipped words of the window (R367) -/
  poison : List Nat
  flips : List Nat
  slabs : List Slab
  slabQ : List (Nat × SlabAct)
  tiles : List Tile
  views : List View
  nviews : Nat
  barriers : List Barrier
  omaps : List (Option Word64)
  cr : List CrBank
  leases : List Lease
  cq : Nat
  /-- LSERR of its core when it was saved (R331) -/
  lserr : Word64
  ydeadline : Nat
  yreq : Bool
  yielded : Bool
  gparked : Bool
  redun : Option Redun
  contain : Option Contain
  kills : Nat
  deriving DecidableEq, Repr

/-- The fields of a launch record (R261) beside its 256 bytes. -/
structure LaunchRec where
  raw : List Byte
  code : Nat
  entry : Nat
  regs : Nat
  prio : Nat
  flags : Nat
  x0 : Nat
  y0 : Nat
  w : Nat
  h : Nat
  wgpc : Nat
  threads : Nat
  lsbytes : Nat
  slabs : Nat
  crbanks : Nat
  tiles : Nat
  views : Nat
  gridx : Nat
  gridy : Nat
  param : Word64
  fmt : List Word64
  qmask : Word64
  stencil : Word64
  done : Nat
  deriving DecidableEq, Repr

/-- An accepted launch (R263 to R269). -/
structure Launch where
  id : Nat
  ctx : Nat
  /-- 0 for a host launch (R272) -/
  handle : Nat
  lr : LaunchRec
  /-- the next workgroup never started, and the killed ones to be started again with their kills and the die they left (R358) -/
  next : Nat
  again : List (Nat × Nat × Nat)
  retired : Nat
  killed : Bool
  status : List (Nat × Byte)
  tokenHolder : Option (Nat × Nat)
  tokenQueue : List (Nat × Nat)
  complete : Bool
  /-- where the round-robin over the rectangle's cores stands (R283) -/
  rr : Nat
  /-- where the round-robin over its queues stands (R282) -/
  rrq : Nat
  deriving DecidableEq, Repr

/-- A copy queue (R186, R398). `pages` are the frames of the held ring translation. -/
structure CopyQueue where
  enabled : Bool
  entryPa : Nat
  size : Nat
  pages : List Nat
  head : Word
  tail : Word
  done : Word
  prog : Nat
  err : Nat
  deriving DecidableEq, Repr

/-- A task on-die or in the ring (R277, R282). -/
structure QTask where
  entry : TaskEntry
  released : Bool
  bypass : Nat
  /-- its spawn record could not be used: it waits while ERR stands (R301) -/
  stuck : Bool
  deriving DecidableEq, Repr

/-- A task queue (R274). -/
structure TaskQueue where
  enabled : Bool
  entryPa : Nat
  ring : Nat
  size : Nat
  home : Nat
  ondie : Nat
  sbaddr : Nat
  rhead : Word
  rtail : Word
  puts : Word
  taken : Word
  refused : Word
  err : Nat
  stencil : Word64
  die : List QTask
  claim : Option Nat
  /-- a TDONE made an evaluation due; the clk of the last one (R285) -/
  evalDue : Bool
  evalAt : Nat
  deriving DecidableEq, Repr

/-- The launch ring of a context (R272). -/
structure LaunchRing where
  present : Bool
  headerPa : Nat
  pages : List Nat
  size : Nat
  head : Word
  tail : Word
  deriving DecidableEq, Repr

/-- The device's copy of a context descriptor (R326). -/
structure Desc where
  ptroot : Nat
  save : Nat
  savesize : Nat
  trapvec : Nat
  trapvecs : Nat
  scallvec : Nat
  cqtab : Nat
  tqtab : Nat
  lring : Nat
  vspill : Nat
  vspillsz : Nat
  wdlimit : Nat
  ygrace : Nat
  prio : Nat
  cflags : Nat
  ext : List (Nat × Nat)
  deriving DecidableEq, Repr

inductive CtxState where
  | empty | running | saving | saved | stopped
  deriving DecidableEq, Repr

/-- What a save in progress ends in (R324, R327), and whether the host asked for it (R385). -/
structure Saving where
  toStopped : Bool
  host : Bool
  deriving DecidableEq, Repr

/-- LSERR of a core (R129, R130): the record held before clk `at_`, the first record of that clk by home wave, home lane and
address, and where that one stands in the order. -/
structure LsErr where
  core : Nat
  held : Word64
  at_ : Nat
  new : Word64
  key : Nat × Nat × Nat
  deriving DecidableEq, Repr

/-- A context (R326, R327, R333, R335, R271, R129, R301). -/
structure Context where
  state : CtxState
  desc : Desc
  status : Word64
  /-- stopped without a save (R324 bit 40) -/
  resident : Bool
  saving : Option Saving
  wdcount : Nat
  dbgctl : Word
  dbgstep : Word64
  dbgbp : List Word64
  /-- the stepped thread whose instruction has issued and is not done (R337) -/
  stepping : Option (Nat × Nat)
  cqs : List CopyQueue
  tqs : List TaskQueue
  ring : LaunchRing
  handles : List (Nat × Nat)
  lserr : List LsErr
  /-- spill area: pages taken, each run with the record number it belongs to (R301) -/
  spill : List (Nat × Nat × Nat)
  /-- spawn records: number and, for each slot of the mask, slot, parent g, parent entry, index -/
  records : List (Nat × List (Nat × Nat × Nat × Nat))
  saved : List Workgroup
  doorbell : Word64
  /-- a doorbell that rang while the ring was absent, and its agent's world (R272) -/
  kept : Option (Word64 × Bool)
  /-- TAIL values that were rung and whose records are not all read, with the world of the agent (R263, R385) -/
  rung : List (Word × Bool)
  /-- of each saved queue, which of its on-die tasks were released (R285) -/
  released : List (Nat × List Bool)
  deriving DecidableEq, Repr

/-- Threads of a live bundle that stand at a header of their own and wait for the split that makes them a bundle (R74). -/
structure Group where
  tids : List Nat
  hdr : CodeAddr
  notBefore : Nat
  deriving DecidableEq, Repr

/-- A live bundle (R73, R74): its threads as TIDX, one home lane each. -/
structure Bundle where
  id : Nat
  core : Nat
  wg : Nat
  tids : List Nat
  hdr : CodeAddr
  /-- the fetched clause words; `none` until CLAUSE_FETCH (R30) -/
  words : Option (List Word)
  idx : Nat
  cls : Nat
  formed : Nat
  notBefore : Nat
  /-- groups at other headers that no split could part from it while 32 bundles are live (R74, log entry 49) -/
  rest : List Group
  /-- a CRWR that waits: the number from which on operations come after it, and the entries it will write (R259) -/
  crwr : Option (Nat × List (Nat × Nat))
  /-- a TLBI that waits: the number from which on accesses come after it (R345) -/
  tlbi : Option Nat
  deriving DecidableEq, Repr

/-- The word being issued: what `exec` of an instruction acts for (the model's own, log entry 1). -/
structure Issue where
  bundle : Nat
  core : Nat
  wg : Nat
  tids : List Nat
  hdr : CodeAddr
  idx : Nat
  addr : CodeAddr
  next : CodeAddr
  len : Nat
  last : Bool
  port : Nat
  deriving DecidableEq, Repr

/-- A write to one register of one home wave (R80): the image it leaves when all 32 lanes are written, and the lanes. -/
structure RegWrite where
  hw : Nat
  reg : Nat
  img : Option RegImg
  lanes : List (Nat × Word)
  deriving DecidableEq, Repr

/-- Values that are sampled when they land (R203, R292, R366, R378). -/
inductive Late where
  | cqstat (ctx queue fn : Nat)
  | qstat (ctx queue : Nat)
  | errq (banks : List (Nat × Nat)) (k : Nat)
  | hmq (die k : Nat)
  | dieq (die : Nat)
  deriving DecidableEq, Repr

/-- A table entry that VDECL or VTILE makes 8 clk after its issue (R312, R314). -/
inductive Make where
  | root (tile op slot : Nat) (desc : Word64)
  | bind (tile entry : Nat)
  deriving DecidableEq, Repr

/-- A result that has not landed (R27, R29, R80, R96, R348). -/
structure Pend where
  id : Nat
  /-- the number of the instruction it belongs to -/
  seq : Nat
  due : Nat
  wg : Nat
  tids : List Nat
  ctr : Option Ctr
  /-- a load's result: it lands by LOAD_RESULT_LANDS -/
  load : Bool
  regs : List RegWrite
  preds : List (Nat × Nat × Bool)
  flags : List (Nat × BitVec 5)
  sys : List (Nat × Nat × Word64)
  /-- threads whose data was poisoned, with the address (R348) -/
  poison : List (Nat × Word64)
  late : Option (Late × Nat)
  makes : List (Nat × Make)
  /-- by thread, what the registers it was computed from depend on (R160); none until its instruction has issued -/
  deps : Option (List (Nat × Nat))
  deriving DecidableEq, Repr

inductive CmdKind where
  | cpy | cpyg | cpys | cpyx | wload | hlutw | hlut | hsum
  deriving DecidableEq, Repr

/-- A command of a copy queue (R187 to R192, R207, R213, R237). -/
structure Cmd where
  id : Nat
  ctx : Nat
  queue : Nat
  kind : CmdKind
  wg : Nat
  tidx : Nat
  /-- the threads whose C counts it -/
  tids : List Nat
  block : List Byte
  /-- translations made at issue: page of the va, physical page (R190) -/
  xlate : List (Nat × Nat)
  /-- gather and scatter indices, read at issue (R198) -/
  idx : List Nat
  /-- target workgroup of CPY DIR 2 (R197) -/
  rwg : Nat
  accepted : Bool
  num : Word
  started : Bool
  /-- destination bytes moved; steps of a wave -/
  seg : Nat
  due : Nat
  /-- AN operations of the thread that ORDAN waits for (R192) -/
  ans : List Nat
  /-- HSUM: destination register and clear; CPYX: the slots' words; WLOAD: slab and form -/
  arg : Nat × Nat
  /-- the die it was issued on (R185) -/
  die : Nat
  /-- CPYX: elements that saturated up to the last multiple of 128 destination bytes, and since -/
  sat : Nat × Nat
  /-- destination sectors in the order they will be written, one entry for each segment that touches one -/
  sectors : List Nat
  /-- source sectors read, each once and whole, for its later segments (R163) -/
  held : List (Nat × List Byte)
  /-- bytes of destination sectors that are not complete: address, mirrored, bytes (R163) -/
  out : List (Nat × Bool × List Byte)
  /-- the completion word has been written -/
  cw : Bool
  /-- sectors of the spill area that it fills (R163, R303) -/
  fills : List Nat
  deriving DecidableEq, Repr

inductive MatKind where
  | amv (seq : Nat) | mma | mmag | nzscan | epi
  deriving DecidableEq, Repr

inductive MatState where
  | queued
  | running (till : Nat)
  /-- stopped between permit groups by a save (R228) -/
  | between
  deriving DecidableEq, Repr

/-- A matrix operation (R222 to R228, R247 to R258): its parameter block, the slots and maps captured at issue. -/
structure MatOp where
  id : Nat
  kind : MatKind
  wg : Nat
  tidx : Nat
  /-- the threads whose M counts it -/
  tids : List Nat
  blk : List Byte
  slots : List Word64
  maps : List Word64
  desc : Word64
  /-- the tiles that it reads at its start, with their descriptors at its acceptance: TFREE may free them meanwhile (R133) -/
  geo : List (Nat × Word64)
  st : MatState
  /-- slabs whose groups have ended, and slabs of the group under way (R227) -/
  group : Nat
  perGroup : Nat
  /-- permits it keeps until it completes (R227) -/
  permits : Nat
  /-- it has consumed poisoned data: its thread takes UNCORRECTABLE after the operation (R348) -/
  bad : Bool
  /-- entries whose sums used bad data in its earlier groups (R229) -/
  badAt : List Nat
  /-- what the operation read at its start: activation rows, operand elements, bias bytes; 256 (or 2^64) stands for
  poisoned data -/
  data : List (List Nat)
  deriving DecidableEq, Repr

/-- A CRALLOC request (R233, R242). -/
structure CrReq where
  id : Nat
  core : Nat
  wg : Nat
  tids : List Nat
  base : Nat
  n : Nat
  d : Nat
  at_ : Nat
  /-- the clk the grant lands, once the request heads the queue and its banks are free -/
  due : Option Nat
  deriving DecidableEq, Repr

/-- A lease request (R230, R231, R246). -/
structure LeaseReq where
  core : Nat
  eng : Nat
  wg : Nat
  n : Nat
  tids : List Nat
  deriving DecidableEq, Repr

/-- An engine of a core and its lease (R231). -/
structure Engine where
  core : Nat
  eng : Nat
  owner : Option Nat
  lastSlot : Nat
  deriving DecidableEq, Repr

/-- A put on its way to the home die (R276, R291, R313, R386). -/
structure Put where
  id : Nat
  /-- one number for the lanes of one instruction -/
  seq : Nat
  ctx : Nat
  queue : Nat
  entry : TaskEntry
  wg : Nat
  tidx : Nat
  d : Nat
  due : Nat
  /-- QPUTW: the clk its bound ends -/
  till : Option Nat
  mask : List Nat
  isSpawn : Bool
  host : Bool
  deriving DecidableEq, Repr

/-- A merge that is ready or under way (R305 to R307): its carrier (workgroup, thread), its views (workgroup, entry),
its shadow and the place of it in the spill area, none for granules of the carrier's core. -/
structure MergeJob where
  id : Nat
  carrier : Nat × Nat
  src : Nat × Nat
  tgt : Nat × Nat
  shadow : Option (List Byte)
  off : Option Nat
  due : Nat
  deriving DecidableEq, Repr

/-- An event of the merge tree (R306): its clk, the thread whose it is, the view (workgroup, entry) it reaches. -/
structure MergeEvent where
  at_ : Nat
  thread : Nat × Nat
  view : Nat × Nat
  deriving DecidableEq, Repr

/-- A LAUNCH on its way to the dispatcher, or a ring record (R273, R288). -/
structure LaunchReq where
  id : Nat
  ctx : Nat
  wg : Nat
  tidx : Nat
  d : Nat
  raw : List Byte
  secure : Bool
  host : Bool
  due : Nat
  deriving DecidableEq, Repr

/-- An error bank (R361). -/
structure Bank where
  w0 : Word64
  w1 : Word64
  w2 : Word64
  w3 : Word64
  corrected : Nat
  overflow : Nat
  deriving DecidableEq, Repr

/-- The parts of an error record (R361). -/
structure ErrInfo where
  ue : Bool
  cont : Bool := false
  inj : Bool := false
  unit : Nat
  core : Nat := 0x3FF
  ctx : Option Nat := none
  fault : Nat := 0
  w1 : Nat := 0
  w3 : Nat := 0
  deriving DecidableEq, Repr

/-- An error that reached a bank in the clk in progress, with word 0 of its record (R362). -/
structure BankErr where
  bank : Nat
  w0 : Nat
  info : ErrInfo
  deriving DecidableEq, Repr

inductive DieState where
  | reset | assay | live | quarantined | reassay
  deriving DecidableEq, Repr

/-- A die as the root sees it (R373, R378, R388). -/
structure Die where
  state : DieState
  cause : Nat
  passes : Nat
  ever : Bool
  /-- the assay or measurement in progress: when it began, and when it ends if it is in time -/
  assayAt : Option (Nat × Nat)
  measure : Bool
  /-- its last reset was one by QUAR (R379) -/
  byQuar : Bool
  slabCap : Nat
  denseCap : Nat
  slabGrant : Nat
  denseGrant : Nat
  deriving DecidableEq, Repr

/-- One direction of a link (R374). -/
structure LinkDir where
  gen : Nat
  flits : Nat
  acked : Bool
  rolling : Bool
  switched : Bool
  deriving DecidableEq, Repr

inductive LinkState where
  | closed | mgmt | open_ | rolling
  deriving DecidableEq, Repr

/-- A link (R369, R372). -/
structure Link where
  num : Nat
  state : LinkState
  d0 : LinkDir
  d1 : LinkDir
  dropped : Nat
  /-- failures of a flit in a row, and the clk of the last -/
  failures : Nat
  lastFail : Nat
  /-- ERRINJ: the next failure is its own (R367) -/
  inj : Bool
  /-- closed by an uncorrectable error: it trains again after a reset (R372) -/
  shut : Bool
  deriving DecidableEq, Repr

/-- A hearth channel (R205 to R213). `acc` holds the accumulators as bytes. -/
structure Channel where
  num : Nat
  queue : List AtomOp
  wcode : Nat
  table : List Byte
  /-- the activations of the last HLUTW, for the checks of R211 -/
  acts : List Byte
  acc : Mem
  fail : Bool
  fstep : Nat
  fbank : Nat
  pass : Nat
  refresh : Nat
  wave : Option (Nat × Nat)
  /-- what the last weight step added to each bank's outputs, for its check (R211) -/
  sums : List (List Int)
  deriving DecidableEq, Repr

/-- A sector in a core's L1 (R157): the clk of its fill, and whether an engine has written the sector since (R164). -/
structure L1Copy where
  core : Nat
  pa : Nat
  data : List Byte
  dirty : List Nat
  expire : Nat
  filled : Nat
  behind : Bool
  deriving DecidableEq, Repr

/-- A sector that a compute die's cache holds dirty (R19, R21, R376), and until when. -/
structure DieCopy where
  die : Nat
  sec : Nat
  expire : Nat
  deriving DecidableEq, Repr

/-- A 512-byte line of a home slice (R13, R21): its I/O die, its number, and which of its four sectors the slice holds. -/
structure HomeLine where
  die : Nat
  line : Nat
  secs : List Nat
  deriving DecidableEq, Repr

/-- A TLB entry (R125): where it stands, the L1 TLB of a core (its index) or the L2 TLB of a compute die (1,024 + d);
context, base va and size of the page, the leaf. -/
structure TlbEntry where
  place : Nat
  ctx : Nat
  va : Nat
  size : Nat
  pte : Nat
  deriving DecidableEq, Repr

/-- Who owns a sector exclusively (R163, R172, R205). -/
inductive Owner where
  | cmd (id : Nat)
  | hearth (id : Nat)
  | token (wg tidx : Nat)
  deriving DecidableEq, Repr

/-- A task-put window (R386). -/
structure TaskWin where
  words : List Word
  result : Word
  busy : Bool
  deriving DecidableEq, Repr

/-- A migration under way (R286). -/
structure Migration where
  wg : Nat
  target : Nat
  due : Nat
  deriving DecidableEq, Repr

/-- A key install under way (R380). -/
structure KeyInst where
  id : Nat
  link : Nat
  dir : Nat
  handle : Nat
  gen : Nat
  due : Nat
  deriving DecidableEq, Repr

/-- A request to another package (R387): an action of a store queue carried out, or a copy engine's write for a command, with its
deadline. -/
structure RalpexReq where
  wg : Nat
  tidx : Nat
  pa : Nat
  bs : List Byte
  due : Nat
  deadline : Nat
  /-- the command whose engine writes, none for a thread's store -/
  cmd : Option Nat
  deriving DecidableEq, Repr

/-- An input from outside, or a message on its way to the device: the clk it arrives at, the world of its agent (R384, R385), and what it is
(the model's own, log entries 1, 43). -/
structure Input where
  due : Nat
  secure : Bool
  msg : Instr
  deriving DecidableEq, Repr

/-- The package. -/
structure State where
  clk : Nat
  /-- the model's counter for free values (log entry 4) -/
  fresh : Nat
  /-- the model's: inputs from outside, the first one due taken first (log entry 1) -/
  inputs : List Input
  /-- the model's: the input that was taken last is of the secure world -/
  inputSecure : Bool
  /-- the model's: the word being issued -/
  cur : Option Issue
  /-- the model's: ports that have issued in this clk, and bundlers that have formed a bundle -/
  ports : List (Nat × Nat)
  /-- the model's: a context whose thread issued in this clk (R333) -/
  issuedCtx : List Nat
  /-- VALU pipes that accept no word before a clk: core, port, clk (R93) -/
  pipes : List (Nat × Nat × Nat)
  nextId : Nat
  mem : Mem
  poison : List Nat
  /-- sectors whose poison a lost die left behind, and ERRINJ did not (R361, R376) -/
  lost : List Nat
  owned : List (Nat × Owner)
  l1 : List L1Copy
  dcache : List DieCopy
  /-- what the home slices hold of the stacks beside them (R13, R21), the newest line first -/
  slices : List HomeLine
  /-- the model's: completion words that stand in memory, by physical address (R192) -/
  cwords : List Nat
  tlb : List TlbEntry
  wgs : List Workgroup
  bundles : List Bundle
  pend : List Pend
  atoms : List AtomOp
  cmds : List Cmd
  /-- for each die, the copy queue served last, as 16 × context + queue (R185) -/
  cqNext : List (Nat × Nat)
  ops : List MatOp
  crReqs : List CrReq
  /-- physical banks of freed names still in use (R243) -/
  crBusy : List FreedBank
  /-- cores on which the no-progress condition holds, and since when (R234) -/
  noProg : List (Nat × Nat)
  engines : List Engine
  leaseReqs : List LeaseReq
  puts : List Put
  merges : List MergeJob
  mergeEvents : List MergeEvent
  /-- the clk at which each core accepted its last group of tasks (R283) -/
  groupAt : List (Nat × Nat)
  launchReqs : List LaunchReq
  launches : List Launch
  migrations : List Migration
  contexts : List Context
  channels : List Channel
  /-- writes to the mirror partner that are not acknowledged: thread, deadline, the page's own address (R360) -/
  mirrors : List (Nat × Nat × Nat × Nat)
  ralpex : List RalpexReq
  keyInsts : List KeyInst
  banks : List Bank
  /-- the model's: errors that have reached the banks in this clk (R362) -/
  errs : List BankErr
  dies : List Die
  stackCap : List Nat
  stackGrant : List Nat
  links : List Link
  keyStore : List Nat
  resetEnded : Bool
  permitAt : Nat
  scrubAt : Nat
  ctxtab : Word64
  pkgid : BitVec 16
  pkgidSet : Bool
  mirpart : BitVec 16
  allow : Word
  irqstat : Word64
  ctxcmd : Word64
  ctxres : Word64
  /-- a host command in progress (R385) -/
  hostCmd : Bool
  /-- ROUTE: packages whose port is not 0xFF (R384) -/
  route : Mem
  windows : List TaskWin
  /-- other bytes of the device-register range -/
  ioMem : Mem
  deriving DecidableEq, Repr

/-- Why the machine stops. A program never stops it: the manual gives every word an effect or a fault, and those are
next states. -/
inductive Fault where
  /-- `exec` of an instruction was asked for while no bundle issues: raised by every instruction's meaning, never by
  `step`, which issues a word only from a bundle. Safe. -/
  | noIssue
  deriving DecidableEq, Repr

/-- What the model gives no meaning. -/
inductive Refusal where
  /-- an instruction without a meaning yet; raised only by `exec`'s own arms. Safe. -/
  | notModelled (mnemonic : String)
  deriving DecidableEq, Repr

def Counters.zero : Counters := ⟨0, 0, 0, 0, 0, 0⟩

def Tx.none : Tx := ⟨false, 0, [], [], [], 0, false, 0, 0, 0, []⟩

def TrapRegs.zero : TrapRegs := ⟨0, 0, 0, 0, 0, 0, 0, [0, 0, 0, 0]⟩

/-- A thread as it starts (R70, R95, R173, R318, R320, R351). -/
def Thread.start (pc : CodeAddr) (clk : Nat) : Thread :=
  { pc := pc, mid := none, here := ⟨pc, pc, 0⟩, meet := none, link := 0, preds := 1, ctr := .zero, fell := [], sq := [], fpctl := 0, priv := false,
    trap := .zero, tx := .none, vs := List.replicate 8 none, mergeFault := 0, task := none, seed := false, sig := 0,
    mirFail := false, poison := none, skipBp := false, wd := none, drain := false, st := .ready, since := clk, notBefore := clk,
    wake := none, born := 0, deps := [] }

def Tile.free : Tile := ⟨.free, 0, 0, 0, 0, (0, 0, 0), none, false, 0, 0⟩

def CopyQueue.off : CopyQueue := ⟨false, 0, 4, [], 0, 0, 0, 0, 0⟩

def CrBank.free : CrBank := ⟨false, [], 0, []⟩

def TaskQueue.off : TaskQueue := ⟨false, 0, 0, 4, 0, 1, 0, 0, 0, 0, 0, 0, 0, 0, [], none, false, 0⟩

def LaunchRing.absent : LaunchRing := ⟨false, 0, [], 2, 0, 0⟩

def Desc.zero : Desc := ⟨0, 0, 0, 0, 0, 0, 0, 0, 0, 0, 0, 0, 0, 0, 0, []⟩

/-- A context before its first resume (R327, R320). -/
def Context.empty : Context :=
  { state := .empty, desc := .zero, status := 0, resident := false, saving := none, wdcount := 0, dbgctl := 0,
    dbgstep := 0, dbgbp := [0, 0, 0, 0], stepping := none, cqs := List.replicate 16 .off, tqs := List.replicate 64 .off,
    ring := .absent, handles := [], lserr := [], spill := [], records := [], saved := [], doorbell := 0, kept := none, rung := [],
    released := [] }

def Bank.zero : Bank := ⟨0, 0, 0, 0, 0, 0⟩

/-- A die at package reset (R373, R378); thermal limits as log entry 3 names them. -/
def Die.reset : Die := ⟨.reset, 0, 0, false, none, false, false, 256, 16, 0, 0⟩

def LinkDir.reset : LinkDir := ⟨0, 0, false, false, false⟩

def Link.reset (n : Nat) : Link := ⟨n, .closed, .reset, .reset, 0, 0, 0, false, false⟩

def Channel.reset (n : Nat) : Channel := ⟨n, [], 0, [], [], [], false, 0, 0, 0, 0, none, []⟩

def TaskWin.reset : TaskWin := ⟨List.replicate 7 0, 0x80000000, false⟩

/-- The links, each by its lower number where it has two (R369): ports 0 and 1 of every compute die, ports 2 and 3 of those
at the package edge, and the 18 Ralpex ports. -/
def linkNumbers : List Nat :=
  (List.range 256).filter (fun n => decide (n % 4 < 2) || n % 4 == 2 && decide (n < 32) || n % 4 == 3 && n / 4 % 8 == 0) ++
    (List.range 18).map (· + 256)

/-- The package right after reset (R2, R361, R372, R373, R384): nothing is resident and the dies are in RESET. -/
def State.reset : State :=
  { clk := 0, fresh := 0, inputs := [], inputSecure := false, cur := none, ports := [], issuedCtx := [], pipes := [], nextId := 1, mem := [], poison := [], lost := [],
    owned := [], l1 := [], dcache := [], slices := [], cwords := [], tlb := [], wgs := [], bundles := [], pend := [], atoms := [], cmds := [], cqNext := [], ops := [],
    crReqs := [], crBusy := [], noProg := [], engines := [], leaseReqs := [], puts := [], merges := [], mergeEvents := [], groupAt := [],
    launchReqs := [], launches := [], migrations := [], contexts := List.replicate 64 .empty, channels := [],
    mirrors := [], ralpex := [], keyInsts := [], banks := List.replicate 68 .zero, errs := [], dies := List.replicate 68 .reset,
    stackCap := List.replicate 8 32, stackGrant := List.replicate 8 0,
    links := linkNumbers.map Link.reset, keyStore := [], resetEnded := false,
    permitAt := 1800, scrubAt := 18000000, ctxtab := 0, pkgid := 0, pkgidSet := false, mirpart := 0xFFFF,
    allow := 2360, irqstat := 0, ctxcmd := 0, ctxres := 0, hostCmd := false, route := [],
    windows := List.replicate 64 .reset, ioMem := [] }

end Sys2Proof.Machine
end

