-- ==== Sys2Proof/Machine/Mem.lean ====
section
/-! DEFINITION. Bytes of memory by address in canonical form, little-endian numbers (R4), bit slices and the small list
operations that every family uses. -/

namespace Sys2Proof.Machine

/-- Bits `h` down to `l` of `x` (R4). -/
def bits (x h l : Nat) : Nat := x / 2^l % 2^(h + 1 - l)

/-- Bit `i` of `x`. -/
def bit (x i : Nat) : Bool := x.testBit i

/-- `x` as an `n`-bit two's-complement number. -/
def toInt (n x : Nat) : Int := if x % 2^n < 2^(n - 1) then (x % 2^n : Nat) else (x % 2^n : Nat) - (2^n : Nat)

/-- The low `n` bits of an integer. -/
def ofInt (n : Nat) (x : Int) : Nat := (x % (2^n : Nat)).toNat

/-- Sign-extension of the `n`-bit value `x` to `m` bits. -/
def sext (n m x : Nat) : Nat := ofInt m (toInt n x)

/-- A list of bytes as a little-endian number. -/
def leNat : List Byte → Nat
  | [] => 0
  | b :: bs => b.toNat + 256 * leNat bs

/-- The `n` low bytes of `x`, little-endian. -/
def toBytes : Nat → Nat → List Byte
  | 0, _ => []
  | n + 1, x => BitVec.ofNat 8 x :: toBytes n (x / 256)

/-- The byte at an address; an unlisted address reads 0. -/
def Mem.get : Mem → Nat → Byte
  | [], _ => 0
  | (k, v) :: r, a => if k = a then v else if a < k then 0 else Mem.get r a

/-- Write one byte, keeping the form: addresses strictly rising, no byte of 0 listed. -/
def Mem.set : Mem → Nat → Byte → Mem
  | [], a, b => if b = 0 then [] else [(a, b)]
  | (k, v) :: r, a, b =>
    if a < k then (if b = 0 then (k, v) :: r else (a, b) :: (k, v) :: r)
    else if a = k then (if b = 0 then r else (k, b) :: r)
    else (k, v) :: Mem.set r a b

/-- The `n` bytes from `a` on. -/
def Mem.read (m : Mem) (a : Nat) : Nat → List Byte
  | 0 => []
  | n + 1 => m.get a :: Mem.read m (a + 1) n

/-- Write a list of bytes from `a` on. -/
def Mem.write (m : Mem) (a : Nat) : List Byte → Mem
  | [] => m
  | b :: bs => Mem.write (m.set a b) (a + 1) bs

/-- Write single bytes at their addresses, the last one for an address remaining. -/
def Mem.writeCells (m : Mem) : List Host.Cell → Mem
  | [] => m
  | (a, b) :: r => Mem.writeCells (m.set a b) r

/-- A little-endian number of `n` bytes at `a`. -/
def Mem.readNat (m : Mem) (a n : Nat) : Nat := leNat (m.read a n)

/-- Every listed address is at least `lo`, they rise strictly, and no listed byte is 0. -/
def Mem.wfFrom (lo : Nat) : Mem → Bool
  | [] => true
  | (k, v) :: r => decide (lo ≤ k) && (v != 0) && Mem.wfFrom (k + 1) r

/-- The canonical form of memory. -/
def Mem.wf (m : Mem) : Bool := Mem.wfFrom 0 m

/-- The bytes `a .. a + n - 1` removed (they read 0). -/
def Mem.clear (m : Mem) (a n : Nat) : Mem := m.write a (List.replicate n 0)

/-- A list of single bytes, from a run of bytes at `a`. -/
def cellsAt (a : Nat) : List Byte → List Host.Cell
  | [] => []
  | b :: bs => (a, b) :: cellsAt (a + 1) bs

/-- The `n` bytes from `a` on of a long run, in one pass. -/
def Mem.run (m : Mem) (a : Nat) : Nat → List Byte
  | 0 => []
  | n + 1 =>
    match m.dropWhile fun c => decide (c.1 < a) with
    | [] => 0 :: Mem.run [] (a + 1) n
    | c :: r => if c.1 = a then c.2 :: Mem.run r (a + 1) n else 0 :: Mem.run (c :: r) (a + 1) n

/-- A long run of bytes written from `a` on, in one pass. -/
def Mem.splice (m : Mem) (a : Nat) (bs : List Byte) : Mem :=
  (m.takeWhile fun c => decide (c.1 < a)) ++ (cellsAt a bs).filter (·.2 != 0) ++
    (m.dropWhile fun c => decide (c.1 < a + bs.length))

/-- A memory holding a list of bytes from 0 on. -/
def Mem.ofBytes (bs : List Byte) : Mem := (cellsAt 0 bs).filter (·.2 != 0)

/-- Cells laid over a run of bytes read at `a`. -/
def overlay (a : Nat) (bs : List Byte) (cells : List Host.Cell) : List Byte :=
  cells.foldl (fun acc c => if a ≤ c.1 ∧ c.1 < a + bs.length then acc.set (c.1 - a) c.2 else acc) bs

/-- The number in `n` bytes from offset `o` of a record. -/
def field (bs : List Byte) (o n : Nat) : Nat := leNat ((bs.drop o).take n)

/-- `p` holds of every field offset of a record's reserved bytes: all `n` bytes from `o` on are 0. -/
def zeroAt (bs : List Byte) (o n : Nat) : Bool := ((bs.drop o).take n).all (· == 0)

/-- The first check that fails, by the offset it names (R31). -/
def firstFail : List (Bool × Nat) → Option Nat
  | [] => none
  | (ok, o) :: r => if ok then firstFail r else some o

/-- `n` rounded up to a multiple of `k`. -/
def roundUp (n k : Nat) : Nat := (n + k - 1) / k * k

def sumNat (l : List Nat) : Nat := l.foldl (· + ·) 0

def minOf (l : List Nat) : Option Nat := l.foldl (fun m x => match m with | none => some x | some y => some (min x y)) none

def insertNat (x : Nat) : List Nat → List Nat
  | [] => [x]
  | y :: ys => if x ≤ y then x :: y :: ys else y :: insertNat x ys

/-- A list in ascending order. -/
def sortNat : List Nat → List Nat
  | [] => []
  | x :: xs => insertNat x (sortNat xs)

/-- The number of ones of a `n`-bit value. -/
def popcount : Nat → Nat → Nat
  | 0, _ => 0
  | n + 1, x => x % 2 + popcount n (x / 2)

/-- Set (or clear) bit `i` of a 64-bit value. -/
def setBit (x : Word64) (i : Nat) (b : Bool) : Word64 :=
  if b then x ||| BitVec.ofNat 64 (2^i) else x &&& ~~~ (BitVec.ofNat 64 (2^i))

/-- One step of CRC-64 ECMA-182, no reflection, no final XOR (R351). -/
def crcBits : Nat → BitVec 64 → BitVec 64
  | 0, c => c
  | n + 1, c => crcBits n (if c.msb then (c <<< 1) ^^^ 0x42F0E1EBA9EA3693 else c <<< 1)

def crc64 (c : Word64) (bs : List Byte) : Word64 :=
  bs.foldl (fun c b => crcBits 8 (c ^^^ (BitVec.setWidth 64 b <<< 56))) c

end Sys2Proof.Machine
end

