-- ==== Sys2Proof/Machine/Formats.lean ====
section
/-! DEFINITION. Number formats (R42 to R49), rounding, overflow and saturation (R51 to R53), exact floating-point
arithmetic and the conversion of values to formats. A finite value is a sign, a magnitude `m × 2^e` and a mark that the
true magnitude lies strictly between `m × 2^e` and `(m + 1) × 2^e`. -/

namespace Sys2Proof.Machine

/-- The three kinds of floating-point format: with infinities and NaNs, E4M3, and without either (R42, R44). -/
inductive FKind where
  | ieee | e4m3 | finite
  deriving DecidableEq, Repr

/-- A floating-point format: width, exponent bits, bias, fraction bits. -/
structure Fmt where
  w : Nat
  ebits : Nat
  bias : Nat
  frac : Nat
  kind : FKind
  deriving DecidableEq, Repr

def f64 : Fmt := ⟨64, 11, 1023, 52, .ieee⟩
def f32 : Fmt := ⟨32, 8, 127, 23, .ieee⟩
def f16 : Fmt := ⟨16, 5, 15, 10, .ieee⟩
def bf16 : Fmt := ⟨16, 8, 127, 7, .ieee⟩
def e4m3 : Fmt := ⟨8, 4, 7, 3, .e4m3⟩
def e5m2 : Fmt := ⟨8, 5, 15, 2, .ieee⟩
def e2m3 : Fmt := ⟨6, 2, 1, 3, .finite⟩
def e3m2 : Fmt := ⟨6, 3, 3, 2, .finite⟩
def e2m1 : Fmt := ⟨4, 2, 1, 1, .finite⟩

/-- The floating-point formats by code (R42, R44). -/
def fmtOf (code : Nat) : Option Fmt :=
  match code with
  | 0x01 => some f32 | 0x02 => some f64 | 0x03 => some f16 | 0x04 => some bf16
  | 0x10 => some e4m3 | 0x11 => some e5m2 | 0x12 => some e2m3 | 0x13 => some e3m2 | 0x14 => some e2m1
  | _ => none

/-- n of BFPn, codes 0x20 to 0x26 (R47). -/
def bfpOf (code : Nat) : Option Nat := if 0x20 ≤ code ∧ code ≤ 0x26 then some (code - 0x20 + 2) else none

/-- The width of an integer format code (R48). -/
def intOf (code : Nat) : Option Nat :=
  match code with
  | 0x40 => some 8 | 0x41 => some 16 | 0x42 => some 32
  | _ => none

/-- Element width in bits by format code (R42 to R48); 0 for a reserved code. -/
def elemWidth (code : Nat) : Nat :=
  match fmtOf code, bfpOf code, intOf code with
  | some f, _, _ => f.w
  | none, some n, _ => n
  | none, none, some n => n
  | none, none, none => if code = 0x30 then 8 else 0

/-- A floating-point value. -/
inductive Val where
  | nan (sig : Bool)
  | inf (neg : Bool)
  | num (neg : Bool) (m : Nat) (e : Int) (sticky : Bool)
  deriving DecidableEq, Repr

def Val.zero (neg : Bool) : Val := .num neg 0 0 false

def Val.isZero : Val → Bool
  | .num _ m _ st => m == 0 && !st
  | _ => false

def Val.neg : Val → Val
  | .num s m e st => .num (!s) m e st
  | .inf s => .inf (!s)
  | .nan g => .nan g

def Val.sign : Val → Bool
  | .num s _ _ _ => s
  | .inf s => s
  | .nan _ => false

/-- Exponent of the unit of the least subnormal. -/
def Fmt.emin (f : Fmt) : Int := 1 - (f.bias : Int) - (f.frac : Int)

/-- Mantissa and exponent of the largest finite value. -/
def Fmt.maxMant (f : Fmt) : Nat := if f.kind = .e4m3 then 14 else 2^(f.frac + 1) - 1

def Fmt.maxExp (f : Fmt) : Int :=
  (2^f.ebits : Nat) - (if f.kind = .ieee then 2 else 1) - (f.bias : Int) - (f.frac : Int)

/-- The bits of a magnitude of `n` units of `2^q`, `n` at most `2^(frac + 1)`, `q` at least `emin`. -/
def Fmt.pack (f : Fmt) (neg : Bool) (n : Nat) (q : Int) : Nat :=
  (if neg then 2^(f.w - 1) else 0) + (q - f.emin).toNat * 2^f.frac + n

def Fmt.maxBits (f : Fmt) (neg : Bool) : Nat := f.pack neg f.maxMant f.maxExp

def Fmt.infBits (f : Fmt) (neg : Bool) : Nat := (if neg then 2^(f.w - 1) else 0) + (2^f.ebits - 1) * 2^f.frac

/-- Canonical NaNs (R43); a format without NaN has none (R53 gives +0). -/
def Fmt.nanBits (f : Fmt) : Nat :=
  match f.kind with
  | .ieee => (2^f.ebits - 1) * 2^f.frac + 2^(f.frac - 1)
  | .e4m3 => 0x7F
  | .finite => 0

/-- The value of an encoding (R42 to R44). -/
def Fmt.decode (f : Fmt) (x : Nat) : Val :=
  let neg := x.testBit (f.w - 1)
  let ex := x / 2^f.frac % 2^f.ebits
  let fr := x % 2^f.frac
  if f.kind = .ieee ∧ ex = 2^f.ebits - 1 then
    (if fr = 0 then .inf neg else .nan (decide (fr < 2^(f.frac - 1))))
  else if f.kind = .e4m3 ∧ ex = 15 ∧ fr = 7 then .nan false
  else if ex = 0 then .num neg fr f.emin false
  else .num neg (2^f.frac + fr) (f.emin + (ex : Int) - 1) false

/-- A finite encoding that is subnormal and not zero. -/
def Fmt.isSub (f : Fmt) (x : Nat) : Bool := x / 2^f.frac % 2^f.ebits == 0 && x % 2^f.frac != 0

/-- Flag bits, as FPCTL bits 4:0 (R95). -/
def NV : Nat := 1
def DZ : Nat := 2
def OF : Nat := 4
def UF : Nat := 8
def NX : Nat := 16

/-- Whether a magnitude `n + rem / den` (and a little more when sticky) is rounded up, by the rounding code of R50:
0 RNE, 1 RTZ, 2 RUP, 3 RDN, 4 stochastic with `rho` (R51). -/
def roundUpMag (mode : Nat) (rho : Nat) (neg : Bool) (n rem den : Nat) (st : Bool) : Bool :=
  let inexact := rem != 0 || st
  match mode with
  | 0 => decide (2 * rem > den) || (decide (2 * rem = den) && (st || n % 2 == 1))
  | 1 => false
  | 2 => inexact && !neg
  | 3 => inexact && neg
  | _ =>
    if inexact then
      if neg then !decide ((den - rem) * 2^16 / den + rho ≥ 2^16)
      else decide (rem * 2^16 / den + rho ≥ 2^16)
    else false

/-- `m × 2^e` in units of `2^q`, rounded: the count and whether it is inexact. -/
def roundAt (mode rho : Nat) (neg : Bool) (m : Nat) (e : Int) (st : Bool) (q : Int) : Nat × Bool :=
  if q ≤ e then (m * 2^(e - q).toNat, st)
  else
    let den := 2^(q - e).toNat
    let n := m / den
    let rem := m % den
    (if roundUpMag mode rho neg n rem den st then n + 1 else n, rem != 0 || st)

structure Rnd where
  bits : Nat
  flags : Nat
  /-- the result saturated under R52 (R54 counts these) -/
  sat : Bool
  deriving DecidableEq, Repr

/-- Whether `n × 2^q` exceeds `m × 2^p`. -/
def magGt (n : Nat) (q : Int) (m : Nat) (p : Int) : Bool :=
  if q ≤ p then decide (n > m * 2^(p - q).toNat) else decide (n * 2^(q - p).toNat > m)

/-- round_fmt and sat_fmt of a finite value (R41, R51, R52), with the flags of R97. `ftz` flushes subnormal results. -/
def Fmt.roundFin (f : Fmt) (mode rho : Nat) (ftz sat neg : Bool) (m : Nat) (e : Int) (st : Bool) : Rnd :=
  if m = 0 ∧ !st then ⟨f.pack neg 0 f.emin, 0, false⟩ else
  let qu : Int := (Nat.log2 m : Int) + e - (f.frac : Int)
  let q := if qu < f.emin then f.emin else qu
  let r := roundAt mode rho neg m e st q
  let ru := roundAt mode rho neg m e st qu
  let nx := if r.2 then NX else 0
  if magGt r.1 q f.maxMant f.maxExp then
    let toMax := sat || f.kind != .ieee
    let big := toMax || (mode == 1) || (mode == 2 && neg) || (mode == 3 && !neg)
    ⟨if big then f.maxBits neg else f.infBits neg, OF ||| NX, toMax⟩
  else
    let tiny := magGt (2^f.frac) f.emin ru.1 qu
    if ftz && decide (0 < r.1) && decide (r.1 < 2^f.frac) then ⟨f.pack neg 0 f.emin, UF ||| NX, false⟩
    else ⟨f.pack neg r.1 q, nx ||| (if tiny && r.2 then UF else 0), false⟩

/-- round_fmt and sat_fmt of any value. `nanNV` is whether a NaN input raises invalid here (R43, R53). -/
def Fmt.round (f : Fmt) (mode rho : Nat) (ftz sat : Bool) (v : Val) : Rnd :=
  match v with
  | .nan sig => ⟨f.nanBits, if sig || f.kind = .finite then NV else 0, false⟩
  | .inf neg =>
    if f.kind = .ieee ∧ !sat then ⟨f.infBits neg, 0, false⟩ else ⟨f.maxBits neg, OF ||| NX, true⟩
  | .num neg m e st => f.roundFin mode rho ftz sat neg m e st

/-- A value rounded to an integer by the mode, and whether it is inexact. -/
def roundInt (mode rho : Nat) (neg : Bool) (m : Nat) (e : Int) (st : Bool) : Int × Bool :=
  let r := roundAt mode rho neg m e st 0
  (if neg then -(r.1 : Int) else (r.1 : Int), r.2)

/-- A value in BFPn: its mantissa bits (R47, R53, R64). -/
def roundBfp (n mode rho : Nat) (v : Val) : Rnd :=
  let hi : Int := (2^(n - 1) : Nat) - 1
  let lo : Int := -((2^(n - 1) : Nat) : Int)
  match v with
  | .nan _ => ⟨0, NV, false⟩
  | .inf neg => ⟨ofInt n (if neg then lo else hi), OF ||| NX, true⟩
  | .num neg m e st =>
    let r := roundInt mode rho neg m (e + (n - 2 : Nat)) st
    if r.1 > hi then ⟨ofInt n hi, OF ||| NX, true⟩
    else if r.1 < lo then ⟨ofInt n lo, OF ||| NX, true⟩
    else ⟨ofInt n r.1, if r.2 then NX else 0, false⟩

/-- The value of a BFPn mantissa, `m × 2^-(n-2)` (R47). -/
def bfpVal (n x : Nat) : Val :=
  let m := toInt n x
  .num (decide (m < 0)) m.natAbs (-((n - 2 : Nat) : Int)) false

/-- The value of an integer. -/
def intVal (x : Int) : Val := .num (decide (x < 0)) x.natAbs 0 false

/-- The value of an element of any element format code; reserved codes and E8M0 read as NaN here and are refused
before. -/
def elemVal (code x : Nat) : Val :=
  match fmtOf code, bfpOf code, intOf code with
  | some f, _, _ => f.decode (x % 2^f.w)
  | none, some n, _ => bfpVal n (x % 2^n)
  | none, none, some n => intVal (toInt n x)
  | none, none, none => .nan false

/-- A value rounded to an integer format: the range clamps (R52). -/
def roundToInt (n : Nat) (signed : Bool) (mode rho : Nat) (v : Val) : Rnd :=
  let hi : Int := if signed then ((2^(n - 1) : Nat) : Int) - 1 else ((2^n : Nat) : Int) - 1
  let lo : Int := if signed then -((2^(n - 1) : Nat) : Int) else 0
  match v with
  | .nan _ => ⟨0, NV, false⟩
  | .inf neg => ⟨ofInt n (if neg then lo else hi), NV, true⟩
  | .num neg m e st =>
    let r := roundInt mode rho neg m e st
    if r.1 > hi then ⟨ofInt n hi, NV, true⟩
    else if r.1 < lo then ⟨ofInt n lo, NV, true⟩
    else ⟨ofInt n r.1, if r.2 then NX else 0, false⟩

/-- A value into an element of any format code. -/
def roundElem (code mode rho : Nat) (sat : Bool) (v : Val) : Rnd :=
  match fmtOf code, bfpOf code, intOf code with
  | some f, _, _ => f.round mode rho false sat v
  | none, some n, _ => roundBfp n mode rho v
  | none, none, some n => roundToInt n true mode rho v
  | none, none, none => ⟨0, 0, false⟩

/-- An integer into an integer format of `n` bits (R52, R61): it clamps where it saturates, and else keeps the low bits. No
flag is raised. -/
def intToInt (n : Nat) (sat : Bool) (x : Int) : Rnd :=
  let hi : Int := ((2^(n - 1) : Nat) : Int) - 1
  if !sat then ⟨ofInt n x, 0, false⟩
  else if x > hi then ⟨ofInt n hi, 0, true⟩
  else if x < -hi - 1 then ⟨ofInt n (-hi - 1), 0, true⟩
  else ⟨ofInt n x, 0, false⟩

/-- A format code of integers. -/
def isIntElem (code : Nat) : Bool := (intOf code).isSome

/-- An integer into an element of any format code (R52): integer formats by `intToInt`, the others as its value. -/
def roundIntElem (code mode rho : Nat) (sat : Bool) (x : Int) : Rnd :=
  match fmtOf code, bfpOf code, intOf code with
  | none, none, some n => intToInt n sat x
  | _, _, _ => roundElem code mode rho sat (intVal x)

/-- A value scaled by `2^k`. -/
def Val.scale (v : Val) (k : Int) : Val :=
  match v with
  | .num s m e st => .num s m (e + k) st
  | x => x

/-! Exact arithmetic. A result of an operation is a value and the flags the operation itself raises. -/

def sigOf : Val → Bool
  | .nan g => g
  | _ => false

def Val.isNan : Val → Bool
  | .nan _ => true
  | _ => false

/-- A NaN result; NV when an operand signals or the operation is invalid. -/
def nanRes (inv : Bool) : Val × Nat := (.nan false, if inv then NV else 0)

/-- The exact sum of finite values; `rdn` decides the sign of an exact zero of opposite signs (R112). -/
def addFin (rdn : Bool) (s1 : Bool) (m1 : Nat) (e1 : Int) (s2 : Bool) (m2 : Nat) (e2 : Int) : Val :=
  let e := min e1 e2
  let a : Int := (if s1 then -1 else 1) * ((m1 * 2^(e1 - e).toNat : Nat) : Int)
  let b : Int := (if s2 then -1 else 1) * ((m2 * 2^(e2 - e).toNat : Nat) : Int)
  let t := a + b
  if t = 0 then .num (if s1 = s2 then s1 else rdn) 0 0 false
  else .num (decide (t < 0)) t.natAbs e false

/-- a + b (R112). -/
def addV (rdn : Bool) (a b : Val) : Val × Nat :=
  match a, b with
  | .nan g, x => nanRes (g || sigOf x)
  | x, .nan g => nanRes (g || sigOf x)
  | .inf s, .inf t => if s = t then (.inf s, 0) else nanRes true
  | .inf s, _ => (.inf s, 0)
  | _, .inf s => (.inf s, 0)
  | .num s m e _, .num t n f _ => (addFin rdn s m e t n f, 0)

/-- a × b (R112). -/
def mulV (a b : Val) : Val × Nat :=
  match a, b with
  | .nan g, x => nanRes (g || sigOf x)
  | x, .nan g => nanRes (g || sigOf x)
  | .inf s, .inf t => (.inf (s != t), 0)
  | .inf s, .num t n _ _ => if n = 0 then nanRes true else (.inf (s != t), 0)
  | .num s m _ _, .inf t => if m = 0 then nanRes true else (.inf (s != t), 0)
  | .num s m e _, .num t n f _ => (.num (s != t) (m * n) (e + f) false, 0)

/-- a × b + c, exact (R112). 0 × ∞ is invalid whatever c holds. -/
def fmaV (rdn : Bool) (a b c : Val) : Val × Nat :=
  let p := mulV a b
  let r := addV rdn p.1 c
  (r.1, p.2 ||| r.2)

/-- a ÷ b with at least `k` bits of quotient and a sticky mark (R116). -/
def divV (k : Nat) (a b : Val) : Val × Nat :=
  match a, b with
  | .nan g, x => nanRes (g || sigOf x)
  | x, .nan g => nanRes (g || sigOf x)
  | .inf _, .inf _ => nanRes true
  | .inf s, .num t _ _ _ => (.inf (s != t), 0)
  | .num s _ _ _, .inf t => (.zero (s != t), 0)
  | .num s m e _, .num t n f _ =>
    if n = 0 then (if m = 0 then nanRes true else (.inf (s != t), DZ))
    else
      let j := k + Nat.log2 n + 1
      (.num (s != t) (m * 2^j / n) (e - f - (j : Int)) (m * 2^j % n != 0), 0)

/-- Integer square root, one bit at a time from bit `k` down: `r` is the root so far. -/
def isqrtFrom (x : Nat) : Nat → Nat → Nat
  | 0, r => r
  | k + 1, r => let c := r + 2^k; if c * c ≤ x then isqrtFrom x k c else isqrtFrom x k r

def isqrt (x : Nat) : Nat := isqrtFrom x (Nat.log2 x / 2 + 1) 0

/-- √a of a finite magnitude, with at least `k` bits. -/
def sqrtFin (k m : Nat) (e : Int) : Nat × Int × Bool :=
  let m' := if e % 2 = 0 then m else 2 * m
  let e' := if e % 2 = 0 then e else e - 1
  let x := m' * 4^k
  let r := isqrt x
  (r, e' / 2 - (k : Int), r * r != x)

/-- √a (R116). -/
def sqrtV (k : Nat) (a : Val) : Val × Nat :=
  match a with
  | .nan g => nanRes g
  | .inf s => if s then nanRes true else (.inf false, 0)
  | .num s m e _ =>
    if m = 0 then (.zero s, 0)
    else if s then nanRes true
    else let r := sqrtFin k m e; (.num false r.1 r.2.1 r.2.2, 0)

/-- Comparison of finite values: −1, 0 or 1. -/
def cmpFin (s1 : Bool) (m1 : Nat) (e1 : Int) (s2 : Bool) (m2 : Nat) (e2 : Int) : Int :=
  match addFin false s1 m1 e1 (!s2) m2 e2 with
  | .num s m _ _ => if m = 0 then 0 else if s then -1 else 1
  | _ => 0

/-- a against b: none when unordered; −0 = +0 (R114). -/
def cmpV (a b : Val) : Option Int :=
  match a, b with
  | .nan _, _ => none
  | _, .nan _ => none
  | .inf s, .inf t => some (if s = t then 0 else if s then -1 else 1)
  | .inf s, _ => some (if s then -1 else 1)
  | _, .inf t => some (if t then 1 else -1)
  | .num s m e _, .num t n f _ => some (cmpFin s m e t n f)

/-! Format slots (R50). -/

def slotElem (x : Word64) : Nat := x.toNat % 256
def slotScale (x : Word64) : Nat := x.toNat / 2^8 % 256
def slotBlock (x : Word64) : Nat := x.toNat / 2^16 % 16
def slotRound (x : Word64) : Nat := x.toNat / 2^20 % 8
def slotSat (x : Word64) : Bool := x.toNat.testBit 23
def slotAcc (x : Word64) : Nat := x.toNat / 2^24 % 4
def slotRes (x : Word64) : Nat := x.toNat / 2^26

/-- A checked slot's reserved field is zero (R50). -/
def slotResOk (x : Word64) : Bool := slotRes x == 0

def slotRoundOk (x : Word64) : Bool := decide (slotRound x < 5)

/-- The FP32 additions and conversions of engines: RNE, subnormals kept, no flags (R55, R168). -/
def addF32 (a b : Nat) : Nat := (f32.round 0 0 false false (addV false (f32.decode a) (f32.decode b)).1).bits

end Sys2Proof.Machine
end

