-- ==== Sys2Proof/Machine/Approx.lean ====
section
/-! DEFINITION. The approximate functions of R117: exact values to more than a hundred bits, by series and by squaring in
fixed point, and the free result within the stated bound. -/

namespace Sys2Proof.Machine

/-- π × 2^300, truncated. -/
def piFix : Nat := 0x3243f6a8885a308d313198a2e03707344a4093822299f31d0082efa98ec4e6c89452821e638d

/-- ln 2 × 2^160, truncated. -/
def ln2Fix : Nat := 0xb17217f7d1cf79abc9e3b39803f2f6af40f34326

/-- Σ over k of a series of terms `t`, `t × x / (k × 2^160)`, …: e^x for x in units of 2^-160. -/
def expSeries (x : Nat) : Nat → Nat → Nat → Nat
  | 0, _, _ => 0
  | n + 1, k, t => t + expSeries x n (k + 1) (t * x / 2^160 / k)

/-- 2^f for a fraction f in units of 2^-160, in units of 2^-160. -/
def exp2Frac (f : Nat) : Nat := expSeries (f * ln2Fix / 2^160) 60 1 (2^160)

/-- Alternating series of sin or cos: terms `t`, then `t × x² / (k (k + 1))`, in units of 2^-160. -/
def trigSeries (x2 : Nat) : Nat → Nat → Nat → Int
  | 0, _, _ => 0
  | n + 1, k, t => (t : Int) - trigSeries x2 n (k + 2) (t * x2 / 2^160 / (k * (k + 1)))

/-- sin of a finite value, in units of 2^-160: the reduction modulo π/2 keeps 300 bits below the point. -/
def sinFix (cosine neg : Bool) (m : Nat) (e : Int) : Int :=
  let x := if e + 300 ≥ 0 then m * 2^(e + 300).toNat else m / 2^(-(e + 300)).toNat
  let h := piFix / 2
  let q := x / h
  let r := (x % h) / 2^140
  let x2 := r * r / 2^160
  let sn := trigSeries x2 40 2 r
  let cs := trigSeries x2 40 1 (2^160)
  let k := if cosine then (q + 1) % 4 else q % 4
  let v := match k with
    | 0 => sn
    | 1 => cs
    | 2 => -sn
    | _ => -cs
  if cosine then v else if neg then -v else v

/-- Bits of log2 of a mantissa in [1, 2), one for each squaring; the mantissa is in units of 2^-200. -/
def log2Bits : Nat → Nat → Nat → Nat
  | 0, _, acc => acc
  | n + 1, x, acc =>
    let y := x * x / 2^200
    if y ≥ 2^201 then log2Bits n (y / 2) (2 * acc + 1) else log2Bits n y (2 * acc)

/-- log2 of a positive value in units of 2^-100. -/
def log2Fix (m : Nat) (e : Int) : Int :=
  let l := Nat.log2 m
  let x := if l ≤ 200 then m * 2^(200 - l) else m / 2^(l - 200)
  ((l : Int) + e) * 2^100 + (log2Bits 100 x 0 : Nat)

/-- A signed fixed-point value in units of 2^-k that is known to its last unit. -/
def fixVal (k : Nat) (v : Int) : Val :=
  if v ≥ 0 then .num false v.toNat (-(k : Int)) true else .num true (v.natAbs - 1) (-(k : Int)) true

/-- The functions. -/
inductive AFun where
  | rcp | rsq | ex2 | lg2 | sin | cos
  deriving DecidableEq, Repr

def AFun.code : AFun → Nat
  | .rcp => 0 | .rsq => 1 | .ex2 => 2 | .lg2 => 3 | .sin => 4 | .cos => 5

/-- 2^x of a finite value: the integer part moves the exponent. Beyond ±2^16 the result is far out of every range. -/
def exp2V (neg : Bool) (m : Nat) (e : Int) : Val :=
  if (Nat.log2 m : Int) + e ≥ 16 then .num false 1 (if neg then -100000 else 100000) true
  else
    let x : Int := if e + 160 ≥ 0 then ((m * 2^(e + 160).toNat : Nat) : Int) else ((m / 2^(-(e + 160)).toNat : Nat) : Int)
    let x := if neg then -x else x
    let n := x / (2^160 : Nat)
    let f := (x % (2^160 : Nat)).toNat
    .num false (exp2Frac f) (n - 160) (f != 0 || (m != 0 && x == 0))

/-- The exact value (to at least 90 bits) of a function of a finite input that is no special case of R118. The reciprocal and
the reciprocal root are known to 200 bits: a value of a format's width lies at a distance above 2^-180 from each that it does
not equal, so their bounds are decided exactly. -/
def AFun.exact (fn : AFun) (neg : Bool) (m : Nat) (e : Int) : Val :=
  match fn with
  | .rcp => (divV 200 (.num false 1 0 false) (.num neg m e false)).1
  | .rsq =>
    match (sqrtV 240 (.num false m e false)).1 with
    | .num _ r f st => match (divV 200 (.num false 1 0 false) (.num false r f false)).1 with
      | .num _ q k st2 => .num false q k (st || st2)
      | v => v
    | v => v
  | .ex2 => exp2V neg m e
  | .lg2 => if m = 2^(Nat.log2 m) then intVal ((Nat.log2 m : Int) + e) else fixVal 100 (log2Fix m e)
  | .sin => fixVal 160 (sinFix false neg m e)
  | .cos => fixVal 160 (sinFix true neg m e)

/-- The special inputs of R118: the result's bits and flags. -/
def AFun.special (fn : AFun) (f : Fmt) (v : Val) : Option (Nat × Nat) :=
  let nan := fun g : Bool => some (f.nanBits, if g then NV else 0)
  let one := (f.round 0 0 false false (intVal 1)).bits
  match fn, v with
  | _, .nan g => nan g
  | .rcp, .inf s => some (f.pack s 0 f.emin, 0)
  | .rsq, .inf s => if s then nan true else some (0, 0)
  | .ex2, .inf s => some (if s then 0 else f.infBits false, 0)
  | .lg2, .inf s => if s then nan true else some (f.infBits false, 0)
  | .sin, .inf _ => nan true
  | .cos, .inf _ => nan true
  | .rcp, .num s m e _ => if m = 0 then some (f.infBits s, DZ)
      else if !s && m * 2^e.toNat == 2^(-e).toNat then some (one, 0) else none
  | .rsq, .num s m e _ => if m = 0 then some (f.infBits s, DZ) else if s then nan true
      else if m * 2^e.toNat == 2^(-e).toNat then some (one, 0) else none
  | .ex2, .num s m e _ => if m = 0 then some (one, 0)
      else if !s && m * 2^e.toNat == 2^(-e).toNat then some ((f.round 0 0 false false (intVal 2)).bits, 0) else none
  | .lg2, .num s m e _ => if m = 0 then some (f.infBits true, DZ) else if s then nan true
      else if m * 2^e.toNat == 2^(-e).toNat then some (0, 0) else none
  | .sin, .num s m _ _ => if m = 0 then some (f.pack s 0 f.emin, 0) else none
  | .cos, .num _ m _ _ => if m = 0 then some (one, 0) else none

/-- |v − w| ≤ 2^k. -/
def within (v w : Val) (k : Int) : Bool :=
  match v, w with
  | .num s m e _, .num t n f _ =>
    match addFin false s m e (!t) n f with
    | .num _ d q _ => if q ≤ k then decide (d ≤ 2^(k - q).toNat) else d == 0 || (decide (d * 2^(q - k).toNat ≤ 1))
    | _ => false
  | _, _ => false

/-- A value known to its last unit: its lower and its upper neighbour in magnitude. -/
def Val.upper : Val → Val
  | .num s m e st => if st then .num s (m + 1) e false else .num s m e false
  | v => v

/-- The exponent of one unit in the last place of a value in a format. -/
def Fmt.ulpExp (f : Fmt) (v : Val) : Int :=
  match v with
  | .num _ m e _ => max ((Nat.log2 m : Int) + e - (f.frac : Int)) f.emin
  | _ => 0

/-- A candidate result meets the function's bound (R117): it lies within the bound of both ends of the last unit to which the
exact value is known. -/
def AFun.inBound (fn : AFun) (f : Fmt) (x y : Val) (cand : Nat) : Bool :=
  let c := f.decode cand
  let near := fun k : Int => within c y k && within c y.upper k
  let finite := match c with
    | .num _ _ _ _ => true
    | _ => false
  let ulp := f.ulpExp y
  finite && decide (cand < 2^f.w) && match fn with
    | .rcp => near ulp
    | .rsq => near ulp
    | .ex2 => near (ulp + 1)
    | .lg2 => near (ulp + 1) || (near (-22) && (match x with
        | .num s m e _ => !s && decide (cmpFin false m e false 1 (-1) ≥ 0) && decide (cmpFin false m e false 2 0 ≤ 0)
        | _ => false))
    | .sin => near (if f.w = 32 then -21 else -10)
    | .cos => near (if f.w = 32 then -21 else -10)

/-- Whether a result is correctly rounded, under the mode of the type (R117). -/
def AFun.rounded (fn : AFun) (f : Fmt) : Bool :=
  f.w == 16 && (match fn with
    | .sin => false
    | .cos => false
    | _ => true)

/-- 2^a for an integer a is exact when representable (R117). -/
def AFun.exactInt (fn : AFun) (v : Val) : Bool :=
  match fn, v with
  | .ex2, .num _ m e _ => decide (e ≥ 0) || m % 2^(-e).toNat == 0
  | _, _ => false

/-- Flags of a result that is no special case: NX always (R117), UF where the result is tiny, a zero among them (R97, log
entry 9). -/
def Fmt.tinyFlags (f : Fmt) (x : Nat) : Nat := NX ||| (if x / 2^f.frac % 2^f.ebits = 0 then UF else 0)

/-- The result bits and flags of an approximate function: the special table, the correctly rounded rows, 2^a for an integer a
where that is representable, and else a free value within the bound. `raw` is the free value. -/
def AFun.eval (fn : AFun) (f : Fmt) (mode : Nat) (ftz : Bool) (bits raw : Nat) : Nat × Nat :=
  let v := f.decode bits
  match fn.special f v with
  | some r => r
  | none =>
    match v with
    | .num s m e _ =>
      let y := fn.exact s m e
      let r := f.round (if fn.rounded f then mode else 0) 0 ftz false y
      let flags := r.flags ||| (if r.flags &&& OF != 0 then NX else f.tinyFlags r.bits)
      let x := raw % 2^f.w
      if fn.rounded f || (fn.exactInt v && r.flags &&& NX == 0) then (r.bits, flags)
      else if (f.decode r.bits).isNan || r.flags &&& OF != 0 || !fn.inBound f v y x then (r.bits, flags)
      else if ftz && f.isSub x then (f.pack (x.testBit (f.w - 1)) 0 f.emin, UF ||| NX)
      else (x, f.tinyFlags x)
    | _ => (f.nanBits, 0)

end Sys2Proof.Machine
end

