-- ==== Sys2Proof/WellFormed.lean ====
section
/-! DEFINITION. Which instructions are encodings of the part: the field rules of R33, R36 and of each class's encoding
table. A word whose fields break them raises ILLOP (R36). -/

namespace Sys2Proof

/-- A field that names one register: not 63 (R33, R36). -/
def regOk (c : RegCode) : Bool := c != 63

/-- A field that names a 64-bit pair: even and 60 or less (R33). -/
def pairOk (c : RegCode) : Bool := decide (c.toNat % 2 = 0 ∧ c.toNat ≤ 60)

/-- A field that names a group of eight: a multiple of 8, at most 48 (R287). -/
def groupOk (c : RegCode) : Bool := decide (c.toNat % 8 = 0 ∧ c.toNat ≤ 48)

/-- A source that names one register, or reads the extension word (R33). -/
def srcOk : Src → Bool
  | .reg c => regOk c
  | .imm _ => true

/-- A source that names a pair, or reads the sign-extended extension word (R33). -/
def srcPairOk : Src → Bool
  | .reg c => pairOk c
  | .imm _ => true

/-- Two sources of code 63 read one extension word (R33). -/
def sameExt : Src → Src → Bool
  | .imm x, .imm y => x == y
  | _, _ => true

/-- off6 is 0 to 62, or escapes to the extension word (R32). -/
def offOk : Off → Bool
  | .scaled o => o != 63
  | .ext _ => true

/-- A result field of a floating-point type: a pair for f64 (R110). -/
def fregOk (t : BitVec 3) (c : RegCode) : Bool := if t = 1 then pairOk c else regOk c

/-- A source field of a floating-point type: a pair for f64 (R110, R111). -/
def fsrcOk (t : BitVec 3) (a : Src) : Bool := if t = 1 then srcPairOk a else srcOk a

/-- The conversion indexes of R58. -/
def cvtIndexOk (i : BitVec 6) : Bool :=
  decide (i.toNat ≤ 0x0B ∨ (0x10 ≤ i.toNat ∧ i.toNat ≤ 0x19) ∨ (0x20 ≤ i.toNat ∧ i.toNat ≤ 0x26) ∨
    (0x28 ≤ i.toNat ∧ i.toNat ≤ 0x2E) ∨ i.toNat = 0x30 ∨ i.toNat = 0x31)

/-- Indexes whose source is 64-bit (R58). -/
def cvtSrc64 (i : BitVec 6) : Bool := [1, 6, 8, 0x22, 0x23, 0x24, 0x2C].contains i.toNat

/-- Indexes whose destination is 64-bit (R58). -/
def cvtDst64 (i : BitVec 6) : Bool := [0, 7, 9, 0x24, 0x2A, 0x2B, 0x2C].contains i.toNat

/-- A source field that names a pair of registers and reads no extension word (R58). -/
def regPairOk : Src → Bool
  | .reg c => pairOk c
  | .imm _ => false

/-- CVT and CVTR fields (R56, R58): the field of a 64-bit source or destination is an even code of 60 or less. -/
def cvtOk (i : BitVec 6) (d : RegCode) (a : Src) : Bool :=
  cvtIndexOk i && (if cvtDst64 i then pairOk d else regOk d) && (if cvtSrc64 i then regPairOk a else srcOk a)

/-- The data field by width (R138): a register, a pair for fn 5, a group of four for fn 6. -/
def widthRegOk (w : BitVec 3) (d : RegCode) : Bool :=
  if w = 5 then pairOk d else if w = 6 then decide (d.toNat % 4 = 0 ∧ d.toNat ≤ 56) else regOk d

/-- Load widths 0 to 6 (R139). -/
def ldWidthOk (w : BitVec 3) (d : RegCode) : Bool := decide (w.toNat < 7) && widthRegOk w d

/-- Store widths .b8, .b16, .b32, .b64, .b128 (R139). -/
def stWidthOk (w : BitVec 3) (d : RegCode) : Bool := [0, 2, 4, 5, 6].contains w.toNat && widthRegOk w d

/-- Fields of the atomic parameter word (R175). -/
def atomOp (x : Word) : Nat := x.toNat % 16
def atomType (x : Word) : Nat := x.toNat / 16 % 8
def atomScope (x : Word) : Nat := x.toNat / 256 % 8
def atomPlace (x : Word) : Nat := x.toNat / 2048 % 4
def atomReserved (x : Word) : Nat := x.toNat / 128 % 2 + x.toNat / 8192

/-- Checks common to the atomic parameter words (R175). -/
def atomBase (x : Word) : Bool :=
  decide (atomReserved x = 0 ∧ atomType x < 5 ∧ atomOp x < 7 ∧
    (atomType x = 4 → ¬ (3 ≤ atomOp x ∧ atomOp x ≤ 5)))

def atomXOk (x : Word) : Bool := atomBase x && decide (atomPlace x = 0)
def atomcXOk (x : Word) : Bool := atomBase x && decide (atomPlace x = 0 ∧ atomOp x = 0)
def redXOk (x : Word) : Bool :=
  atomBase x && decide (atomOp x ≠ 6 ∧ atomPlace x < 2 ∧
    (atomPlace x = 1 → atomOp x < 3 ∧ (atomType x = 0 ∨ atomType x = 4)))

/-- Operand registers of an atomic: pairs for .i64 and .n64 (R174). -/
def atomRegOk (x : Word) (c : RegCode) : Bool :=
  if atomType x = 2 ∨ atomType x = 3 then pairOk c else regOk c

/-- ATOM's d: the result, or 0 in the no-result form (R174). -/
def atomDOk (f : BitVec 1) (x : Word) (d : RegCode) : Bool := if f = 1 then d == 0 else atomRegOk x d

/-- WLOAD's a: an address pair, or the tile register (R235). -/
def wloadAOk (f : BitVec 1) (a : Src) : Bool :=
  if f = 1 then srcOk a else match a with
    | .reg c => pairOk c
    | .imm _ => false

/-- 64-bit system registers (R320). -/
def sysWide (n : BitVec 6) : Bool :=
  [0x09, 0x0A, 0x0B, 0x0C, 0x11, 0x12, 0x13, 0x14, 0x15, 0x17, 0x18, 0x19, 0x1A, 0x21, 0x22, 0x23, 0x24, 0x25, 0x2A].contains
    n.toNat

/-- Assigned system register numbers (R320). -/
def sysOk (n : BitVec 6) : Bool :=
  decide (n.toNat ≤ 0x0C ∨ (0x10 ≤ n.toNat ∧ n.toNat ≤ 0x1A) ∨ (0x20 ≤ n.toNat ∧ n.toNat ≤ 0x25) ∨
    (0x28 ≤ n.toNat ∧ n.toNat ≤ 0x2A))

/-- System registers that MTS may write (R320). -/
def sysWritable (n : BitVec 6) : Bool :=
  decide (n.toNat = 8 ∨ (0x10 ≤ n.toNat ∧ n.toNat ≤ 0x1A) ∨ (0x20 ≤ n.toNat ∧ n.toNat ≤ 0x25))

def mfsOk (n : BitVec 6) (d : RegCode) : Bool := sysOk n && (if sysWide n then pairOk d else regOk d)
def mtsOk (n : BitVec 6) (a : Src) : Bool := sysWritable n && (if sysWide n then srcPairOk a else srcOk a)

/-- The field rules of each instruction (R36). Events are no encodings. -/
def wellFormed : Instr → Bool
  | .nop _ => true
  | .bra g _ => (g.pd == 0)
  | .brp _ _ => true
  | .brn _ _ => true
  | .brx _ a => srcOk a
  | .jmp _ a => pairOk a
  | .callr _ d a => pairOk d && pairOk a
  | .ret _ => true
  | .call _ _ => true
  | .meet _ _ => true
  | .unmeet _ => true
  | .exit _ => true
  | .voteAny _ _ _ _ => true
  | .voteAll _ _ _ _ => true
  | .voteBallot _ d _ _ => regOk d
  | .shflIdx _ d a b => regOk d && srcOk a && srcOk b && sameExt a b
  | .shflUp _ d a b => regOk d && srcOk a && srcOk b && sameExt a b
  | .shflDown _ d a b => regOk d && srcOk a && srcOk b && sameExt a b
  | .shflXor _ d a b => regOk d && srcOk a && srcOk b && sameExt a b
  | .shape _ d a t => regOk d && srcOk a && decide (t.toNat < 3)
  | .tagq _ d a => regOk d && srcOk a
  | .movx _ d a => regOk d && srcOk a
  | .movxw _ a b => srcOk a && srcOk b && sameExt a b
  | .mov _ d _ => regOk d
  | .movi _ d _ => regOk d
  | .movh _ d _ => pairOk d
  | .add _ d a b => regOk d && srcOk a && srcOk b && sameExt a b
  | .addc _ d a b => regOk d && srcOk a && srcOk b && sameExt a b
  | .sub _ d a b => regOk d && srcOk a && srcOk b && sameExt a b
  | .subb _ d a b => regOk d && srcOk a && srcOk b && sameExt a b
  | .neg _ d a => regOk d && srcOk a
  | .abs _ d a => regOk d && srcOk a
  | .mul _ d a b => regOk d && srcOk a && srcOk b && sameExt a b
  | .mulhI _ d a b => regOk d && srcOk a && srcOk b && sameExt a b
  | .mulhN _ d a b => regOk d && srcOk a && srcOk b && sameExt a b
  | .mad _ d a b => regOk d && srcOk a && srcOk b && sameExt a b
  | .madwI _ d a b => pairOk d && srcOk a && srcOk b && sameExt a b
  | .madwN _ d a b => pairOk d && srcOk a && srcOk b && sameExt a b
  | .minI _ d a b => regOk d && srcOk a && srcOk b && sameExt a b
  | .minN _ d a b => regOk d && srcOk a && srcOk b && sameExt a b
  | .maxI _ d a b => regOk d && srcOk a && srcOk b && sameExt a b
  | .maxN _ d a b => regOk d && srcOk a && srcOk b && sameExt a b
  | .and _ d a b => regOk d && srcOk a && srcOk b && sameExt a b
  | .or _ d a b => regOk d && srcOk a && srcOk b && sameExt a b
  | .xor _ d a b => regOk d && srcOk a && srcOk b && sameExt a b
  | .not _ d a => regOk d && srcOk a
  | .shl _ d a b => regOk d && srcOk a && srcOk b && sameExt a b
  | .shr _ d a b => regOk d && srcOk a && srcOk b && sameExt a b
  | .sar _ d a b => regOk d && srcOk a && srcOk b && sameExt a b
  | .rot _ d a b => regOk d && srcOk a && srcOk b && sameExt a b
  | .bfxI _ d a b => regOk d && srcOk a && srcOk b && sameExt a b
  | .bfxN _ d a b => regOk d && srcOk a && srcOk b && sameExt a b
  | .bfi _ d a b x => regOk d && regOk a && regOk b && decide (x.toNat / 32 % 8 = 0 ∧ x.toNat / 2^14 = 0)
  | .popc _ d a => regOk d && srcOk a
  | .clz _ d a => regOk d && srcOk a
  | .brev _ d a => regOk d && srcOk a
  | .sel _ _ d a b => regOk d && srcOk a && srcOk b && sameExt a b
  | .icmp _ _ _ a b => srcOk a && srcOk b && sameExt a b
  | .plop _ _ _ _ x => decide (x.toNat / 8 % 32 = 0 ∧ x.toNat / 2^16 = 0)
  | .adda _ d a b => pairOk d && pairOk a && srcPairOk b
  | .lea _ d b => pairOk d && srcOk b
  | .fadd _ t d a b => decide (t.toNat < 6) && sameExt a b && fregOk t d && fsrcOk t a && fsrcOk t b
  | .fsub _ t d a b => decide (t.toNat < 6) && sameExt a b && fregOk t d && fsrcOk t a && fsrcOk t b
  | .fmul _ t d a b => decide (t.toNat < 6) && sameExt a b && fregOk t d && fsrcOk t a && fsrcOk t b
  | .ffma _ t d a b => decide (t.toNat < 6) && sameExt a b && fregOk t d && fsrcOk t a && fsrcOk t b
  | .fmin _ t d a b => decide (t.toNat < 6) && sameExt a b && fregOk t d && fsrcOk t a && fsrcOk t b
  | .fmax _ t d a b => decide (t.toNat < 6) && sameExt a b && fregOk t d && fsrcOk t a && fsrcOk t b
  | .fcmp _ t d a b => decide (t.toNat < 4) && regOk d && sameExt a b && fsrcOk t a && fsrcOk t b
  | .fclass _ t d a => decide (t.toNat < 4) && regOk d && fsrcOk t a
  | .fsqrt _ t d a => decide (t.toNat < 4) && fregOk t d && fsrcOk t a
  | .fdiv _ t d a b => decide (t.toNat < 4) && sameExt a b && fregOk t d && fsrcOk t a && fsrcOk t b
  | .frcp _ t d a => decide (t.toNat < 4) && fregOk t d && fsrcOk t a
  | .frsq _ t d a => decide (t.toNat < 4) && fregOk t d && fsrcOk t a
  | .fex2 _ t d a => (t == 0 || t == 2 || t == 3) && fregOk t d && fsrcOk t a
  | .flg2 _ t d a => (t == 0 || t == 2 || t == 3) && fregOk t d && fsrcOk t a
  | .fsin _ t d a => (t == 0 || t == 2 || t == 3) && fregOk t d && fsrcOk t a
  | .fcos _ t d a => (t == 0 || t == 2 || t == 3) && fregOk t d && fsrcOk t a
  | .cvt _ _ d a i => cvtOk i d a
  | .cvtr _ _ d a i => cvtOk i d a
  | .bpack _ _ d a b => regOk d && srcOk a && srcOk b && sameExt a b
  | .bunpack _ _ d a b => regOk d && srcOk a && srcOk b && sameExt a b
  | .bscaleRead _ d a _ => regOk d && srcOk a
  | .bscaleWrite _ d a _ => regOk d && srcOk a
  | .fmtq _ d a => regOk d && srcOk a
  | .fmtqSlot _ d _ => regOk d
  | .fmtqElem _ d _ => regOk d
  | .fpack2 _ d a b => regOk d && srcOk a && srcOk b && sameExt a b
  | .funpk2 _ d a b => regOk d && srcOk a && srcOk b && sameExt a b
  | .ld _ w d a off => pairOk a && offOk off && ldWidthOk w d
  | .st _ w d a off => pairOk a && offOk off && stWidthOk w d
  | .ldu _ w d a off => pairOk a && offOk off && (w != 6) && ldWidthOk w d
  | .ldl _ w d a off => regOk a && offOk off && ldWidthOk w d
  | .stl _ w d a off => regOk a && offOk off && stWidthOk w d
  | .pref _ f a off => decide (f.toNat < 3) && pairOk a && offOk off
  | .tdef _ _ a _ => pairOk a
  | .tfree _ _ => true
  | .tqry _ f d _ => decide (f.toNat < 6) && regOk d
  | .tld _ f d a b x => decide (f.toNat < 3) && regOk d && regOk a && regOk b && decide (x.toNat / 512 = 0)
  | .tst _ _ d a b x => regOk d && regOk a && regOk b && decide (x.toNat / 512 = 0)
  | .ldtr _ d a b x => regOk d && regOk a && regOk b && decide (x.toNat / 512 = 0)
  | .lserrq _ _ d => pairOk d
  | .cctl _ f a off => decide (f.toNat < 3) && pairOk a && offOk off
  | .fence _ _ x => decide (x.toNat / 2^16 = 0)
  | .bar _ _ => true
  | .barx _ a _ => srcOk a
  | .gsync _ => true
  | .arrive _ f d a _ => regOk d && srcOk a && (f == 1 || a == .reg 0)
  | .awaitb _ a _ => srcOk a
  | .waitv _ c d a off => decide (c.toNat < 6) && regOk d && pairOk a && offOk off
  | .lda _ _ d a off => regOk d && pairOk a && offOk off
  | .strl _ _ d a off => regOk d && pairOk a && offOk off
  | .atom _ f d a b x => pairOk a && regOk b && atomXOk x && atomDOk f x d && atomRegOk x b
  | .atomc _ _ d a b x => pairOk a && regOk b && atomcXOk x && atomRegOk x d && atomRegOk x b
  | .red _ a b x => pairOk a && regOk b && redXOk x && atomRegOk x b
  | .tbegin _ _ => true
  | .tend _ => true
  | .tabort _ b => srcOk b
  | .tstat _ d => regOk d
  | .cpy _ a => pairOk a
  | .cpyg _ a => pairOk a
  | .cpys _ a => pairOk a
  | .cpyx _ a => pairOk a
  | .cqbind _ _ => true
  | .cqstat _ f d _ => decide (f.toNat < 5) && regOk d
  | .cqdrain _ _ => true
  | .hlut _ a => pairOk a
  | .hlutw _ a => pairOk a
  | .hsum _ _ d a => regOk d && srcOk a
  | .slabm _ _ _ => true
  | .wload _ f a _ => wloadAOk f a
  | .wbmap _ _ a _ => srcOk a
  | .wscale _ _ a _ => srcOk a
  | .elect _ _ => true
  | .amv _ a _ => pairOk a
  | .amvb _ a _ => pairOk a
  | .await _ m => (m != 0)
  | .cralloc _ _ a _ => srcOk a
  | .crfree _ a _ => srcOk a
  | .crzero _ a _ => srcOk a
  | .crrd _ f d a k => regOk d && srcOk a && (f == 0 || (a == .reg 0 && k == 0))
  | .lease _ a k => srcOk a && (k != 3)
  | .unlease _ k => (k != 3)
  | .omap _ a _ => pairOk a
  | .mma _ a => pairOk a
  | .nzscan _ a _ => pairOk a
  | .mmag _ a => pairOk a
  | .epi _ a => pairOk a
  | .crwr _ d a _ => regOk d && srcOk a
  | .launch _ d a => regOk d && pairOk a
  | .lwait _ d a => regOk d && srcOk a
  | .migrate _ _ a => srcOk a
  | .qput _ _ a _ => groupOk a
  | .qputw _ _ a _ => groupOk a
  | .qstat _ d _ => regOk d
  | .targ _ d _ => regOk d
  | .tdone _ a k => srcOk a && (k == 1 || a == .reg 0)
  | .stnc _ a _ => pairOk a
  | .vdecl _ _ o _ => decide (o.toNat < 10)
  | .spawn _ _ a _ => groupOk a
  | .vtile _ _ _ => true
  | .solder _ => true
  | .vsync _ => true
  | .vqry _ d e => regOk d && decide (e.toNat / 8 < 4 ∨ e.toNat = 32)
  | .trap _ _ => true
  | .eret _ => true
  | .yield _ a => pairOk a
  | .dbrk _ _ => true
  | .sleep _ a => srcOk a
  | .scall _ _ => true
  | .sret _ => true
  | .mfs _ d n => mfsOk n d
  | .mts _ a n => mtsOk n a
  | .tlbi _ a k => (if k = 1 then pairOk a else a == 0)
  | .ctxsw _ d a k => regOk d && srcOk a && (k != 3)
  | .commit _ => true
  | .sigq _ d k => pairOk d && (k != 3)
  | .errq _ d a k => pairOk d && srcOk a && decide (k.toNat < 5)
  | .errclr _ a => srcOk a
  | .errinj _ a k => decide (k.toNat < 5) && (k == 2 || pairOk a)
  | .mirf _ _ => true
  | .hmq _ d a k => pairOk d && srcOk a && decide (k.toNat < 10)
  | .asgn _ d a _ => regOk d && srcOk a
  | .keyi _ a => pairOk a
  | .keyroll _ _ a _ => srcOk a
  | .quar _ a _ => srcOk a
  | .dieq _ d a => regOk d && srcOk a
  | .bundleFormation => false
  | .clauseFetch => false
  | .resultLands => false
  | .loadResultLands => false
  | .storeLeavesQueue => false
  | .atomicPerformed => false
  | .tokenGrant => false
  | .barrierRelease => false
  | .gsyncSwapOut => false
  | .gsyncComplete => false
  | .waitvReread => false
  | .l1CopyExpiry => false
  | .trapEntry => false
  | .breakpoint => false
  | .copyAcceptance => false
  | .copyCommandStart => false
  | .copySegmentArrival => false
  | .copyFinish => false
  | .hsumSample => false
  | .hearthRedAccept => false
  | .hearthRedApply => false
  | .hlutWaveStep => false
  | .hearthRefresh => false
  | .anvilOperationStart => false
  | .permitGroupEnd => false
  | .anvilOperationComplete => false
  | .mmaStart => false
  | .mmaComplete => false
  | .nzscanComplete => false
  | .epiStart => false
  | .epiComplete => false
  | .crallocGrant => false
  | .noprogress => false
  | .leaseGrant => false
  | .launchAcceptance => false
  | .workgroupPlacement => false
  | .workgroupRetire => false
  | .launchCompletion => false
  | .migrateMove => false
  | .taskPutPlacement => false
  | .taskRefill => false
  | .stencilEvaluation => false
  | .taskDispatch => false
  | .merge => false
  | .mergeCommit => false
  | .contextSaveComplete => false
  | .workgroupRestore => false
  | .yieldDeadlineExpiry => false
  | .watchdog => false
  | .sleepExpiry => false
  | .qputwTimeout => false
  | .commitPoint => false
  | .mirrorTimeout => false
  | .patrolScrub => false
  | .flitCrcFailure _ => false
  | .packageReset => false
  | .assay => false
  | .assayTimeout => false
  | .linkTraining => false
  | .keyGenerationDrop _ _ => false
  | .rolloverRequest _ _ => false
  | .powerGrantPeriod => false
  | .ralpexTimeout => false
  | .ralpexRequest => false
  | .hostMemoryAccess _ _ _ => false
  | .doorbell _ _ _ => false
  | .launchRingRead => false
  | .ctxcmdSave _ _ => false
  | .ctxcmdResume _ _ => false
  | .ctxcmdQuery _ _ => false
  | .taskPut _ _ => false
  | .irqstatClear _ => false
  | .pkgidWrite _ => false
  | .allowWrite _ => false
  | .ctxtabWrite _ => false
  | .deviceRegisterWrite _ _ _ => false
  | .keyInstallAcknowledgement => false
  | .mirrorAcknowledgement => false
  | .thermalLimit _ _ _ => false
  | .migrateArrival => false

end Sys2Proof
end

