-- ==== Sys2Proof/Decode.lean ====
section
/-! DEFINITION. The decoder and the encoder, from the formats of R32, the opcode map of R35 and the encoding tables of
R56, R82, R99, R110, R138, R147, R174, R195, R235, R260, R287, R311, R339, R363 and R377. Fields are taken out and put
together by arithmetic on the number of the word. -/

namespace Sys2Proof

/-- Why a word is no instruction (R36). Both raise ILLOP when the word is reached. -/
inductive DecodeError where
  /-- an unassigned major -/
  | unassignedMajor
  /-- an unassigned fn, a reserved field that is not zero, or an illegal register field -/
  | illegalField
  /-- the extension word stands past the words given -/
  | short
  deriving DecidableEq, Repr

def srcOf (f : Nat) (x : Word) : Src := if f = 63 then .imm x else .reg (BitVec.ofNat 6 f)

def offOf (f : Nat) (x : Word) : Off := if f = 63 then .ext x else .scaled (BitVec.ofNat 6 f)

/-- The major op of a word, bits 30:24 (R32). -/
def majorOf (w : Nat) : Nat := w / 2^24 % 128

/-- Unassigned majors (R36). -/
def unassigned (m : Nat) : Bool :=
  decide ((0x0C ≤ m ∧ m ≤ 0x0F) ∨ (0x1C ≤ m ∧ m ≤ 0x1F) ∨ m = 0x37 ∨ m = 0x46 ∨ m = 0x47 ∨ m = 0x62 ∨ m = 0x63 ∨ m = 0x7B)

/-- The instruction an A, C, M or E word gives, its extension word being `x` (R32, R35). Field rules that depend on
the value of a register field are those of `wellFormed`. -/
def parseControl (w : Nat) (g : Guard) (fn d a b : Nat) (x : Word) : Option Instr :=
  match majorOf w with
  | 0x00 => if fn = 0 ∧ d = 0 ∧ a = 0 ∧ b = 0 then some (.nop g) else none
  | 0x01 => some (.bra g (BitVec.ofNat 21 (w % 2^21)))
  | 0x02 => some (.brp g (BitVec.ofNat 21 (w % 2^21)))
  | 0x03 => some (.brn g (BitVec.ofNat 21 (w % 2^21)))
  | 0x04 => if fn = 0 ∧ d = 0 ∧ b = 0 then some (.brx g (srcOf a x)) else none
  | 0x05 => match fn with
    | 0 => if d = 0 ∧ b = 0 then some (.jmp g (BitVec.ofNat 6 a)) else none
    | 1 => if b = 0 then some (.callr g (BitVec.ofNat 6 d) (BitVec.ofNat 6 a)) else none
    | 2 => if d = 0 ∧ a = 0 ∧ b = 0 then some (.ret g) else none
    | _ => none
  | 0x06 => some (.call g (BitVec.ofNat 21 (w % 2^21)))
  | 0x07 => some (.meet g (BitVec.ofNat 21 (w % 2^21)))
  | 0x08 => match fn with
    | 0 => if d = 0 ∧ a = 0 ∧ b = 0 then some (.unmeet g) else none
    | 1 => if d = 0 ∧ a = 0 ∧ b = 0 then some (.exit g) else none
    | _ => none
  | 0x09 => match fn with
    | 0 => if d < 8 ∧ a < 8 ∧ b < 2 then some (.voteAny g (BitVec.ofNat 3 d) (BitVec.ofNat 3 a) (BitVec.ofNat 1 b)) else none
    | 1 => if d < 8 ∧ a < 8 ∧ b < 2 then some (.voteAll g (BitVec.ofNat 3 d) (BitVec.ofNat 3 a) (BitVec.ofNat 1 b)) else none
    | 2 => if a < 8 ∧ b < 2 then some (.voteBallot g (BitVec.ofNat 6 d) (BitVec.ofNat 3 a) (BitVec.ofNat 1 b)) else none
    | _ => none
  | 0x0A => match fn with
    | 0 => some (.shflIdx g (BitVec.ofNat 6 d) (srcOf a x) (srcOf b x))
    | 1 => some (.shflUp g (BitVec.ofNat 6 d) (srcOf a x) (srcOf b x))
    | 2 => some (.shflDown g (BitVec.ofNat 6 d) (srcOf a x) (srcOf b x))
    | 3 => some (.shflXor g (BitVec.ofNat 6 d) (srcOf a x) (srcOf b x))
    | _ => none
  | 0x0B => match fn with
    | 0 => some (.shape g (BitVec.ofNat 6 d) (srcOf a x) (BitVec.ofNat 6 b))
    | 1 => if b = 0 then some (.tagq g (BitVec.ofNat 6 d) (srcOf a x)) else none
    | 2 => if b = 0 then some (.movx g (BitVec.ofNat 6 d) (srcOf a x)) else none
    | 3 => if d = 0 then some (.movxw g (srcOf a x) (srcOf b x)) else none
    | _ => none
  | _ => none

def parseInteger (w : Nat) (g : Guard) (fn d a b : Nat) (x : Word) : Option Instr :=
  match majorOf w with
  | 0x10 => match fn with
    | 0 => if b = 0 then some (.mov g (BitVec.ofNat 6 d) (BitVec.ofNat 6 a)) else none
    | 1 => if a = 0 ∧ b = 0 then some (.movi g (BitVec.ofNat 6 d) x) else none
    | 2 => if a = 0 ∧ b = 0 then some (.movh g (BitVec.ofNat 6 d) x) else none
    | _ => none
  | 0x11 => match fn with
    | 0 => some (.add g (BitVec.ofNat 6 d) (srcOf a x) (srcOf b x))
    | 1 => some (.addc g (BitVec.ofNat 6 d) (srcOf a x) (srcOf b x))
    | 2 => some (.sub g (BitVec.ofNat 6 d) (srcOf a x) (srcOf b x))
    | 3 => some (.subb g (BitVec.ofNat 6 d) (srcOf a x) (srcOf b x))
    | 4 => if b = 0 then some (.neg g (BitVec.ofNat 6 d) (srcOf a x)) else none
    | 5 => if b = 0 then some (.abs g (BitVec.ofNat 6 d) (srcOf a x)) else none
    | _ => none
  | 0x12 => match fn with
    | 0 => some (.mul g (BitVec.ofNat 6 d) (srcOf a x) (srcOf b x))
    | 1 => some (.mulhI g (BitVec.ofNat 6 d) (srcOf a x) (srcOf b x))
    | 2 => some (.mulhN g (BitVec.ofNat 6 d) (srcOf a x) (srcOf b x))
    | 3 => some (.mad g (BitVec.ofNat 6 d) (srcOf a x) (srcOf b x))
    | 4 => some (.madwI g (BitVec.ofNat 6 d) (srcOf a x) (srcOf b x))
    | 5 => some (.madwN g (BitVec.ofNat 6 d) (srcOf a x) (srcOf b x))
    | _ => none
  | 0x13 => match fn with
    | 0 => some (.minI g (BitVec.ofNat 6 d) (srcOf a x) (srcOf b x))
    | 1 => some (.minN g (BitVec.ofNat 6 d) (srcOf a x) (srcOf b x))
    | 2 => some (.maxI g (BitVec.ofNat 6 d) (srcOf a x) (srcOf b x))
    | 3 => some (.maxN g (BitVec.ofNat 6 d) (srcOf a x) (srcOf b x))
    | _ => none
  | 0x14 => match fn with
    | 0 => some (.and g (BitVec.ofNat 6 d) (srcOf a x) (srcOf b x))
    | 1 => some (.or g (BitVec.ofNat 6 d) (srcOf a x) (srcOf b x))
    | 2 => some (.xor g (BitVec.ofNat 6 d) (srcOf a x) (srcOf b x))
    | 3 => if b = 0 then some (.not g (BitVec.ofNat 6 d) (srcOf a x)) else none
    | _ => none
  | 0x15 => match fn with
    | 0 => some (.shl g (BitVec.ofNat 6 d) (srcOf a x) (srcOf b x))
    | 1 => some (.shr g (BitVec.ofNat 6 d) (srcOf a x) (srcOf b x))
    | 2 => some (.sar g (BitVec.ofNat 6 d) (srcOf a x) (srcOf b x))
    | 3 => some (.rot g (BitVec.ofNat 6 d) (srcOf a x) (srcOf b x))
    | _ => none
  | 0x16 => match fn with
    | 0 => some (.bfxI g (BitVec.ofNat 6 d) (srcOf a x) (srcOf b x))
    | 1 => some (.bfxN g (BitVec.ofNat 6 d) (srcOf a x) (srcOf b x))
    | 2 => some (.bfi g (BitVec.ofNat 6 d) (BitVec.ofNat 6 a) (BitVec.ofNat 6 b) x)
    | _ => none
  | 0x17 => match fn with
    | 0 => if b = 0 then some (.popc g (BitVec.ofNat 6 d) (srcOf a x)) else none
    | 1 => if b = 0 then some (.clz g (BitVec.ofNat 6 d) (srcOf a x)) else none
    | 2 => if b = 0 then some (.brev g (BitVec.ofNat 6 d) (srcOf a x)) else none
    | _ => none
  | 0x18 => some (.sel g (BitVec.ofNat 3 fn) (BitVec.ofNat 6 d) (srcOf a x) (srcOf b x))
  | 0x19 => if d < 8 then some (.icmp g (BitVec.ofNat 3 fn) (BitVec.ofNat 3 d) (srcOf a x) (srcOf b x)) else none
  | 0x1A => if fn = 0 ∧ d < 8 ∧ a < 8 ∧ b < 8 then some (.plop g (BitVec.ofNat 3 d) (BitVec.ofNat 3 a) (BitVec.ofNat 3 b) x) else none
  | 0x1B => match fn with
    | 0 => some (.adda g (BitVec.ofNat 6 d) (BitVec.ofNat 6 a) (srcOf b x))
    | 1 => if a = 0 then some (.lea g (BitVec.ofNat 6 d) (srcOf b x)) else none
    | _ => none
  | _ => none

def parseFloat (w : Nat) (g : Guard) (fn d a b : Nat) (x : Word) : Option Instr :=
  match majorOf w with
  | 0x20 => some (.fadd g (BitVec.ofNat 3 fn) (BitVec.ofNat 6 d) (srcOf a x) (srcOf b x))
  | 0x21 => some (.fsub g (BitVec.ofNat 3 fn) (BitVec.ofNat 6 d) (srcOf a x) (srcOf b x))
  | 0x22 => some (.fmul g (BitVec.ofNat 3 fn) (BitVec.ofNat 6 d) (srcOf a x) (srcOf b x))
  | 0x23 => some (.ffma g (BitVec.ofNat 3 fn) (BitVec.ofNat 6 d) (srcOf a x) (srcOf b x))
  | 0x24 => some (.fmin g (BitVec.ofNat 3 fn) (BitVec.ofNat 6 d) (srcOf a x) (srcOf b x))
  | 0x25 => some (.fmax g (BitVec.ofNat 3 fn) (BitVec.ofNat 6 d) (srcOf a x) (srcOf b x))
  | 0x26 => some (.fcmp g (BitVec.ofNat 3 fn) (BitVec.ofNat 6 d) (srcOf a x) (srcOf b x))
  | 0x27 => if b = 0 then some (.fclass g (BitVec.ofNat 3 fn) (BitVec.ofNat 6 d) (srcOf a x)) else none
  | 0x28 => if b = 0 then some (.fsqrt g (BitVec.ofNat 3 fn) (BitVec.ofNat 6 d) (srcOf a x)) else none
  | 0x29 => some (.fdiv g (BitVec.ofNat 3 fn) (BitVec.ofNat 6 d) (srcOf a x) (srcOf b x))
  | 0x2A => if b = 0 then some (.frcp g (BitVec.ofNat 3 fn) (BitVec.ofNat 6 d) (srcOf a x)) else none
  | 0x2B => if b = 0 then some (.frsq g (BitVec.ofNat 3 fn) (BitVec.ofNat 6 d) (srcOf a x)) else none
  | 0x2C => if b = 0 then some (.fex2 g (BitVec.ofNat 3 fn) (BitVec.ofNat 6 d) (srcOf a x)) else none
  | 0x2D => if b = 0 then some (.flg2 g (BitVec.ofNat 3 fn) (BitVec.ofNat 6 d) (srcOf a x)) else none
  | 0x2E => if b = 0 then some (.fsin g (BitVec.ofNat 3 fn) (BitVec.ofNat 6 d) (srcOf a x)) else none
  | 0x2F => if b = 0 then some (.fcos g (BitVec.ofNat 3 fn) (BitVec.ofNat 6 d) (srcOf a x)) else none
  | _ => none

def parseConvert (w : Nat) (g : Guard) (fn d a b : Nat) (x : Word) : Option Instr :=
  match majorOf w with
  | 0x30 => if fn < 2 then some (.cvt g (BitVec.ofNat 1 fn) (BitVec.ofNat 6 d) (srcOf a x) (BitVec.ofNat 6 b)) else none
  | 0x31 => some (.cvtr g (BitVec.ofNat 3 fn) (BitVec.ofNat 6 d) (srcOf a x) (BitVec.ofNat 6 b))
  | 0x32 => some (.bpack g (BitVec.ofNat 3 fn) (BitVec.ofNat 6 d) (srcOf a x) (srcOf b x))
  | 0x33 => some (.bunpack g (BitVec.ofNat 3 fn) (BitVec.ofNat 6 d) (srcOf a x) (srcOf b x))
  | 0x34 => match fn with
    | 0 => if b < 8 then some (.bscaleRead g (BitVec.ofNat 6 d) (srcOf a x) (BitVec.ofNat 3 b)) else none
    | 1 => if b < 8 then some (.bscaleWrite g (BitVec.ofNat 6 d) (srcOf a x) (BitVec.ofNat 3 b)) else none
    | _ => none
  | 0x35 => match fn with
    | 0 => if b = 0 then some (.fmtq g (BitVec.ofNat 6 d) (srcOf a x)) else none
    | 1 => if a = 0 ∧ b < 8 then some (.fmtqSlot g (BitVec.ofNat 6 d) (BitVec.ofNat 3 b)) else none
    | 2 => if a = 0 ∧ b < 8 then some (.fmtqElem g (BitVec.ofNat 6 d) (BitVec.ofNat 3 b)) else none
    | _ => none
  | 0x36 => match fn with
    | 0 => some (.fpack2 g (BitVec.ofNat 6 d) (srcOf a x) (srcOf b x))
    | 1 => some (.funpk2 g (BitVec.ofNat 6 d) (srcOf a x) (srcOf b x))
    | _ => none
  | _ => none

def parseMem (w : Nat) (g : Guard) (fn d a b : Nat) (x : Word) : Option Instr :=
  match majorOf w with
  | 0x38 => some (.ld g (BitVec.ofNat 3 fn) (BitVec.ofNat 6 d) (BitVec.ofNat 6 a) (offOf b x))
  | 0x39 => some (.st g (BitVec.ofNat 3 fn) (BitVec.ofNat 6 d) (BitVec.ofNat 6 a) (offOf b x))
  | 0x3A => some (.ldu g (BitVec.ofNat 3 fn) (BitVec.ofNat 6 d) (BitVec.ofNat 6 a) (offOf b x))
  | 0x3B => some (.ldl g (BitVec.ofNat 3 fn) (BitVec.ofNat 6 d) (BitVec.ofNat 6 a) (offOf b x))
  | 0x3C => some (.stl g (BitVec.ofNat 3 fn) (BitVec.ofNat 6 d) (BitVec.ofNat 6 a) (offOf b x))
  | 0x3D => if d = 0 then some (.pref g (BitVec.ofNat 3 fn) (BitVec.ofNat 6 a) (offOf b x)) else none
  | 0x3E => if fn < 2 ∧ d = 0 then some (.tdef g (BitVec.ofNat 1 fn) (BitVec.ofNat 6 a) (BitVec.ofNat 6 b)) else none
  | 0x3F => if fn = 0 ∧ d = 0 ∧ a = 0 then some (.tfree g (BitVec.ofNat 6 b)) else none
  | 0x40 => if a = 0 then some (.tqry g (BitVec.ofNat 3 fn) (BitVec.ofNat 6 d) (BitVec.ofNat 6 b)) else none
  | 0x41 => some (.tld g (BitVec.ofNat 3 fn) (BitVec.ofNat 6 d) (BitVec.ofNat 6 a) (BitVec.ofNat 6 b) x)
  | 0x42 => if fn < 2 then some (.tst g (BitVec.ofNat 1 fn) (BitVec.ofNat 6 d) (BitVec.ofNat 6 a) (BitVec.ofNat 6 b) x) else none
  | 0x43 => if fn = 0 then some (.ldtr g (BitVec.ofNat 6 d) (BitVec.ofNat 6 a) (BitVec.ofNat 6 b) x) else none
  | 0x44 => if fn < 2 ∧ a = 0 ∧ b = 0 then some (.lserrq g (BitVec.ofNat 1 fn) (BitVec.ofNat 6 d)) else none
  | 0x45 => if d = 0 then some (.cctl g (BitVec.ofNat 3 fn) (BitVec.ofNat 6 a) (offOf b x)) else none
  | _ => none

def parseSync (w : Nat) (g : Guard) (fn d a b : Nat) (x : Word) : Option Instr :=
  match majorOf w with
  | 0x48 => if fn = 0 ∧ d = 0 ∧ a = 63 ∧ b < 8 then some (.fence g (BitVec.ofNat 3 b) x) else none
  | 0x49 => if fn = 0 ∧ d = 0 ∧ a = 0 ∧ b < 16 then some (.bar g (BitVec.ofNat 4 b)) else none
  | 0x4A => if fn = 0 ∧ d = 0 ∧ b < 16 then some (.barx g (srcOf a x) (BitVec.ofNat 4 b)) else none
  | 0x4B => if fn = 0 ∧ d = 0 ∧ a = 0 ∧ b = 0 then some (.gsync g) else none
  | 0x4C => if fn < 2 ∧ b < 16 then some (.arrive g (BitVec.ofNat 1 fn) (BitVec.ofNat 6 d) (srcOf a x) (BitVec.ofNat 4 b)) else none
  | 0x4D => if fn = 0 ∧ d = 0 ∧ b < 16 then some (.awaitb g (srcOf a x) (BitVec.ofNat 4 b)) else none
  | 0x4E => some (.waitv g (BitVec.ofNat 3 fn) (BitVec.ofNat 6 d) (BitVec.ofNat 6 a) (offOf b x))
  | 0x4F => some (.lda g (BitVec.ofNat 3 fn) (BitVec.ofNat 6 d) (BitVec.ofNat 6 a) (offOf b x))
  | 0x50 => some (.strl g (BitVec.ofNat 3 fn) (BitVec.ofNat 6 d) (BitVec.ofNat 6 a) (offOf b x))
  | 0x51 => if fn < 2 then some (.atom g (BitVec.ofNat 1 fn) (BitVec.ofNat 6 d) (BitVec.ofNat 6 a) (BitVec.ofNat 6 b) x) else none
  | 0x52 => if fn < 2 then some (.atomc g (BitVec.ofNat 1 fn) (BitVec.ofNat 6 d) (BitVec.ofNat 6 a) (BitVec.ofNat 6 b) x) else none
  | 0x53 => if fn = 0 ∧ d = 0 then some (.red g (BitVec.ofNat 6 a) (BitVec.ofNat 6 b) x) else none
  | 0x54 => some (.tbegin g (BitVec.ofNat 21 (w % 2^21)))
  | 0x55 => if fn = 0 ∧ d = 0 ∧ a = 0 ∧ b = 0 then some (.tend g) else none
  | 0x56 => if fn = 0 ∧ d = 0 ∧ a = 0 then some (.tabort g (srcOf b x)) else none
  | 0x57 => if fn = 0 ∧ a = 0 ∧ b = 0 then some (.tstat g (BitVec.ofNat 6 d)) else none
  | _ => none

def parseCopy (w : Nat) (g : Guard) (fn d a b : Nat) (x : Word) : Option Instr :=
  match majorOf w with
  | 0x58 => if fn = 0 ∧ d = 0 ∧ b = 0 then some (.cpy g (BitVec.ofNat 6 a)) else none
  | 0x59 => if fn = 0 ∧ d = 0 ∧ b = 0 then some (.cpyg g (BitVec.ofNat 6 a)) else none
  | 0x5A => if fn = 0 ∧ d = 0 ∧ b = 0 then some (.cpys g (BitVec.ofNat 6 a)) else none
  | 0x5B => if fn = 0 ∧ d = 0 ∧ b = 0 then some (.cpyx g (BitVec.ofNat 6 a)) else none
  | 0x5C => if fn = 0 ∧ d = 0 ∧ a = 0 ∧ b < 16 then some (.cqbind g (BitVec.ofNat 4 b)) else none
  | 0x5D => if a = 0 ∧ b < 16 then some (.cqstat g (BitVec.ofNat 3 fn) (BitVec.ofNat 6 d) (BitVec.ofNat 4 b)) else none
  | 0x5E => if fn = 0 ∧ d = 0 ∧ a = 0 ∧ b < 16 then some (.cqdrain g (BitVec.ofNat 4 b)) else none
  | 0x5F => if fn = 0 ∧ d = 0 ∧ b = 0 then some (.hlut g (BitVec.ofNat 6 a)) else none
  | 0x60 => if fn = 0 ∧ d = 0 ∧ b = 0 then some (.hlutw g (BitVec.ofNat 6 a)) else none
  | 0x61 => if fn < 2 ∧ b = 0 then some (.hsum g (BitVec.ofNat 1 fn) (BitVec.ofNat 6 d) (srcOf a x)) else none
  | _ => none

def parseMatrix (w : Nat) (g : Guard) (fn d a b : Nat) (x : Word) : Option Instr :=
  match majorOf w with
  | 0x64 => if fn < 2 ∧ d = 0 ∧ a = 0 ∧ b < 16 then some (.slabm g (BitVec.ofNat 1 fn) (BitVec.ofNat 4 b)) else none
  | 0x65 => if fn < 2 ∧ d = 0 ∧ b < 16 then some (.wload g (BitVec.ofNat 1 fn) (srcOf a x) (BitVec.ofNat 4 b)) else none
  | 0x66 => if fn < 2 ∧ d = 0 ∧ b < 16 then some (.wbmap g (BitVec.ofNat 1 fn) (srcOf a x) (BitVec.ofNat 4 b)) else none
  | 0x67 => if fn < 2 ∧ d = 0 ∧ b < 16 then some (.wscale g (BitVec.ofNat 1 fn) (srcOf a x) (BitVec.ofNat 4 b)) else none
  | 0x68 => if fn = 0 ∧ d < 8 ∧ a = 0 ∧ b = 0 then some (.elect g (BitVec.ofNat 3 d)) else none
  | 0x69 => if fn = 0 ∧ d = 0 ∧ b < 2 then some (.amv g (BitVec.ofNat 6 a) (BitVec.ofNat 1 b)) else none
  | 0x6A => if fn = 0 ∧ d = 0 ∧ b < 2 then some (.amvb g (BitVec.ofNat 6 a) (BitVec.ofNat 1 b)) else none
  | 0x6B => if fn = 0 ∧ d = 0 ∧ a = 0 ∧ b < 4 then some (.await g (BitVec.ofNat 2 b)) else none
  | 0x6C => if fn = 0 ∧ d < 8 ∧ b < 16 then some (.cralloc g (BitVec.ofNat 3 d) (srcOf a x) (BitVec.ofNat 4 b)) else none
  | 0x6D => if fn = 0 ∧ d = 0 ∧ b < 16 then some (.crfree g (srcOf a x) (BitVec.ofNat 4 b)) else none
  | 0x6E => if fn = 0 ∧ d = 0 ∧ b < 16 then some (.crzero g (srcOf a x) (BitVec.ofNat 4 b)) else none
  | 0x6F => if fn < 2 ∧ b < 16 then some (.crrd g (BitVec.ofNat 1 fn) (BitVec.ofNat 6 d) (srcOf a x) (BitVec.ofNat 4 b)) else none
  | 0x70 => if fn = 0 ∧ d = 0 ∧ b < 4 then some (.lease g (srcOf a x) (BitVec.ofNat 2 b)) else none
  | 0x71 => if fn = 0 ∧ d = 0 ∧ a = 0 ∧ b < 4 then some (.unlease g (BitVec.ofNat 2 b)) else none
  | 0x72 => if fn = 0 ∧ d = 0 ∧ b < 8 then some (.omap g (BitVec.ofNat 6 a) (BitVec.ofNat 3 b)) else none
  | 0x73 => if fn = 0 ∧ d = 0 ∧ b = 0 then some (.mma g (BitVec.ofNat 6 a)) else none
  | 0x74 => if fn = 0 ∧ d = 0 ∧ b < 8 then some (.nzscan g (BitVec.ofNat 6 a) (BitVec.ofNat 3 b)) else none
  | 0x75 => if fn = 0 ∧ d = 0 ∧ b = 0 then some (.mmag g (BitVec.ofNat 6 a)) else none
  | 0x76 => if fn = 0 ∧ d = 0 ∧ b = 0 then some (.epi g (BitVec.ofNat 6 a)) else none
  | 0x77 => if fn = 0 ∧ b < 16 then some (.crwr g (BitVec.ofNat 6 d) (srcOf a x) (BitVec.ofNat 4 b)) else none
  | _ => none

def parseTask (w : Nat) (g : Guard) (fn d a b : Nat) (x : Word) : Option Instr :=
  match majorOf w with
  | 0x78 => match fn with
    | 0 => if b = 0 then some (.launch g (BitVec.ofNat 6 d) (BitVec.ofNat 6 a)) else none
    | 1 => if b = 0 then some (.lwait g (BitVec.ofNat 6 d) (srcOf a x)) else none
    | 2 => if d < 8 ∧ b = 0 then some (.migrate g (BitVec.ofNat 3 d) (srcOf a x)) else none
    | _ => none
  | 0x79 => match fn with
    | 0 => if d < 8 then some (.qput g (BitVec.ofNat 3 d) (BitVec.ofNat 6 a) (BitVec.ofNat 6 b)) else none
    | 1 => if d < 8 then some (.qputw g (BitVec.ofNat 3 d) (BitVec.ofNat 6 a) (BitVec.ofNat 6 b)) else none
    | 2 => if a = 0 then some (.qstat g (BitVec.ofNat 6 d) (BitVec.ofNat 6 b)) else none
    | 3 => if a = 0 ∧ b < 8 then some (.targ g (BitVec.ofNat 6 d) (BitVec.ofNat 3 b)) else none
    | 4 => if d = 0 ∧ b < 2 then some (.tdone g (srcOf a x) (BitVec.ofNat 1 b)) else none
    | 5 => if d = 0 then some (.stnc g (BitVec.ofNat 6 a) (BitVec.ofNat 6 b)) else none
    | _ => none
  | 0x7A => match fn with
    | 0 => if b < 8 then some (.vdecl g (BitVec.ofNat 6 d) (BitVec.ofNat 6 a) (BitVec.ofNat 3 b)) else none
    | 1 => if d < 8 then some (.spawn g (BitVec.ofNat 3 d) (BitVec.ofNat 6 a) (BitVec.ofNat 6 b)) else none
    | 2 => if a = 0 ∧ b < 8 then some (.vtile g (BitVec.ofNat 6 d) (BitVec.ofNat 3 b)) else none
    | 3 => if d = 0 ∧ a = 0 ∧ b = 0 then some (.solder g) else none
    | 4 => if d = 0 ∧ a = 0 ∧ b = 0 then some (.vsync g) else none
    | 5 => if a = 0 then some (.vqry g (BitVec.ofNat 6 d) (BitVec.ofNat 6 b)) else none
    | _ => none
  | _ => none

def parseSystem (w : Nat) (g : Guard) (fn d a b : Nat) (x : Word) : Option Instr :=
  match majorOf w with
  | 0x7C => match fn with
    | 0 => if d = 0 ∧ a = 0 then some (.trap g (BitVec.ofNat 6 b)) else none
    | 1 => if d = 0 ∧ a = 0 ∧ b = 0 then some (.eret g) else none
    | 2 => if d = 0 ∧ b = 0 then some (.yield g (BitVec.ofNat 6 a)) else none
    | 3 => if d = 0 ∧ a = 0 then some (.dbrk g (BitVec.ofNat 6 b)) else none
    | 4 => if d = 0 ∧ b = 0 then some (.sleep g (srcOf a x)) else none
    | 5 => if d = 0 ∧ a = 0 then some (.scall g (BitVec.ofNat 6 b)) else none
    | 6 => if d = 0 ∧ a = 0 ∧ b = 0 then some (.sret g) else none
    | _ => none
  | 0x7D => match fn with
    | 0 => if a = 0 then some (.mfs g (BitVec.ofNat 6 d) (BitVec.ofNat 6 b)) else none
    | 1 => if d = 0 then some (.mts g (srcOf a x) (BitVec.ofNat 6 b)) else none
    | 2 => if d = 0 ∧ b < 2 then some (.tlbi g (BitVec.ofNat 6 a) (BitVec.ofNat 1 b)) else none
    | 3 => if b < 4 then some (.ctxsw g (BitVec.ofNat 6 d) (srcOf a x) (BitVec.ofNat 2 b)) else none
    | _ => none
  | 0x7E => match fn with
    | 0 => if d = 0 ∧ a = 0 ∧ b = 0 then some (.commit g) else none
    | 1 => if a = 0 ∧ b < 4 then some (.sigq g (BitVec.ofNat 6 d) (BitVec.ofNat 2 b)) else none
    | 2 => if b < 8 then some (.errq g (BitVec.ofNat 6 d) (srcOf a x) (BitVec.ofNat 3 b)) else none
    | 3 => if d = 0 ∧ b = 0 then some (.errclr g (srcOf a x)) else none
    | 4 => if d = 0 ∧ b < 8 then some (.errinj g (BitVec.ofNat 6 a) (BitVec.ofNat 3 b)) else none
    | 5 => if d < 8 ∧ a = 0 ∧ b = 0 then some (.mirf g (BitVec.ofNat 3 d)) else none
    | _ => none
  | 0x7F => match fn with
    | 0 => if b < 16 then some (.hmq g (BitVec.ofNat 6 d) (srcOf a x) (BitVec.ofNat 4 b)) else none
    | 1 => if b < 2 then some (.asgn g (BitVec.ofNat 6 d) (srcOf a x) (BitVec.ofNat 1 b)) else none
    | 2 => if d = 0 ∧ b = 0 then some (.keyi g (BitVec.ofNat 6 a)) else none
    | 3 => if d < 8 ∧ b < 2 then some (.keyroll g (BitVec.ofNat 3 d) (srcOf a x) (BitVec.ofNat 1 b)) else none
    | 4 => if d = 0 ∧ b < 2 then some (.quar g (srcOf a x) (BitVec.ofNat 1 b)) else none
    | 5 => if b = 0 then some (.dieq g (BitVec.ofNat 6 d) (srcOf a x)) else none
    | _ => none
  | _ => none

/-- The instruction of the word `w` with extension word `x`, by class (R34, R35). -/
def parse (w : Nat) (x : Word) : Option Instr :=
  let g : Guard := ⟨decide (w / 2^31 % 2 = 1), BitVec.ofNat 3 (w / 2^21 % 8)⟩
  let fn := w / 2^18 % 8
  let d := w / 2^12 % 64
  let a := w / 64 % 64
  let b := w % 64
  let m := majorOf w
  if m < 0x10 then parseControl w g fn d a b x
  else if m < 0x20 then parseInteger w g fn d a b x
  else if m < 0x30 then parseFloat w g fn d a b x
  else if m < 0x38 then parseConvert w g fn d a b x
  else if m < 0x48 then parseMem w g fn d a b x
  else if m < 0x58 then parseSync w g fn d a b x
  else if m < 0x64 then parseCopy w g fn d a b x
  else if m < 0x78 then parseMatrix w g fn d a b x
  else if m < 0x7C then parseTask w g fn d a b x
  else if m < 0x80 then parseSystem w g fn d a b x
  else none

def srcExt : Src → Option Word
  | .imm x => some x
  | .reg _ => none

def offExt : Off → Option Word
  | .ext x => some x
  | .scaled _ => none

/-- The extension word an instruction carries, if any (R33). -/
def extOf : Instr → Option Word
  | .brx _ a => srcExt a
  | .shflIdx _ _ a b => srcExt a <|> srcExt b
  | .shflUp _ _ a b => srcExt a <|> srcExt b
  | .shflDown _ _ a b => srcExt a <|> srcExt b
  | .shflXor _ _ a b => srcExt a <|> srcExt b
  | .shape _ _ a _ => srcExt a
  | .tagq _ _ a => srcExt a
  | .movx _ _ a => srcExt a
  | .movxw _ a b => srcExt a <|> srcExt b
  | .movi _ _ x => some x
  | .movh _ _ x => some x
  | .add _ _ a b => srcExt a <|> srcExt b
  | .addc _ _ a b => srcExt a <|> srcExt b
  | .sub _ _ a b => srcExt a <|> srcExt b
  | .subb _ _ a b => srcExt a <|> srcExt b
  | .neg _ _ a => srcExt a
  | .abs _ _ a => srcExt a
  | .mul _ _ a b => srcExt a <|> srcExt b
  | .mulhI _ _ a b => srcExt a <|> srcExt b
  | .mulhN _ _ a b => srcExt a <|> srcExt b
  | .mad _ _ a b => srcExt a <|> srcExt b
  | .madwI _ _ a b => srcExt a <|> srcExt b
  | .madwN _ _ a b => srcExt a <|> srcExt b
  | .minI _ _ a b => srcExt a <|> srcExt b
  | .minN _ _ a b => srcExt a <|> srcExt b
  | .maxI _ _ a b => srcExt a <|> srcExt b
  | .maxN _ _ a b => srcExt a <|> srcExt b
  | .and _ _ a b => srcExt a <|> srcExt b
  | .or _ _ a b => srcExt a <|> srcExt b
  | .xor _ _ a b => srcExt a <|> srcExt b
  | .not _ _ a => srcExt a
  | .shl _ _ a b => srcExt a <|> srcExt b
  | .shr _ _ a b => srcExt a <|> srcExt b
  | .sar _ _ a b => srcExt a <|> srcExt b
  | .rot _ _ a b => srcExt a <|> srcExt b
  | .bfxI _ _ a b => srcExt a <|> srcExt b
  | .bfxN _ _ a b => srcExt a <|> srcExt b
  | .bfi _ _ _ _ x => some x
  | .popc _ _ a => srcExt a
  | .clz _ _ a => srcExt a
  | .brev _ _ a => srcExt a
  | .sel _ _ _ a b => srcExt a <|> srcExt b
  | .icmp _ _ _ a b => srcExt a <|> srcExt b
  | .plop _ _ _ _ x => some x
  | .adda _ _ _ b => srcExt b
  | .lea _ _ b => srcExt b
  | .fadd _ _ _ a b => srcExt a <|> srcExt b
  | .fsub _ _ _ a b => srcExt a <|> srcExt b
  | .fmul _ _ _ a b => srcExt a <|> srcExt b
  | .ffma _ _ _ a b => srcExt a <|> srcExt b
  | .fmin _ _ _ a b => srcExt a <|> srcExt b
  | .fmax _ _ _ a b => srcExt a <|> srcExt b
  | .fcmp _ _ _ a b => srcExt a <|> srcExt b
  | .fclass _ _ _ a => srcExt a
  | .fsqrt _ _ _ a => srcExt a
  | .fdiv _ _ _ a b => srcExt a <|> srcExt b
  | .frcp _ _ _ a => srcExt a
  | .frsq _ _ _ a => srcExt a
  | .fex2 _ _ _ a => srcExt a
  | .flg2 _ _ _ a => srcExt a
  | .fsin _ _ _ a => srcExt a
  | .fcos _ _ _ a => srcExt a
  | .cvt _ _ _ a _ => srcExt a
  | .cvtr _ _ _ a _ => srcExt a
  | .bpack _ _ _ a b => srcExt a <|> srcExt b
  | .bunpack _ _ _ a b => srcExt a <|> srcExt b
  | .bscaleRead _ _ a _ => srcExt a
  | .bscaleWrite _ _ a _ => srcExt a
  | .fmtq _ _ a => srcExt a
  | .fpack2 _ _ a b => srcExt a <|> srcExt b
  | .funpk2 _ _ a b => srcExt a <|> srcExt b
  | .ld _ _ _ _ off => offExt off
  | .st _ _ _ _ off => offExt off
  | .ldu _ _ _ _ off => offExt off
  | .ldl _ _ _ _ off => offExt off
  | .stl _ _ _ _ off => offExt off
  | .pref _ _ _ off => offExt off
  | .tld _ _ _ _ _ x => some x
  | .tst _ _ _ _ _ x => some x
  | .ldtr _ _ _ _ x => some x
  | .cctl _ _ _ off => offExt off
  | .fence _ _ x => some x
  | .barx _ a _ => srcExt a
  | .arrive _ _ _ a _ => srcExt a
  | .awaitb _ a _ => srcExt a
  | .waitv _ _ _ _ off => offExt off
  | .lda _ _ _ _ off => offExt off
  | .strl _ _ _ _ off => offExt off
  | .atom _ _ _ _ _ x => some x
  | .atomc _ _ _ _ _ x => some x
  | .red _ _ _ x => some x
  | .tabort _ b => srcExt b
  | .hsum _ _ _ a => srcExt a
  | .wload _ _ a _ => srcExt a
  | .wbmap _ _ a _ => srcExt a
  | .wscale _ _ a _ => srcExt a
  | .cralloc _ _ a _ => srcExt a
  | .crfree _ a _ => srcExt a
  | .crzero _ a _ => srcExt a
  | .crrd _ _ _ a _ => srcExt a
  | .lease _ a _ => srcExt a
  | .crwr _ _ a _ => srcExt a
  | .lwait _ _ a => srcExt a
  | .migrate _ _ a => srcExt a
  | .tdone _ a _ => srcExt a
  | .sleep _ a => srcExt a
  | .mts _ a _ => srcExt a
  | .ctxsw _ _ a _ => srcExt a
  | .errq _ _ a _ => srcExt a
  | .errclr _ a => srcExt a
  | .hmq _ _ a _ => srcExt a
  | .asgn _ _ a _ => srcExt a
  | .keyroll _ _ a _ => srcExt a
  | .quar _ a _ => srcExt a
  | .dieq _ _ a => srcExt a
  | _ => none

def srcBits : Src → Nat
  | .reg c => c.toNat
  | .imm _ => 63

def offBits : Off → Nat
  | .scaled o => o.toNat
  | .ext _ => 63

/-- Bits 31:21 of a word (R32). -/
def headBits (g : Guard) (op : Nat) : Nat :=
  (if g.sw then 2^31 else 0) + op * 2^24 + g.pd.toNat * 2^21

/-- A word of format A, M or E (R32). -/
def wordA (g : Guard) (op fn d a b : Nat) : Nat := headBits g op + fn * 2^18 + d * 2^12 + a * 64 + b

/-- A word of format C (R32). -/
def wordC (g : Guard) (op : Nat) (o : BitVec 21) : Nat := headBits g op + o.toNat

/-- The first word of an instruction; an event has none. -/
def encodeWord : Instr → Nat
  | .nop g => wordA g 0x00 0 0 0 0
  | .bra g o => wordC g 0x01 o
  | .brp g o => wordC g 0x02 o
  | .brn g o => wordC g 0x03 o
  | .brx g a => wordA g 0x04 0 0 (srcBits a) 0
  | .jmp g a => wordA g 0x05 0 0 a.toNat 0
  | .callr g d a => wordA g 0x05 1 d.toNat a.toNat 0
  | .ret g => wordA g 0x05 2 0 0 0
  | .call g o => wordC g 0x06 o
  | .meet g o => wordC g 0x07 o
  | .unmeet g => wordA g 0x08 0 0 0 0
  | .exit g => wordA g 0x08 1 0 0 0
  | .voteAny g d a inv => wordA g 0x09 0 d.toNat a.toNat inv.toNat
  | .voteAll g d a inv => wordA g 0x09 1 d.toNat a.toNat inv.toNat
  | .voteBallot g d a inv => wordA g 0x09 2 d.toNat a.toNat inv.toNat
  | .shflIdx g d a b => wordA g 0x0A 0 d.toNat (srcBits a) (srcBits b)
  | .shflUp g d a b => wordA g 0x0A 1 d.toNat (srcBits a) (srcBits b)
  | .shflDown g d a b => wordA g 0x0A 2 d.toNat (srcBits a) (srcBits b)
  | .shflXor g d a b => wordA g 0x0A 3 d.toNat (srcBits a) (srcBits b)
  | .shape g d a t => wordA g 0x0B 0 d.toNat (srcBits a) t.toNat
  | .tagq g d a => wordA g 0x0B 1 d.toNat (srcBits a) 0
  | .movx g d a => wordA g 0x0B 2 d.toNat (srcBits a) 0
  | .movxw g a b => wordA g 0x0B 3 0 (srcBits a) (srcBits b)
  | .mov g d a => wordA g 0x10 0 d.toNat a.toNat 0
  | .movi g d _ => wordA g 0x10 1 d.toNat 0 0
  | .movh g d _ => wordA g 0x10 2 d.toNat 0 0
  | .add g d a b => wordA g 0x11 0 d.toNat (srcBits a) (srcBits b)
  | .addc g d a b => wordA g 0x11 1 d.toNat (srcBits a) (srcBits b)
  | .sub g d a b => wordA g 0x11 2 d.toNat (srcBits a) (srcBits b)
  | .subb g d a b => wordA g 0x11 3 d.toNat (srcBits a) (srcBits b)
  | .neg g d a => wordA g 0x11 4 d.toNat (srcBits a) 0
  | .abs g d a => wordA g 0x11 5 d.toNat (srcBits a) 0
  | .mul g d a b => wordA g 0x12 0 d.toNat (srcBits a) (srcBits b)
  | .mulhI g d a b => wordA g 0x12 1 d.toNat (srcBits a) (srcBits b)
  | .mulhN g d a b => wordA g 0x12 2 d.toNat (srcBits a) (srcBits b)
  | .mad g d a b => wordA g 0x12 3 d.toNat (srcBits a) (srcBits b)
  | .madwI g d a b => wordA g 0x12 4 d.toNat (srcBits a) (srcBits b)
  | .madwN g d a b => wordA g 0x12 5 d.toNat (srcBits a) (srcBits b)
  | .minI g d a b => wordA g 0x13 0 d.toNat (srcBits a) (srcBits b)
  | .minN g d a b => wordA g 0x13 1 d.toNat (srcBits a) (srcBits b)
  | .maxI g d a b => wordA g 0x13 2 d.toNat (srcBits a) (srcBits b)
  | .maxN g d a b => wordA g 0x13 3 d.toNat (srcBits a) (srcBits b)
  | .and g d a b => wordA g 0x14 0 d.toNat (srcBits a) (srcBits b)
  | .or g d a b => wordA g 0x14 1 d.toNat (srcBits a) (srcBits b)
  | .xor g d a b => wordA g 0x14 2 d.toNat (srcBits a) (srcBits b)
  | .not g d a => wordA g 0x14 3 d.toNat (srcBits a) 0
  | .shl g d a b => wordA g 0x15 0 d.toNat (srcBits a) (srcBits b)
  | .shr g d a b => wordA g 0x15 1 d.toNat (srcBits a) (srcBits b)
  | .sar g d a b => wordA g 0x15 2 d.toNat (srcBits a) (srcBits b)
  | .rot g d a b => wordA g 0x15 3 d.toNat (srcBits a) (srcBits b)
  | .bfxI g d a b => wordA g 0x16 0 d.toNat (srcBits a) (srcBits b)
  | .bfxN g d a b => wordA g 0x16 1 d.toNat (srcBits a) (srcBits b)
  | .bfi g d a b _ => wordA g 0x16 2 d.toNat a.toNat b.toNat
  | .popc g d a => wordA g 0x17 0 d.toNat (srcBits a) 0
  | .clz g d a => wordA g 0x17 1 d.toNat (srcBits a) 0
  | .brev g d a => wordA g 0x17 2 d.toNat (srcBits a) 0
  | .sel g q d a b => wordA g 0x18 q.toNat d.toNat (srcBits a) (srcBits b)
  | .icmp g c d a b => wordA g 0x19 c.toNat d.toNat (srcBits a) (srcBits b)
  | .plop g d a b _ => wordA g 0x1A 0 d.toNat a.toNat b.toNat
  | .adda g d a b => wordA g 0x1B 0 d.toNat a.toNat (srcBits b)
  | .lea g d b => wordA g 0x1B 1 d.toNat 0 (srcBits b)
  | .fadd g t d a b => wordA g 0x20 t.toNat d.toNat (srcBits a) (srcBits b)
  | .fsub g t d a b => wordA g 0x21 t.toNat d.toNat (srcBits a) (srcBits b)
  | .fmul g t d a b => wordA g 0x22 t.toNat d.toNat (srcBits a) (srcBits b)
  | .ffma g t d a b => wordA g 0x23 t.toNat d.toNat (srcBits a) (srcBits b)
  | .fmin g t d a b => wordA g 0x24 t.toNat d.toNat (srcBits a) (srcBits b)
  | .fmax g t d a b => wordA g 0x25 t.toNat d.toNat (srcBits a) (srcBits b)
  | .fcmp g t d a b => wordA g 0x26 t.toNat d.toNat (srcBits a) (srcBits b)
  | .fclass g t d a => wordA g 0x27 t.toNat d.toNat (srcBits a) 0
  | .fsqrt g t d a => wordA g 0x28 t.toNat d.toNat (srcBits a) 0
  | .fdiv g t d a b => wordA g 0x29 t.toNat d.toNat (srcBits a) (srcBits b)
  | .frcp g t d a => wordA g 0x2A t.toNat d.toNat (srcBits a) 0
  | .frsq g t d a => wordA g 0x2B t.toNat d.toNat (srcBits a) 0
  | .fex2 g t d a => wordA g 0x2C t.toNat d.toNat (srcBits a) 0
  | .flg2 g t d a => wordA g 0x2D t.toNat d.toNat (srcBits a) 0
  | .fsin g t d a => wordA g 0x2E t.toNat d.toNat (srcBits a) 0
  | .fcos g t d a => wordA g 0x2F t.toNat d.toNat (srcBits a) 0
  | .cvt g f d a i => wordA g 0x30 f.toNat d.toNat (srcBits a) i.toNat
  | .cvtr g f d a i => wordA g 0x31 f.toNat d.toNat (srcBits a) i.toNat
  | .bpack g f d a b => wordA g 0x32 f.toNat d.toNat (srcBits a) (srcBits b)
  | .bunpack g f d a b => wordA g 0x33 f.toNat d.toNat (srcBits a) (srcBits b)
  | .bscaleRead g d a k => wordA g 0x34 0 d.toNat (srcBits a) k.toNat
  | .bscaleWrite g d a k => wordA g 0x34 1 d.toNat (srcBits a) k.toNat
  | .fmtq g d a => wordA g 0x35 0 d.toNat (srcBits a) 0
  | .fmtqSlot g d k => wordA g 0x35 1 d.toNat 0 k.toNat
  | .fmtqElem g d k => wordA g 0x35 2 d.toNat 0 k.toNat
  | .fpack2 g d a b => wordA g 0x36 0 d.toNat (srcBits a) (srcBits b)
  | .funpk2 g d a b => wordA g 0x36 1 d.toNat (srcBits a) (srcBits b)
  | .ld g w d a off => wordA g 0x38 w.toNat d.toNat a.toNat (offBits off)
  | .st g w d a off => wordA g 0x39 w.toNat d.toNat a.toNat (offBits off)
  | .ldu g w d a off => wordA g 0x3A w.toNat d.toNat a.toNat (offBits off)
  | .ldl g w d a off => wordA g 0x3B w.toNat d.toNat a.toNat (offBits off)
  | .stl g w d a off => wordA g 0x3C w.toNat d.toNat a.toNat (offBits off)
  | .pref g f a off => wordA g 0x3D f.toNat 0 a.toNat (offBits off)
  | .tdef g e a k => wordA g 0x3E e.toNat 0 a.toNat k.toNat
  | .tfree g k => wordA g 0x3F 0 0 0 k.toNat
  | .tqry g f d k => wordA g 0x40 f.toNat d.toNat 0 k.toNat
  | .tld g f d a b _ => wordA g 0x41 f.toNat d.toNat a.toNat b.toNat
  | .tst g f d a b _ => wordA g 0x42 f.toNat d.toNat a.toNat b.toNat
  | .ldtr g d a b _ => wordA g 0x43 0 d.toNat a.toNat b.toNat
  | .lserrq g f d => wordA g 0x44 f.toNat d.toNat 0 0
  | .cctl g f a off => wordA g 0x45 f.toNat 0 a.toNat (offBits off)
  | .fence g k _ => wordA g 0x48 0 0 63 k.toNat
  | .bar g k => wordA g 0x49 0 0 0 k.toNat
  | .barx g a k => wordA g 0x4A 0 0 (srcBits a) k.toNat
  | .gsync g => wordA g 0x4B 0 0 0 0
  | .arrive g f d a k => wordA g 0x4C f.toNat d.toNat (srcBits a) k.toNat
  | .awaitb g a k => wordA g 0x4D 0 0 (srcBits a) k.toNat
  | .waitv g c d a off => wordA g 0x4E c.toNat d.toNat a.toNat (offBits off)
  | .lda g c d a off => wordA g 0x4F c.toNat d.toNat a.toNat (offBits off)
  | .strl g c d a off => wordA g 0x50 c.toNat d.toNat a.toNat (offBits off)
  | .atom g f d a b _ => wordA g 0x51 f.toNat d.toNat a.toNat b.toNat
  | .atomc g f d a b _ => wordA g 0x52 f.toNat d.toNat a.toNat b.toNat
  | .red g a b _ => wordA g 0x53 0 0 a.toNat b.toNat
  | .tbegin g o => wordC g 0x54 o
  | .tend g => wordA g 0x55 0 0 0 0
  | .tabort g b => wordA g 0x56 0 0 0 (srcBits b)
  | .tstat g d => wordA g 0x57 0 d.toNat 0 0
  | .cpy g a => wordA g 0x58 0 0 a.toNat 0
  | .cpyg g a => wordA g 0x59 0 0 a.toNat 0
  | .cpys g a => wordA g 0x5A 0 0 a.toNat 0
  | .cpyx g a => wordA g 0x5B 0 0 a.toNat 0
  | .cqbind g k => wordA g 0x5C 0 0 0 k.toNat
  | .cqstat g f d k => wordA g 0x5D f.toNat d.toNat 0 k.toNat
  | .cqdrain g k => wordA g 0x5E 0 0 0 k.toNat
  | .hlut g a => wordA g 0x5F 0 0 a.toNat 0
  | .hlutw g a => wordA g 0x60 0 0 a.toNat 0
  | .hsum g f d a => wordA g 0x61 f.toNat d.toNat (srcBits a) 0
  | .slabm g f k => wordA g 0x64 f.toNat 0 0 k.toNat
  | .wload g f a k => wordA g 0x65 f.toNat 0 (srcBits a) k.toNat
  | .wbmap g f a k => wordA g 0x66 f.toNat 0 (srcBits a) k.toNat
  | .wscale g f a k => wordA g 0x67 f.toNat 0 (srcBits a) k.toNat
  | .elect g d => wordA g 0x68 0 d.toNat 0 0
  | .amv g a q => wordA g 0x69 0 0 a.toNat q.toNat
  | .amvb g a q => wordA g 0x6A 0 0 a.toNat q.toNat
  | .await g m => wordA g 0x6B 0 0 0 m.toNat
  | .cralloc g d a k => wordA g 0x6C 0 d.toNat (srcBits a) k.toNat
  | .crfree g a k => wordA g 0x6D 0 0 (srcBits a) k.toNat
  | .crzero g a k => wordA g 0x6E 0 0 (srcBits a) k.toNat
  | .crrd g f d a k => wordA g 0x6F f.toNat d.toNat (srcBits a) k.toNat
  | .lease g a k => wordA g 0x70 0 0 (srcBits a) k.toNat
  | .unlease g k => wordA g 0x71 0 0 0 k.toNat
  | .omap g a k => wordA g 0x72 0 0 a.toNat k.toNat
  | .mma g a => wordA g 0x73 0 0 a.toNat 0
  | .nzscan g a k => wordA g 0x74 0 0 a.toNat k.toNat
  | .mmag g a => wordA g 0x75 0 0 a.toNat 0
  | .epi g a => wordA g 0x76 0 0 a.toNat 0
  | .crwr g d a k => wordA g 0x77 0 d.toNat (srcBits a) k.toNat
  | .launch g d a => wordA g 0x78 0 d.toNat a.toNat 0
  | .lwait g d a => wordA g 0x78 1 d.toNat (srcBits a) 0
  | .migrate g d a => wordA g 0x78 2 d.toNat (srcBits a) 0
  | .qput g d a q => wordA g 0x79 0 d.toNat a.toNat q.toNat
  | .qputw g d a q => wordA g 0x79 1 d.toNat a.toNat q.toNat
  | .qstat g d q => wordA g 0x79 2 d.toNat 0 q.toNat
  | .targ g d k => wordA g 0x79 3 d.toNat 0 k.toNat
  | .tdone g a k => wordA g 0x79 4 0 (srcBits a) k.toNat
  | .stnc g a q => wordA g 0x79 5 0 a.toNat q.toNat
  | .vdecl g t o k => wordA g 0x7A 0 t.toNat o.toNat k.toNat
  | .spawn g d a q => wordA g 0x7A 1 d.toNat a.toNat q.toNat
  | .vtile g t k => wordA g 0x7A 2 t.toNat 0 k.toNat
  | .solder g => wordA g 0x7A 3 0 0 0
  | .vsync g => wordA g 0x7A 4 0 0 0
  | .vqry g d e => wordA g 0x7A 5 d.toNat 0 e.toNat
  | .trap g k => wordA g 0x7C 0 0 0 k.toNat
  | .eret g => wordA g 0x7C 1 0 0 0
  | .yield g a => wordA g 0x7C 2 0 a.toNat 0
  | .dbrk g k => wordA g 0x7C 3 0 0 k.toNat
  | .sleep g a => wordA g 0x7C 4 0 (srcBits a) 0
  | .scall g k => wordA g 0x7C 5 0 0 k.toNat
  | .sret g => wordA g 0x7C 6 0 0 0
  | .mfs g d n => wordA g 0x7D 0 d.toNat 0 n.toNat
  | .mts g a n => wordA g 0x7D 1 0 (srcBits a) n.toNat
  | .tlbi g a k => wordA g 0x7D 2 0 a.toNat k.toNat
  | .ctxsw g d a k => wordA g 0x7D 3 d.toNat (srcBits a) k.toNat
  | .commit g => wordA g 0x7E 0 0 0 0
  | .sigq g d k => wordA g 0x7E 1 d.toNat 0 k.toNat
  | .errq g d a k => wordA g 0x7E 2 d.toNat (srcBits a) k.toNat
  | .errclr g a => wordA g 0x7E 3 0 (srcBits a) 0
  | .errinj g a k => wordA g 0x7E 4 0 a.toNat k.toNat
  | .mirf g d => wordA g 0x7E 5 d.toNat 0 0
  | .hmq g d a k => wordA g 0x7F 0 d.toNat (srcBits a) k.toNat
  | .asgn g d a k => wordA g 0x7F 1 d.toNat (srcBits a) k.toNat
  | .keyi g a => wordA g 0x7F 2 0 a.toNat 0
  | .keyroll g d a k => wordA g 0x7F 3 d.toNat (srcBits a) k.toNat
  | .quar g a k => wordA g 0x7F 4 0 (srcBits a) k.toNat
  | .dieq g d a => wordA g 0x7F 5 d.toNat (srcBits a) 0
  | _ => 0

/-- The words of a well-formed instruction: its word and, where R33 gives it one, its extension word. -/
def encode (i : Instr) : List Word :=
  match extOf i with
  | some x => [BitVec.ofNat 32 (encodeWord i), x]
  | none => [BitVec.ofNat 32 (encodeWord i)]

/-- Where a word of the opcode map may escape to an extension word (R33, R35). -/
inductive ExtRule where
  /-- no field of the word is a source field or off6 -/
  | never
  /-- a row marked +X -/
  | always
  /-- source field a -/
  | a
  /-- source field b, or off6 -/
  | b
  /-- source fields a and b -/
  | ab
  deriving DecidableEq, Repr

/-- Majors of one mnemonic whose fn is 0: another fn names none. -/
def fixedFn (m : Nat) : Bool :=
  [0x04, 0x4A, 0x4D, 0x56, 0x58, 0x59, 0x5A, 0x5B, 0x5F, 0x60, 0x69, 0x6A, 0x6C, 0x6D, 0x6E, 0x70, 0x72, 0x73, 0x74, 0x75, 0x76,
   0x77].contains m

/-- The rule of a row by major, fn and the field `k` where that says whether a is a source. It looks at no other field, so that
a word whose other fields are illegal (R36) has the extension word that R33 gives it. An fn that names no mnemonic of its row
has no fields of its own (log entry 27). -/
def extRule (m fn k : Nat) : ExtRule :=
  if fixedFn m ∧ fn ≠ 0 then .never else
  match m with
  | 0x04 => .a
  | 0x05 => if fn < 2 then .a else .never
  | 0x0A => if fn < 4 then .ab else .never
  | 0x0B => if fn < 3 then .a else if fn = 3 then .ab else .never
  | 0x10 => if fn = 1 ∨ fn = 2 then .always else .never
  | 0x11 => if fn < 4 then .ab else if fn < 6 then .a else .never
  | 0x12 => if fn < 6 then .ab else .never
  | 0x13 => if fn < 4 then .ab else .never
  | 0x14 => if fn < 3 then .ab else if fn = 3 then .a else .never
  | 0x15 => if fn < 4 then .ab else .never
  | 0x16 => if fn < 2 then .ab else if fn = 2 then .always else .never
  | 0x17 => if fn < 3 then .a else .never
  | 0x18 | 0x19 => .ab
  | 0x1A => .always
  | 0x1B => if fn = 0 then .ab else if fn = 1 then .b else .never
  | 0x20 | 0x21 | 0x22 | 0x23 | 0x24 | 0x25 | 0x26 | 0x29 => .ab
  | 0x27 | 0x28 | 0x2A | 0x2B | 0x2C | 0x2D | 0x2E | 0x2F => .a
  | 0x30 | 0x31 => .a
  | 0x32 | 0x33 => .ab
  | 0x34 => if fn < 2 then .a else .never
  | 0x35 => if fn = 0 then .a else .never
  | 0x36 => if fn < 2 then .ab else .never
  | 0x38 | 0x39 | 0x3A | 0x3B | 0x3C | 0x3D | 0x45 | 0x4E | 0x4F | 0x50 => .b
  | 0x41 | 0x42 | 0x43 | 0x51 | 0x52 | 0x53 => .always
  | 0x3E | 0x48 | 0x4A | 0x4D => .a
  | 0x4C => if fn = 1 then .a else .never
  | 0x56 => .b
  | 0x58 | 0x59 | 0x5A | 0x5B | 0x5F | 0x60 | 0x61 => .a
  | 0x6F => if fn = 0 then .a else .never
  | 0x65 | 0x66 | 0x67 | 0x69 | 0x6A | 0x6C | 0x6D | 0x6E | 0x70 | 0x72 | 0x73 | 0x74 | 0x75 | 0x76 | 0x77 => .a
  | 0x78 => if fn < 3 then .a else .never
  | 0x79 => if fn < 2 ∨ (fn = 4 ∧ k % 2 = 1) ∨ fn = 5 then .a else .never
  | 0x7A => if fn = 1 then .a else .never
  | 0x7C => if fn = 2 ∨ fn = 4 then .a else .never
  | 0x7D => if fn = 1 ∨ (fn = 2 ∧ k = 1) ∨ fn = 3 then .a else .never
  | 0x7E => if fn = 2 ∨ fn = 3 ∨ (fn = 4 ∧ k ≠ 2) then .a else .never
  | 0x7F => if fn < 6 then .a else .never
  | _ => .never

/-- Whether the word has an extension word (R33): a source field or off6 holds 63, or its row is +X. -/
def takesExt (w : Nat) : Bool :=
  let a := w / 64 % 64 == 63
  let b := w % 64 == 63
  match extRule (majorOf w) (w / 2^18 % 8) (w % 64) with
  | .never => false
  | .always => true
  | .a => a
  | .b => b
  | .ab => a || b

/-- Decode the instruction at the head of `ws`: the instruction and how many words it holds. -/
def decode (ws : List Word) : Except DecodeError (Instr × Nat) :=
  match ws with
  | [] => .error .short
  | w :: rest =>
    if unassigned (majorOf w.toNat) then .error .unassignedMajor else
    match parse w.toNat (rest.headD 0) with
    | none => .error .illegalField
    | some i =>
      if wellFormed i then
        if (extOf i).isSome then (if rest.isEmpty then .error .short else .ok (i, 2)) else .ok (i, 1)
      else .error .illegalField

/-- What the decoder reads from an instruction whose bits are `w`: word 0 in bits 31:0, the extension word in bits
63:32; bits from `nbits` up are 0. -/
def decodeTableWord (nbits w : Nat) : Option Instr :=
  let v := w % 2^nbits
  match decode [BitVec.ofNat 32 (v % 2^32), BitVec.ofNat 32 (v / 2^32 % 2^32)] with
  | .ok (i, _) => some i
  | .error _ => none

/-- The class an assigned major belongs to (R34). -/
def classOf (m : Nat) : Nat :=
  if m < 0x10 then 4 else if m < 0x38 then 0 else if m < 0x48 then 1 else if m < 0x58 then 5 else if m < 0x64 then 3
  else if m < 0x78 then 2 else if m < 0x7C then 6 else 7

/-- The control transfers (R30): BRA, BRP, BRN, BRX, JMP, CALLR, RET, CALL, EXIT, TRAP, ERET, SCALL, SRET, SOLDER. -/
def isTransfer : Instr → Bool
  | .bra .. | .brp .. | .brn .. | .brx .. | .jmp .. | .callr .. | .ret .. | .call .. | .exit .. | .trap .. | .eret ..
  | .scall .. | .sret .. | .solder .. => true
  | _ => false

/-- Whether a word, by its major and fn alone, is a control transfer: the clause check of R30 looks at the word before
its fields are checked. -/
def transferWord (w : Nat) : Bool :=
  let m := majorOf w
  let fn := w / 2^18 % 8
  decide (m = 0x01 ∨ m = 0x02 ∨ m = 0x03 ∨ (m = 0x04 ∧ fn = 0) ∨ (m = 0x05 ∧ fn < 3) ∨ m = 0x06 ∨ (m = 0x08 ∧ fn = 1) ∨
    (m = 0x7A ∧ fn = 3) ∨ (m = 0x7C ∧ (fn = 0 ∨ fn = 1 ∨ fn = 5 ∨ fn = 6)))

end Sys2Proof
end

