-- ==== Sys2Proof/Machine/Ops.lean ====
section
/-! DEFINITION. The named operations over the package's state that the meanings are written with: looking up and
updating workgroups, threads, contexts and launches; the active lanes (R41); register images and writes (R78 to R81);
results in flight and counters (R27 to R29); faults, trap entry and the return (R31, R323, R324, R341); blocking (R72);
error records and interrupts (R361, R362, R384). -/

namespace Sys2Proof.Machine

/-! Lookups and updates. -/

def State.wg? (s : State) (u : Nat) : Option Workgroup := s.wgs.find? (·.uid == u)

def State.updWg (s : State) (u : Nat) (f : Workgroup → Workgroup) : State :=
  { s with wgs := s.wgs.map fun w => if w.uid = u then f w else w }

def State.thread? (s : State) (u t : Nat) : Option Thread := (s.wg? u).bind (·.threads[t]?)

def Workgroup.updThread (w : Workgroup) (t : Nat) (f : Thread → Thread) : Workgroup :=
  { w with threads := w.threads.modify t f }

def State.updThread (s : State) (u t : Nat) (f : Thread → Thread) : State := s.updWg u (·.updThread t f)

def State.updThreads (s : State) (u : Nat) (ts : List Nat) (f : Nat → Thread → Thread) : State :=
  s.updWg u fun w => ts.foldl (fun w t => w.updThread t (f t)) w

def State.ctx (s : State) (n : Nat) : Context := s.contexts.getD n .empty

def State.updCtx (s : State) (n : Nat) (f : Context → Context) : State := { s with contexts := s.contexts.modify n f }

def State.launch? (s : State) (id : Nat) : Option Launch := s.launches.find? (·.id == id)

def State.updLaunch (s : State) (id : Nat) (f : Launch → Launch) : State :=
  { s with launches := s.launches.map fun l => if l.id = id then f l else l }

def State.bundle? (s : State) (id : Nat) : Option Bundle := s.bundles.find? (·.id == id)

def State.updBundle (s : State) (id : Nat) (f : Bundle → Bundle) : State :=
  { s with bundles := s.bundles.map fun b => if b.id = id then f b else b }

def State.updDie (s : State) (d : Nat) (f : Die → Die) : State := { s with dies := s.dies.modify d f }

/-- The launch record of a workgroup; an all-zero record where the launch is gone. -/
def LaunchRec.zero : LaunchRec :=
  ⟨[], 0, 0, 8, 0, 0, 0, 0, 1, 1, 1, 32, 0, 0, 0, 0, 0, 1, 1, 0, [], 0, 0, 0⟩

def State.lrOf (s : State) (w : Workgroup) : LaunchRec := ((s.launch? w.launch).map (·.lr)).getD .zero

/-- A fresh number for a new object, and the state that has used it. -/
def State.bump (s : State) : State := { s with nextId := s.nextId + 1 }

/-- The next free value: the counter advances (log entry 4). -/
def State.tickFree (s : State) : State := { s with fresh := s.fresh + 1 }

/-! Cores and dies (R11). -/

def coreX (core : Nat) : Nat := core % 32
def coreY (core : Nat) : Nat := core / 32
def dieOf (core : Nat) : Nat := 8 * (coreY core / 4) + coreX core / 4

/-- Launch flags (R261): COOP 0, REDUN 1, SCREEN 2, CONTAIN 3, SECURE 4, YIELD 5. -/
def LaunchRec.coop (r : LaunchRec) : Bool := r.flags.testBit 0
def LaunchRec.redun (r : LaunchRec) : Bool := r.flags.testBit 1
def LaunchRec.screen (r : LaunchRec) : Bool := r.flags.testBit 2
def LaunchRec.contain (r : LaunchRec) : Bool := r.flags.testBit 3
def LaunchRec.secure (r : LaunchRec) : Bool := r.flags.testBit 4
def LaunchRec.yields (r : LaunchRec) : Bool := r.flags.testBit 5

/-! Lanes of the issuing bundle (R41). A thread is named by its TIDX: home wave `t / 32`, home lane `t % 32` (R69). -/

def hwOf (t : Nat) : Nat := t / 32
def laneOf (t : Nat) : Nat := t % 32

/-- The home waves that hold a thread of the list. -/
def wavesOf : List Nat → List Nat
  | [] => []
  | t :: r => let ws := wavesOf r; if ws.contains (t / 32) then ws else (t / 32) :: ws

/-- The elected thread: the lowest active home lane of the lowest home wave (R41). -/
def elect (ts : List Nat) : Nat := (minOf ts).getD 0

/-- Threads in ascending order of home lane (R41): a bundle holds one of each at most. -/
def byLane (ts : List Nat) : List Nat := (List.range 32).flatMap fun l => ts.filter fun t => t % 32 == l

def Thread.pred (th : Thread) (p : Nat) : Bool := p == 0 || th.preds.getLsbD p

/-- A predicate as an instruction reads it: one with an outstanding write reads old or new (R29). -/
def State.predOf (s : State) (u t p : Nat) : Bool :=
  if p = 0 then true else
  let old := ((s.thread? u t).map (·.pred p)).getD false
  s.pend.foldl (fun v q =>
    if q.wg = u then
      match q.preds.find? fun e => e.1 == t && e.2.1 == p with
      | some e => if Config.seesNew s.fresh t (128 * q.id + 64 + p) then e.2.2 else v
      | none => v
    else v) old

/-- The active threads of the issuing bundle: those whose guard is true (R41). -/
def active (s : State) (c : Issue) (g : Guard) : List Nat := c.tids.filter fun t => s.predOf c.wg t g.pd.toNat

/-! Register images (R79, R80). -/

def RegImg.lane (i : RegImg) (j : Nat) : Word :=
  match i with
  | .u x => x
  | .a base stride => base + BitVec.ofNat 32 j * stride
  | .g ws => ws.getD j 0

/-- The 32 lanes of an image. -/
def RegImg.expand (i : RegImg) : List Word := (List.range 32).map i.lane

def RegImg.tag : RegImg → Nat
  | .u _ => 0
  | .a _ _ => 1
  | .g _ => 2

def Workgroup.img (w : Workgroup) (hw r : Nat) : RegImg := (w.waves.getD hw []).getD r (.u 0)

def State.img (s : State) (u hw r : Nat) : RegImg := ((s.wg? u).map (·.img hw r)).getD (.u 0)

/-- The value an outstanding result would give a lane of a register. -/
def Pend.laneWrite (p : Pend) (u hw r j : Nat) : Option Word :=
  if p.wg = u then (p.regs.find? fun w => w.hw == hw && w.reg == r).bind fun w => w.lanes.lookup j else none

def Pend.writesReg (p : Pend) (u hw r : Nat) : Bool := p.wg == u && p.regs.any fun w => w.hw == hw && w.reg == r

/-- The lanes of a write put into a register of a home wave; the tag follows R80. -/
def RegWrite.apply (rw : RegWrite) (old : RegImg) : RegImg :=
  if rw.lanes.length = 32 then rw.img.getD (.g (rw.lanes.map (·.2)))
  else .g (rw.lanes.foldl (fun ws l => ws.set l.1 l.2) old.expand)

/-- An outstanding result's write to a register of a home wave, done whole: value and tag change at once (R79). A value that is
sampled only when it lands is not known yet. -/
def Pend.imgWrite (p : Pend) (fresh hw r : Nat) (i : RegImg) : RegImg :=
  match p.regs.find? fun w => w.hw == hw && w.reg == r with
  | none => i
  | some w =>
    let late := fun j => Config.lateNew fresh (32 * hw + j) (128 * p.id + r)
    (if p.late.isSome then { w with lanes := w.lanes.map fun l => (l.1, late l.1), img := w.img.map fun _ => .u (late 0) } else w).apply i

/-- A register of a home wave with each outstanding write to it done whole or not at all (R79, R91). -/
def State.wholeImg (s : State) (u hw r : Nat) : RegImg :=
  (s.pend.filter (·.writesReg u hw r)).foldl (fun i p =>
    if Config.seesNew s.fresh (32 * hw) (128 * p.id + r) then p.imgWrite s.fresh hw r i else i) (s.img u hw r)

/-- A register of a home wave as an instruction reads it at issue. While a write to it is outstanding, the read finds the old value
or the new one, a choice that may differ from lane to lane (R29). A result of an atomic, HSUM, LAUNCH, put or SPAWN that is not
performed yet is not known, and the read finds the old value: the model's choice (log entry 4). -/
def State.readImg (s : State) (u hw r : Nat) : RegImg :=
  if s.pend.any (·.writesReg u hw r) && Config.mixesLanes s.fresh hw r then
    .g ((List.range 32).map fun j => s.pend.foldl (fun v p =>
      match p.laneWrite u hw r j with
      | some x => if Config.seesNew s.fresh (32 * hw + j) (128 * p.id + r) then
          (if p.late.isSome then Config.lateNew s.fresh (32 * hw + j) (128 * p.id + r) else x) else v
      | none => v) ((s.img u hw r).lane j))
  else s.wholeImg u hw r

/-- The value a thread reads in a register (R41: src). -/
def State.readReg (s : State) (u t r : Nat) : Word := (s.readImg u (t / 32) r).lane (t % 32)

/-- The value a thread reads in a pair (R41: src64), low word first (R78). -/
def State.readPair (s : State) (u t r : Nat) : Word64 := s.readReg u t (r + 1) ++ s.readReg u t r

/-- A clk that the loads which registers of a thread depend on were performed before; 0 where they depend on none (R160). -/
def State.depOf (s : State) (u t : Nat) (rs : List Nat) : Nat :=
  ((s.thread? u t).map fun th => (rs.map fun r => (th.deps.lookup r).getD 0).foldl max 0).getD 0

def Thread.setDep (th : Thread) (r d : Nat) : Thread :=
  { th with deps := (if d = 0 then [] else [(r, d)]) ++ th.deps.filter (·.1 != r) }

/-- A write to one register for the threads `ts`, one entry for each home wave. `img` gives the image for a home wave all
of whose 32 lanes are written; none means the lanes' own words, tag G (R80). -/
def regWrites (ts : List Nat) (reg : Nat) (val : Nat → Word) (img : Nat → Option RegImg) : List RegWrite :=
  (wavesOf ts).map fun hw =>
    let l := ts.filter fun t => t / 32 == hw
    { hw := hw, reg := reg, img := if l.length = 32 then img hw else none, lanes := l.map fun t => (t % 32, val t) }

def noImg : Nat → Option RegImg := fun _ => none

/-- Tag U for a home wave that is written whole: the image is the value of its lane 0. -/
def uImg (val : Nat → Word) : Nat → Option RegImg := fun hw => some (.u (val (32 * hw)))

/-- A write to a pair (R41: wr64). -/
def pairWrites (ts : List Nat) (reg : Nat) (val : Nat → Word64) (img : Nat → Option (RegImg × RegImg)) : List RegWrite :=
  regWrites ts reg (fun t => (val t).setWidth 32) (fun hw => (img hw).map (·.1)) ++
  regWrites ts (reg + 1) (fun t => (val t >>> 32).setWidth 32) (fun hw => (img hw).map (·.2))

def noImg2 : Nat → Option (RegImg × RegImg) := fun _ => none

def uImg2 (val : Nat → Word64) : Nat → Option (RegImg × RegImg) :=
  fun hw => some (.u ((val (32 * hw)).setWidth 32), .u ((val (32 * hw) >>> 32).setWidth 32))

def Workgroup.applyWrite (w : Workgroup) (rw : RegWrite) : Workgroup :=
  { w with waves := w.waves.modify rw.hw fun regs => regs.modify rw.reg rw.apply }

/-! Results in flight (R27 to R29). -/

def Pend.none_ (u : Nat) (ts : List Nat) : Pend :=
  { id := 0, seq := 0, due := 0, wg := u, tids := ts, ctr := none, load := false, regs := [], preds := [], flags := [], sys := [],
    poison := [], late := none, makes := [], deps := none }

/-- A result put in flight, landing `lat` clk from now. -/
def State.addPend (s : State) (lat : Nat) (p : Pend) : State :=
  { s with pend := s.pend ++ [{ p with id := s.nextId, seq := if p.seq = 0 then s.nextId else p.seq, due := s.clk + lat }], nextId := s.nextId + 1 }

def Counters.get (k : Counters) : Ctr → Nat
  | .l => k.l | .s => k.s | .c => k.c | .m => k.m | .a => k.a | .v => k.v

def Counters.put (k : Counters) (i : Ctr) (n : Nat) : Counters :=
  match i with
  | .l => { k with l := n } | .s => { k with s := n } | .c => { k with c := n }
  | .m => { k with m := n } | .a => { k with a := n } | .v => { k with v := n }

/-- count_up (R41, R28). -/
def State.countUp (s : State) (u : Nat) (ts : List Nat) (k : Ctr) : State :=
  s.updThreads u ts fun _ th => { th with ctr := th.ctr.put k (th.ctr.get k + 1) }

/-- Whether an instruction of a counter that is older than number `seq`, of the same task, is not over in a thread. -/
def State.older (s : State) (u t : Nat) (k : Ctr) (seq : Nat) : Bool :=
  let born := ((s.thread? u t).map (·.born)).getD 0
  (s.pend.any fun p => p.wg == u && p.ctr == some k && decide (born ≤ p.seq ∧ p.seq < seq) && p.tids.contains t) ||
  match k with
  | .l => s.atoms.any fun a => a.wg == u && a.tidx == t && a.result.isSome && decide (born ≤ a.id ∧ a.id < seq)
  | .a => s.atoms.any fun a => a.wg == u && a.tidx == t && a.result.isNone && decide (born ≤ a.id ∧ a.id < seq)
  | .c => s.cmds.any fun q => q.wg == u && decide (born ≤ q.id ∧ q.id < seq) && q.tids.contains t && (q.kind == .hsum || !q.accepted)
  | .m => s.ops.any fun o => o.wg == u && decide (born ≤ o.id ∧ o.id < seq) && o.tids.contains t
  | .v => (s.puts.any fun q => q.wg == u && q.tidx == t && !q.host && decide (born ≤ q.id ∧ q.id < seq)) ||
      s.launchReqs.any fun q => q.wg == u && q.tidx == t && !q.host && decide (born ≤ q.id ∧ q.id < seq)
  | .s => false

/-- A counter falls for every instruction of it that is over and has no older one outstanding (R28). -/
def State.settleFell (s : State) (u t : Nat) (k : Ctr) : State :=
  s.updThread u t fun th =>
    let past := th.fell.filter fun x => x.1 == k && !s.older u t k x.2
    { th with fell := th.fell.filter (!past.contains ·), ctr := th.ctr.put k (th.ctr.get k - past.length) }

/-- An instruction, by its number, is over in each of the threads: its counter falls in issue order. One of a slot's earlier task
is counted no more (R283). -/
def State.countDown (s : State) (u : Nat) (ts : List Nat) (k : Ctr) (seq : Nat) : State :=
  ts.foldl (fun s t => (s.updThread u t fun th =>
    if seq < th.born then th else { th with fell := th.fell ++ [(k, seq)] }).settleFell u t k) s

/-- A thread that no longer waits in CQDRAIN gives up its count of C. -/
def Thread.endDrain (th : Thread) : Thread :=
  match th.st with
  | .blocked (.cqdrain ..) => { th with ctr := th.ctr.put .c (th.ctr.c - 1) }
  | _ => th

/-- Whether a thread of the list has its counter at 63: the instruction does not issue (R28). -/
def State.counterFull (s : State) (u : Nat) (ts : List Nat) (k : Ctr) : Bool :=
  ts.any fun t => ((s.thread? u t).map fun th => decide (63 ≤ th.ctr.get k)).getD false

/-- A save of an HSUM's context cannot bring it to the head of its queue: the queue is halted, or a command before it waits for what the
save has put away or keeps pending. It stays a command of the queue, whose result lands after the resume (log entry 61). -/
def State.hsumStuck (s : State) (q : Cmd) : Bool :=
  let n := s.ctx q.ctx
  n.state == .saving && (!(((n.cqs[q.queue]?).map fun x => x.enabled && x.err == 0).getD false) ||
    s.cmds.any fun c => c.ctx == q.ctx && c.queue == q.queue && decide (c.id < q.id) &&
      (n.saved.any (fun w => w.uid == c.wg || w.uid == c.rwg) ||
        (c.kind == .wload && !c.started && match (s.wg? c.wg).bind fun w => w.slabQ.find? (·.1 == c.arg.1) with
          | some (_, SlabAct.anvil k) => s.ops.any fun o => o.id == k && match o.st with
            | .running _ => false
            | _ => true
          | some (_, SlabAct.wload k) => k != c.id
          | _ => false)))

/-- The HSUMs whose results are to come (R213, R328). -/
def State.hsums (s : State) : List Cmd := s.cmds.filter fun q => q.kind == .hsum && !s.hsumStuck q

/-- Whether a thread has a register or predicate write outstanding, of any class (R29, R323). -/
def State.outstanding (s : State) (u t : Nat) : Bool :=
  (s.pend.any fun p => p.wg == u && p.tids.contains t) ||
  (s.atoms.any fun a => a.wg == u && a.tidx == t && a.result.isSome) ||
  (s.hsums.any fun q => q.wg == u && q.tidx == t) ||
  (s.puts.any fun q => q.wg == u && q.tidx == t && !q.host && q.till.isNone) ||
  (s.launchReqs.any fun q => q.wg == u && q.tidx == t && !q.host)

/-- Whether a fixed-latency or other uncounted result of a thread is outstanding (R27). -/
def State.uncounted (s : State) (u t : Nat) : Bool :=
  s.pend.any fun p => p.wg == u && p.tids.contains t && p.ctr.isNone

/-! Interrupts and error records. -/

/-- Vector `v` pends (R384). -/
def State.irq (s : State) (v : Nat) : State := { s with irqstat := setBit s.irqstat v true }

def ErrInfo.word0 (e : ErrInfo) (syn : BitVec 16) : Nat :=
  2^63 + (if e.ue then 2^62 else 0) + (if e.cont then 2^61 else 0) + (if e.inj then 2^60 else 0) + e.unit * 2^48 +
    e.core * 2^38 + (match e.ctx with | some n => 2^37 + n * 2^31 | none => 0) + e.fault * 2^16 + syn.toNat

/-- Of the errors of one clk the one with the lower unit code, then address, is taken first (R362). -/
def Bank.after (b : Bank) (e : ErrInfo) (clk : Nat) : Bool :=
  let u := (b.w0.extractLsb' 48 8).toNat
  b.w2.toNat == clk % 2^64 && decide (e.unit < u ∨ e.unit = u ∧ e.w1 % 2^52 < b.w1.toNat % 2^52)

/-- The survival rule (R362). -/
def Bank.record (b : Bank) (w0 : Nat) (e : ErrInfo) (clk : Nat) : Bank × Bool :=
  let put (b : Bank) : Bank :=
    { b with w0 := BitVec.ofNat 64 w0, w1 := BitVec.ofNat 64 e.w1, w2 := BitVec.ofNat 64 clk, w3 := BitVec.ofNat 64 e.w3 }
  if e.ue then
    if b.w0.getLsbD 63 && b.w0.getLsbD 62 then ({ (if b.after e clk then put b else b) with overflow := min (b.overflow + 1) (2^32 - 1) }, false)
    else (put b, true)
  else
    let b := { b with corrected := min (b.corrected + 1) (2^32 - 1) }
    if b.w0.getLsbD 63 && (b.w0.getLsbD 62 || !b.after e clk) then (b, false) else (put b, false)

/-- An error recorded in a bank; a new uncorrectable record raises vector 1 (R362, R384). -/
def State.recordErr (s : State) (bank : Nat) (e : ErrInfo) : State :=
  let s := s.tickFree
  let w0 := e.word0 (Config.syndrome s.fresh)
  let r := (s.banks.getD bank .zero).record w0 e s.clk
  let s := { s with banks := s.banks.set bank r.1, errs := s.errs ++ [⟨bank, w0, e⟩] }
  if r.2 then s.irq 1 else s

/-- A bank cleared (R366): errors that reach it in the same clk come after, and raise their interrupt for a new record (R362). -/
def State.clearBank (s : State) (bank : Nat) : State :=
  let r := (s.errs.filter (·.bank == bank)).foldl (fun (a : Bank × Bool) x =>
    let b := a.1.record x.w0 x.info s.clk
    (b.1, a.2 || b.2)) (.zero, false)
  let s := { s with banks := s.banks.set bank r.1 }
  if r.2 then s.irq 1 else s

/-- Unit 0x0F: the device's own access to a context's structure failed (R398). -/
def State.recordStruct (s : State) (n va : Nat) : State :=
  s.recordErr 64 { ue := true, unit := 0x0F, ctx := some n, w1 := va % 2^48 + 2^61 + 2^63 }

/-! Leaving a bundle, blocking and parking (R72, R397, R28). -/

/-- A bundle without a thread: where none of its threads is left, the first group that waits for a split takes its place. -/
def Bundle.without (b : Bundle) (t : Nat) : Bundle :=
  let rest := (b.rest.map fun g => { g with tids := g.tids.filter (· != t) }).filter (fun g => !g.tids.isEmpty)
  let tids := b.tids.filter (· != t)
  match tids, rest with
  | [], g :: r => { b with tids := g.tids, hdr := g.hdr, words := none, idx := 0, notBefore := g.notBefore, rest := r, crwr := none, tlbi := none }
  | tids, rest => { b with tids := tids, rest := rest }

/-- All threads of a bundle, those that wait for a split among them. -/
def Bundle.members (b : Bundle) : List Nat := b.tids ++ b.rest.flatMap Group.tids

def State.leaveBundle (s : State) (u t : Nat) : State :=
  { s with bundles := (s.bundles.map fun b => if b.wg = u then b.without t else b).filter (fun b => !b.tids.isEmpty) }

def Thread.release (th : Thread) (clk : Nat) : Thread :=
  { th with st := .ready, since := clk, notBefore := clk, wake := none }

/-- The thread at the word it issued last, so that the word issues again. -/
def Thread.rewind (th : Thread) : Thread := { th.endDrain with pc := th.here.pc, mid := some (th.here.hdr, th.here.idx) }

def State.block (s : State) (u t : Nat) (w : Wait) (wake : Option Nat) : State :=
  (s.leaveBundle u t).updThread u t fun th => { th with st := .blocked w, wake := wake }

/-- A thread parks on T at the instruction it is at; it issues that word again when released (R28, R133). -/
def State.park (s : State) (u t : Nat) (p : Park) : State :=
  (s.leaveBundle u t).updThread u t fun th => { th.rewind with st := .parked p }

/-- A thread released from a block or a park is a candidate at the word its pc names (R397). -/
def State.release (s : State) (u t : Nat) : State := s.updThread u t (·.release s.clk)

/-- The word does not issue yet: the bundle stands at it again, its port is free, and it is tried in a later clk. -/
def State.reissue (s : State) (c : Issue) : State :=
  { s with
    cur := none
    ports := s.ports.filter (· != (c.core, c.port))
    bundles := s.bundles.map fun b => if b.id = c.bundle then { b with idx := c.idx, notBefore := s.clk + 1 } else b
    wgs := s.wgs.map fun w => if w.uid = c.wg then
        { w with threads := c.tids.foldl (fun l t => l.modify t fun th =>
            { th with pc := c.addr, mid := some (c.hdr, c.idx) }) w.threads } else w }

/-! Stopping a context (R324, R327). -/

/-- Live bundles of a context's workgroups dissolve; their threads stand at the word they would issue next. -/
def State.freezeCtx (s : State) (n : Nat) : State :=
  let us := (s.wgs.filter (·.ctx == n)).map (·.uid)
  { s with
    bundles := s.bundles.filter fun b => !us.contains b.wg
    wgs := s.wgs.map fun w => if w.ctx = n then
        { w with threads := w.threads.map fun th => if th.st = .live then { th with st := .ready, since := s.clk } else th }
      else w }

/-- STATUS in the descriptor that stands in memory (R326). -/
def State.writeStatus (s : State) (n : Nat) : State :=
  { s with mem := s.mem.write (s.ctxtab.toNat + 256 * n + 0xA8) (toBytes 8 (s.ctx n).status.toNat) }

def CtxState.code : CtxState → Nat
  | .empty => 0 | .running => 1 | .saving => 2 | .saved => 3 | .stopped => 4

/-- A context's state changes; bits 7:0 of STATUS follow (R326, R327). -/
def State.setCtxState (s : State) (n : Nat) (st : CtxState) : State :=
  (s.updCtx n fun c => { c with state := st, status := (c.status &&& ~~~ 0xFF) ||| BitVec.ofNat 64 st.code }).writeStatus n

/-- stop_context: an unhandled fault of a thread (R324). The save follows as its own event; it asks nobody to yield, and takes the place
of one that had. -/
def State.stopContext (s : State) (u t code : Nat) : State :=
  match s.wg? u with
  | none => s
  | some w =>
    if (s.ctx w.ctx).state != .running then s else
    let s := s.freezeCtx w.ctx
    let s := { s with wgs := s.wgs.map fun x : Workgroup => if x.ctx = w.ctx then { x with yreq := false, yielded := false } else x }
    let s := s.updCtx w.ctx fun c =>
      { c with saving := some ⟨true, (c.saving.map Saving.host).getD false⟩,
               status := BitVec.ofNat 64 (code * 2^8 + w.core * 2^16 + w.slot * 2^26 + t * 2^30) }
    s.setCtxState w.ctx .saving

/-! Taking an exception and returning from one (R323, R341). -/

/-- The value of TRAPCLS for a word of a clause. -/
def clsOf (hdr : CodeAddr) (idx : Nat) : Word64 := BitVec.ofNat 64 (2^63 + idx % 16 * 2^48 + hdr.toNat)

def meetWord (m : Option CodeAddr) : Word64 :=
  match m with
  | some a => BitVec.ofNat 64 (2^63 + a.toNat)
  | none => 0

/-- The trap registers as an exception writes them, the thread at the handler (R323). -/
def Thread.enter (th : Thread) (vec : CodeAddr) (cause : Nat) (addr pc cls : Word64) (clk : Nat) : Thread :=
  { th with
    trap := { th.trap with cause := BitVec.ofNat 32 cause, addr := addr, pc := pc, cls := cls, meet := meetWord th.meet,
                           link := th.link.setWidth 64, pred := (th.preds &&& 0xFE).setWidth 32 }
    meet := none, priv := true, pc := vec, mid := none, st := .ready, since := clk, notBefore := clk, wake := none }

/-- trap_entry once the thread's writes have landed (R323). -/
def State.trapEnter (s : State) (u t : Nat) (r : TrapRec) : State :=
  match s.wg? u, s.thread? u t with
  | some w, some th =>
    let d := (s.ctx w.ctx).desc
    let vec := if w.secure then d.trapvecs else d.trapvec
    if th.priv || vec == 0 then
      (s.updThread u t fun th => { th with st := .ready }).stopContext u t r.code
    else s.updThread u t (·.enter (BitVec.ofNat 48 vec) r.code r.addr (r.pc.setWidth 64) r.cls s.clk)
  | _, _ => s

/-- Delivery of a fault: the thread leaves its bundle and enters the handler, once its writes have landed. -/
def State.deliver (s : State) (u t : Nat) (r : TrapRec) : State :=
  let s := s.leaveBundle u t
  if s.outstanding u t then s.updThread u t fun th => { th with st := .trapping r, wake := none }
  else s.trapEnter u t r

/-- raise_fault at the issuing instruction (R41, R31): the faulting thread stands at the instruction. -/
def State.raise (s : State) (c : Issue) (t code : Nat) (addr : Nat) : State :=
  (s.updThread c.wg t fun th => { th with pc := c.addr, mid := some (c.hdr, c.idx) }).deliver c.wg t
    ⟨code, BitVec.ofNat 64 addr, c.addr, clsOf c.hdr c.idx⟩

/-- raise_fault in each of the threads. -/
def State.raiseAll (s : State) (c : Issue) (ts : List Nat) (code : Nat) (addr : Nat) : State :=
  ts.foldl (fun s t => s.raise c t code addr) s

/-- A fault delivered at the word a thread stands at, outside issue (R334, R348, R356). -/
def State.raiseAt (s : State) (u t code : Nat) (addr : Nat) : State :=
  match s.thread? u t with
  | none => s
  | some th =>
    let p : CodeAddr × CodeAddr × Nat := match th.mid with
      | some (h, i) => (th.pc, h, i)
      | none => (th.pc, th.pc, 0)
    s.deliver u t ⟨code, BitVec.ofNat 64 addr, p.1, clsOf p.2.1 p.2.2⟩

/-- Fault codes (R322). -/
def ILLOP : Nat := 0x01
def ILLCLAUSE : Nat := 0x02
def REGBOUND : Nat := 0x03
def PAGEFAULT : Nat := 0x04
def PERMISSION : Nat := 0x05
def WORLD : Nat := 0x06
def FMTBAD : Nat := 0x07
def TILEBAD : Nat := 0x08
def FPTRAP : Nat := 0x09
def ALIGN : Nat := 0x0A
def TXFAULT : Nat := 0x0B
def MERGEFAULT : Nat := 0x0C
def MIGRATEBAD : Nat := 0x0D
def LEASELOST : Nat := 0x0E
def UNCORRECTABLE : Nat := 0x0F
def REDUNMISMATCH : Nat := 0x10
def WATCHDOG : Nat := 0x11
def SOFTWARE : Nat := 0x12
def DEBUG : Nat := 0x13

/-- Abort of a transaction: the writes are discarded and the thread goes to the abort target (R170). -/
def Thread.abortTx (th : Thread) (cause fcode code : Nat) : Thread :=
  { th with
    pc := th.tx.target, mid := none
    tx := { th.tx with active := false, reads := [], wsecs := [], writes := [], msecs := [], aborts := min 15 (th.tx.aborts + 1),
                       token := false, fcode := if cause = 5 then fcode else th.tx.fcode, cause := cause, code := code } }

/-- The serialisation token is given up, with the sectors its holder owns (R172). -/
def State.dropToken (s : State) (u t : Nat) : State :=
  match s.wg? u with
  | none => s
  | some w =>
    let s := s.updLaunch w.launch fun l => if l.tokenHolder = some (u, t) then { l with tokenHolder := none } else l
    { s with owned := s.owned.filter fun o => o.2 != .token u t }

/-- The thread's open transaction aborts; the thread leaves its bundle for the abort target. -/
def State.abortTx (s : State) (u t cause fcode code : Nat) : State :=
  ((s.dropToken u t).leaveBundle u t).updThread u t fun th => (th.abortTx cause fcode code).release s.clk

/-- ERET and SRET in one thread (R341): `clauses` is whether TRAPCLS may name a word to resume at, and `preds` whether
the predicates return. -/
def Thread.ret (th : Thread) (eret : Bool) : Thread :=
  let th1 := { th with
    meet := if th.trap.meet.getLsbD 63 then some (th.trap.meet.setWidth 48) else none
    link := th.trap.link.setWidth 48
    priv := false
    preds := if eret then (th.trap.pred.setWidth 8 &&& 0xFE) ||| 1 else th.preds }
  if eret && th.trap.cls.getLsbD 63 then
    let h : CodeAddr := th.trap.cls.setWidth 48
    let i := th.trap.cls.toNat / 2^48 % 16
    { th1 with pc := h + BitVec.ofNat 48 (4 * (i + 1)), mid := some (h, i) }
  else { th1 with pc := th.trap.pc.setWidth 48, mid := none }

/-! The frame of a meaning. -/

/-- What a meaning does for the issuing bundle. `step` never asks for one while no bundle issues. -/
def State.issue (s : State) (f : Issue → State → State) : Host.Outcome State Fault Refusal :=
  match s.cur with
  | none => .fault .noIssue
  | some c => .next (f c s.tickFree)

end Sys2Proof.Machine
end

