-- ==== Sys2Proof/Machine/Operands.lean ====
section
/-! DEFINITION. Operand forms: source fields (R33, R41), memory offsets (R32, R140), and the shared forms of a meaning
whose result lands after a fixed latency (R27, R93) with its tag by the propagation rules (R80). -/

namespace Sys2Proof.Machine

/-- The image a source field reads in a home wave: an extension word has tag U (R33). -/
def srcImg (s : State) (c : Issue) (hw : Nat) : Src → RegImg
  | .reg r => s.readImg c.wg hw r.toNat
  | .imm x => .u x

/-- src(f, l) (R41). -/
def src (s : State) (c : Issue) (f : Src) (t : Nat) : Word := (srcImg s c (t / 32) f).lane (t % 32)

/-- src64(f, l): a pair, or the sign-extended extension word (R33, R41). -/
def src64 (s : State) (c : Issue) (f : Src) (t : Nat) : Word64 :=
  match f with
  | .reg r => s.readPair c.wg t r.toNat
  | .imm x => x.signExtend 64

/-- A pair of registers named by its even code. -/
def reg64 (s : State) (c : Issue) (r : RegCode) (t : Nat) : Word64 := s.readPair c.wg t r.toNat

def RegImg.isU : RegImg → Bool
  | .u _ => true
  | _ => false

/-- The registers a source field names. -/
def srcRegs : Src → List Nat
  | .reg r => [r.toNat]
  | .imm _ => []

def srcRegs64 : Src → List Nat
  | .reg r => [r.toNat, r.toNat + 1]
  | .imm _ => []

/-- All the registers are U in the home wave (R80). -/
def allU (s : State) (c : Issue) (rs : List Nat) (hw : Nat) : Bool := rs.all fun r => (s.readImg c.wg hw r).isU

/-- U from all-U sources, G otherwise (R80). -/
def uRule (s : State) (c : Issue) (rs : List Nat) (val : Nat → Word) (hw : Nat) : Option RegImg :=
  if allU s c rs hw then some (.u (val (32 * hw))) else none

def uRule2 (s : State) (c : Issue) (rs : List Nat) (val : Nat → Word64) (hw : Nat) : Option (RegImg × RegImg) :=
  if allU s c rs hw then some (.u ((val (32 * hw)).setWidth 32), .u ((val (32 * hw) >>> 32).setWidth 32)) else none

/-- Base and stride of a U or A image (R80); none for G. -/
def RegImg.affine : RegImg → Option (Word × Word)
  | .u x => some (x, 0)
  | .a b k => some (b, k)
  | .g _ => none

/-- The result image of ADD or SUB: U from U and U, A when one source is A and both are U or A (R80). -/
def affineSum (f : Word → Word → Word) (x y : RegImg) : Option RegImg :=
  match x, y with
  | .u p, .u q => some (.u (f p q))
  | x, y => match x.affine, y.affine with
    | some (b, k), some (b', k') => some (.a (f b b') (f k k'))
    | _, _ => none

/-- The result image of MUL, low word: A from A and U in either order, U from U and U (R80). -/
def affineMul (x y : RegImg) : Option RegImg :=
  match x, y with
  | .u p, .u q => some (.u (p * q))
  | .a b k, .u q => some (.a (b * q) (k * q))
  | .u p, .a b k => some (.a (b * p) (k * p))
  | _, _ => none

/-- A fixed-latency result: register writes, predicate writes, no counter. -/
def fixed (s : State) (c : Issue) (ts : List Nat) (lat : Nat) (regs : List RegWrite)
    (preds : List (Nat × Nat × Bool) := []) : State :=
  s.addPend lat { Pend.none_ c.wg ts with regs := regs, preds := preds.filter (·.2.1 != 0) }

/-- A 32-bit operation on two sources with the tag rule of R80. -/
def op2 (lat : Nat) (g : Guard) (d : RegCode) (a b : Src) (f : Word → Word → Word) (c : Issue) (s : State) : State :=
  let ts := active s c g
  let val := fun t => f (src s c a t) (src s c b t)
  fixed s c ts lat (regWrites ts d.toNat val (uRule s c (srcRegs a ++ srcRegs b) val))

/-- A 32-bit operation on one source with the tag rule of R80. -/
def op1 (lat : Nat) (g : Guard) (d : RegCode) (a : Src) (f : Word → Word) (c : Issue) (s : State) : State :=
  let ts := active s c g
  let val := fun t => f (src s c a t)
  fixed s c ts lat (regWrites ts d.toNat val (uRule s c (srcRegs a) val))

/-- A predicate result in each active lane; p0 ignores writes (R78). -/
def opPred (lat : Nat) (g : Guard) (d : PredCode) (f : Nat → Bool) (c : Issue) (s : State) : State :=
  let ts := active s c g
  fixed s c ts lat [] (ts.map fun t => (t, d.toNat, f t))

/-- The offset of format M in bytes: off6 × size, or the signed extension word (R32, R140). -/
def offBytes (size : Nat) : Off → Word64
  | .scaled o => BitVec.ofNat 64 (o.toNat * size)
  | .ext x => x.signExtend 64

/-- Effective address of a global access (R140). -/
def eaGlobal (s : State) (c : Issue) (a : RegCode) (off : Off) (size : Nat) (t : Nat) : Word64 :=
  reg64 s c a t + offBytes size off

/-- Effective address of a local access (R140). -/
def eaLocal (s : State) (c : Issue) (a : RegCode) (off : Off) (size : Nat) (t : Nat) : Word :=
  s.readReg c.wg t a.toNat + (offBytes size off).setWidth 32

/-- The register codes an instruction names, for REGBOUND (R36, R78). -/
def pairCodes (c : RegCode) : List Nat := [c.toNat, c.toNat + 1]

end Sys2Proof.Machine
end

