-- ==== Sys2Proof/Machine/Flags.lean ====
section
/-! DEFINITION. FPCTL and its flags (R95 to R98): control fields by type, flag merging, and the trap of an enabled flag. -/

namespace Sys2Proof.Machine

/-- FPCTL bits that can be written (R95). -/
def fpctlMask : Word := 0x0FFF1F1F

/-- The four IEEE-style types in the order of FPCTL's fields: 0 f64, 1 f32, 2 f16, 3 bf16. -/
def fpRound (ctl : Word) (i : Nat) : Nat := ctl.toNat / 2^(16 + 2 * i) % 4

def fpFtz (ctl : Word) (i : Nat) : Bool := ctl.toNat.testBit (24 + i)

/-- FPCTL's index of a type code of majors 0x20 to 0x2F (R35): 0 f32, 1 f64, 2 f16, 3 bf16, 4 f16x2, 5 bf16x2. -/
def fpIndex (ty : Nat) : Nat :=
  match ty with
  | 0 => 1 | 1 => 0 | 2 => 2 | 3 => 3 | 4 => 2 | _ => 3

def fpFmt (ty : Nat) : Fmt :=
  match ty with
  | 0 => f32 | 1 => f64 | 2 => f16 | 3 => bf16 | 4 => f16 | _ => bf16

/-- Whether a raised flag is enabled to trap (R95, R98). -/
def fpTraps (ctl : Word) (flags : Nat) : Bool := (ctl.toNat / 2^8 % 32) &&& flags != 0

/-- FPCTL with flags ORed into bits 4:0 (R96). -/
def fpMerge (ctl : Word) (flags : Nat) : Word := ctl ||| BitVec.ofNat 32 (flags % 32)

def State.fpctl (s : State) (u t : Nat) : Word := ((s.thread? u t).map (·.fpctl)).getD 0

/-- A thread has an IEEE trap enabled (R98). -/
def State.trapsEnabled (s : State) (u t : Nat) : Bool := (s.fpctl u t).toNat / 2^8 % 32 != 0

/-- A lane's floating-point result: the value (low word, or the pair) and its flags. -/
structure FpRes where
  val : Word64
  flags : Nat

/-- Whether a bundle's threads fill a home wave. -/
def wholeWave (ts : List Nat) (hw : Nat) : Bool := (ts.filter fun t => t / 32 == hw).length == 32

/-- The thread whose operands and controls give a thread's result: where R80 gives the result tag U, one computation for the
home wave, from the side-file images and under the FPCTL of home lane 0 (R94, log entry 28); else the thread itself. -/
def fpRep (ts : List Nat) (u : Nat → Bool) (t : Nat) : Nat := if u (t / 32) && wholeWave ts (t / 32) then 32 * (t / 32) else t

/-- An instruction that raises IEEE flags (R96, R98). `bad` gives the threads that take FPTRAP, with TRAPADDR: they write
nothing, and their flags are merged in the clk the result would land, before they enter the handler. The others write their
result and merge their flags when it lands. Where a thread has an IEEE trap enabled, its bundle issues no later word of the
clause before then, whether or not that thread stays in it. `wide` is whether the result is a pair, `u` whether the entry's tag rule gives U
in a home wave. -/
def fpIssueWith (s : State) (c : Issue) (ts : List Nat) (lat : Nat) (d : Nat) (wide : Bool) (u : Nat → Bool)
    (f : Nat → FpRes) (bad : Nat → Option Nat) : State :=
  let res := ts.map fun t => (t, f (fpRep ts u t))
  let no := res.filter fun r => (bad r.1).isSome
  let ok := res.filter fun r => (bad r.1).isNone
  let oks := ok.map (·.1)
  let val : Nat → Word64 := fun t => ((ok.lookup t).map (·.val)).getD 0
  let regs :=
    if wide then pairWrites oks d val fun hw =>
      if u hw then some (.u ((val (32 * hw)).setWidth 32), .u ((val (32 * hw) >>> 32).setWidth 32)) else none
    else regWrites oks d (fun t => (val t).setWidth 32) fun hw =>
      if u hw then some (.u ((val (32 * hw)).setWidth 32)) else none
  let merge := fun l : List (Nat × FpRes) => l.map fun r => (r.1, BitVec.ofNat 5 r.2.flags)
  let s := if ts.any (s.trapsEnabled c.wg) then s.updBundle c.bundle fun b => { b with notBefore := max b.notBefore (s.clk + lat) } else s
  let s := if oks.isEmpty then s else s.addPend lat { Pend.none_ c.wg oks with regs := regs, flags := merge ok }
  let s := if no.isEmpty then s else s.addPend lat { Pend.none_ c.wg (no.map (·.1)) with flags := merge no }
  no.foldl (fun s r => s.raise c r.1 FPTRAP ((bad r.1).getD 0)) s

/-- Where each lane computes its result on its own: a thread traps by its own flags and enables, with TRAPADDR 0 (R98). -/
def fpIssue (s : State) (c : Issue) (ts : List Nat) (lat : Nat) (d : Nat) (wide : Bool) (u : Nat → Bool)
    (f : Nat → FpRes) : State :=
  fpIssueWith s c ts lat d wide u f fun t =>
    if fpTraps (s.fpctl c.wg t) (f (fpRep ts u t)).flags then some 0 else none

/-- An input under its type's flush control: a subnormal becomes a zero of its sign (R97). -/
def flushIn (f : Fmt) (ftz : Bool) (x : Nat) : Nat :=
  if ftz && f.isSub x then (if x.testBit (f.w - 1) then 2^(f.w - 1) else 0) else x

end Sys2Proof.Machine
end

