-- ==== Sys2Proof/Machine/Access.lean ====
section
/-! DEFINITION. Memory as the package's agents reach it: translation (R119 to R125), physical accesses, routes and
poison (R14, R120, R348, R375), the L1 (R157), a thread's own view through its store queue and buffers (R143, R158,
R169, R353, R358), the local-store window (R127 to R130), tiles and blanks (R131 to R137, R303). -/

namespace Sys2Proof.Machine

/-! Translation. -/

inductive Kind where
  | read | write | atomic | exec
  deriving DecidableEq, Repr

/-- A translated byte address: its physical address and its leaf entry (R122). -/
structure Leaf where
  pa : Nat
  pte : Nat
  /-- bytes of the page that the entry serves (R123) -/
  size : Nat
  deriving DecidableEq, Repr

def Leaf.s (l : Leaf) : Bool := l.pte.testBit 9
def Leaf.m (l : Leaf) : Bool := l.pte.testBit 8
def Leaf.h (l : Leaf) : Bool := l.pte.testBit 7
def Leaf.sa (l : Leaf) : Bool := l.pte.testBit 6
def Leaf.c (l : Leaf) : Bool := l.pte.testBit 5

def paLocal (pa : Nat) : Nat := pa % 2^43
def paPkg (pa : Nat) : Nat := pa / 2^43

/-- Kinds of physical range (R120). -/
def isHbm (pa : Nat) : Bool := decide (paLocal pa < 0x6000000000)
def isIo (pa : Nat) : Bool := decide (0x7000000000 ≤ paLocal pa ∧ paLocal pa < 0x7100000000)
def isHost (pa : Nat) : Bool := decide (0x40000000000 ≤ paLocal pa)

/-- A leaf names a populated range of a package of the domain (R120). -/
def populated (pa : Nat) : Bool := (isHbm pa || isIo pa || isHost pa) && decide (paPkg pa ≤ 431)

/-- Stack of an HBM address (R14). -/
def stackOf (pa : Nat) : Nat := (pa / 2^12 % 8) ^^^ (pa / 2^21 % 8)

def sectorOf (pa : Nat) : Nat := pa / 128

/-- The physical address field of an entry. -/
def ptePa (e : Nat) : Nat := e / 2^12 % 2^40 * 2^12

def pteBase (e : Nat) : Bool := e.testBit 0 && e / 2^52 == 0 && !e.testBit 11

/-- The 16 level-0 entries of a group hold one consistent 64 KiB page (R123). -/
def groupConsistent (es : List Nat) : Bool :=
  let b := es.headD 0
  ptePa b % 2^16 == 0 && (List.range 16).all fun i =>
    let e := es.getD i 0
    ptePa e == ptePa b + i * 2^12 && e % 2^12 == b % 2^12 && e / 2^52 == b / 2^52

/-- The level-0 entry that translates, and the size of the page it serves (R121 to R123): 64 KiB from a consistent group;
an entry of an inconsistent group gives its own 4 KiB frame. -/
def walkLeaf0 (m : Mem) (pick : Nat) (tbl va : Nat) : Option (Nat × Nat) :=
  let idx := va / 2^12 % 512
  let rd := fun i => m.readNat (tbl + 8 * i) 8
  let g := (List.range 16).map fun i => rd (idx / 16 * 16 + i)
  let isCt := fun e : Nat => e.testBit 0 && e.testBit 1 && e.testBit 10
  let mixed := g.any isCt && !groupConsistent g
  let e := if mixed then g.getD (pick % 16) 0 else rd idx
  if pteBase e && e.testBit 1 then some (e, if e.testBit 10 && !mixed then 2^16 else 2^12) else none

/-- The walk from level `k - 1` down (R121, R122): the leaf entry and its page size. -/
def walk (m : Mem) (pick : Nat) (va : Nat) : Nat → Nat → Option (Nat × Nat)
  | 0, _ => none
  | 1, tbl => walkLeaf0 m pick tbl va
  | k + 1, tbl =>
    let e := m.readNat (tbl + 8 * (va / 2^(12 + 9 * k) % 512)) 8
    if !pteBase e then none
    else if e.testBit 1 then
      (if k ≥ 3 || e.testBit 10 || ptePa e % 2^(12 + 9 * k) != 0 then none else some (e, 2^(12 + 9 * k)))
    else if e / 4 % 512 != 0 then none
    else walk m pick va k (ptePa e)

/-! The TLBs (R16, R19, R125): 128 entries in each core, 4,096 in each compute die. -/

/-- The place of a compute die's L2 TLB among the entries. -/
def l2Tlb (core : Nat) : Nat := 1024 + dieOf core

def TlbEntry.covers (e : TlbEntry) (n va : Nat) : Bool := e.ctx == n && va / e.size == e.va / e.size

/-- The entry that an access of a core meets: of its L1 TLB, else of its die's L2 TLB. The device's own accesses, by no core,
walk the tables. -/
def State.tlbFind (s : State) (core : Option Nat) (n va : Nat) : Option TlbEntry :=
  match core with
  | none => none
  | some k => match s.tlb.find? fun e => e.place == k && e.covers n va with
    | some e => some e
    | none => s.tlb.find? fun e => e.place == l2Tlb k && e.covers n va

/-- The walk of a context's tables as they stand (R121). -/
def State.walkOf (s : State) (n va : Nat) : Option (Nat × Nat) := walk s.mem (Config.groupPick s.fresh va) va 4 (s.ctx n).desc.ptroot

/-- The leaf that an access uses: a TLB entry, which may be stale, or a walk of the tables as they stand (R125). -/
def State.leafOf (s : State) (core : Option Nat) (n va : Nat) : Option (Nat × Nat) :=
  match s.tlbFind core n va with
  | some e => if Config.tlbHit s.fresh va then some (e.pte, e.size) else s.walkOf n va
  | none => s.walkOf n va

/-- translate(va, kind) for context `n` in a world, by a core or by the device itself (R41, R119, R124): the lowest fault code
where several apply. -/
def State.translate (s : State) (core : Option Nat) (n : Nat) (secure : Bool) (k : Kind) (va : Nat) : Except Nat Leaf :=
  if va ≥ 2^48 then .error PAGEFAULT else
  match s.leafOf core n va with
  | none => .error PAGEFAULT
  | some (e, size) =>
    let pa := ptePa e / size * size + va % size
    let ok := match k with
      | .read => e.testBit 2
      | .write => e.testBit 3
      | .atomic => e.testBit 2 && e.testBit 3
      | .exec => e.testBit 4
    if !populated pa then .error PAGEFAULT
    else if !ok then .error PERMISSION
    else if e.testBit 9 && !secure then .error WORLD
    else .ok ⟨pa, e, size⟩

/-- An entry put into a TLB that holds `cap` of them: the oldest makes room. -/
def tlbPut (tlb : List TlbEntry) (cap : Nat) (e : TlbEntry) : List TlbEntry :=
  let mine := tlb.filter fun y => y.place == e.place
  e :: (if mine.length < cap then tlb else
    match mine.getLast? with
    | some y => tlb.filter (· != y)
    | none => tlb)

/-- A translation leaves its entry in the TLBs of its core and die that hold none of the page; an entry that stands there
stays, whatever the tables hold since (R125). -/
def State.noteTlb (s : State) (core n va : Nat) : State :=
  let has := fun p => s.tlb.any fun e => e.place == p && e.covers n va
  let met : Option TlbEntry := match s.tlbFind (some core) n va with
    | some e => some e
    | none => (s.walkOf n va).map fun x => ⟨0, n, va / x.2 * x.2, x.2, x.1⟩
  match met with
  | none => s
  | some e =>
    let tlb := if has (l2Tlb core) then s.tlb else tlbPut s.tlb 4096 { e with place := l2Tlb core }
    { s with tlb := if has core then tlb else tlbPut tlb 128 { e with place := core } }

/-! Routes between dies (R375, R372). -/

def State.dieLive (s : State) (d : Nat) : Bool := ((s.dies[d]?).map (·.state == .live)).getD false

/-- The neighbour that port `p` of CDd faces (R9, R369): a compute die, or an I/O die 64 to 67. -/
def neighbour (d p : Nat) : Nat :=
  let x := d % 8
  let y := d / 8
  match p with
  | 0 => if y = 7 then 64 else d + 8
  | 1 => if x = 7 then 65 else d + 1
  | 2 => if y = 0 then 66 else d - 8
  | _ => if x = 0 then 67 else d - 1

/-- The other number of a mesh link (R369). -/
def linkTwin (l : Nat) : Nat :=
  let o := neighbour (l / 4) (l % 4)
  if l ≥ 256 ∨ o ≥ 64 then l else 4 * o + (l % 4 + 2) % 4

/-- The number a link stands under in State: the lower of its two (R369). -/
def canonLink (l : Nat) : Nat := min l (linkTwin l)

def State.link? (s : State) (n : Nat) : Option Link := s.links.find? (·.num == canonLink n)

/-- A key has been used for as many flits as it may: the next one is held until the switch (R374). -/
def LinkDir.spent (d : LinkDir) : Bool := decide (2^40 - 1 ≤ d.flits)

/-- A link carries data flits (R372, R374). -/
def State.linkData (s : State) (n : Nat) : Bool :=
  match s.link? n with
  | some l => l.state == .open_ || l.state == .rolling
  | none => false

/-- A direction of a link is spent: what would cross the link is held (R374). -/
def State.linkSpent (s : State) (n : Nat) : Bool :=
  match s.link? n with
  | some l => l.d0.spent || l.d1.spent
  | none => false

/-- Dies that a request from the given ones can enter next. -/
def State.reachStep (s : State) (ds : List Nat) : List Nat :=
  ds.foldl (fun acc d =>
    if d ≥ 64 then acc else
    (List.range 4).foldl (fun acc p =>
      let o := neighbour d p
      if !acc.contains o && s.dieLive o && s.linkData (4 * d + p) then acc ++ [o] else acc) acc) ds

/-- The dies entered on the way from any of `ds` to die `o`, at the least, `n` having been entered already. -/
def State.hopsFrom (s : State) (o : Nat) : Nat → Nat → List Nat → Option Nat
  | 0, _, _ => none
  | k + 1, n, ds =>
    if ds.contains o then some n
    else
      let next := s.reachStep ds
      if next.length = ds.length then none else s.hopsFrom o k (n + 1) next

/-- Hops of the shortest path between two dies through LIVE compute dies over links that carry data (R12, R375). -/
def State.hops (s : State) (d o : Nat) : Option Nat := s.hopsFrom o 69 0 [d]

/-- The links of the path of `n` hops from die `d` to die `o`: at each die in dx where a shortest path leads there, then through the
lower die (R12, R375). -/
def State.path (s : State) (o : Nat) : Nat → Nat → List Nat
  | 0, _ => []
  | n + 1, d =>
    match [3, 1, 2, 0].find? fun p =>
      s.dieLive (neighbour d p) && s.linkData (4 * d + p) && s.hops (neighbour d p) o == some n with
    | none => []
    | some p => (4 * d + p) :: s.path o n (neighbour d p)

/-- The links that a request from an I/O die to another die crosses: it enters the nearest compute die that has a link to it, among
equally near ones the one with the lowest d (R375, after R12; log entry 41). -/
def State.ioRoute (s : State) (d o : Nat) : Option (List Nat) :=
  (List.range 256).foldl (fun best l =>
    if neighbour (l / 4) (l % 4) = d ∧ s.dieLive (l / 4) = true ∧ s.linkData l = true then
      match s.hops (l / 4) o with
      | none => best
      | some n => if (best.map fun b => decide (b.length ≤ n + 1)).getD false then best else some (l :: s.path o n (l / 4))
    else best) none

/-- The links that a request from a die to another crosses, one for each hop (R12, R375). -/
def State.routeOf (s : State) (d o : Nat) : Option (List Nat) :=
  if d < 64 ∨ d = o then (s.hops d o).map fun n => s.path o n d else s.ioRoute d o

/-- Whether a request from a die reaches another (R375). -/
def State.routed (s : State) (d o : Nat) : Bool := (s.routeOf d o).isSome

/-- The I/O die that is home to an address (R13, R14). -/
def homeDie (pa : Nat) : Nat := if isHbm pa then 64 + stackOf pa / 2 else 64

/-- The I/O die of a Ralpex port: 3 on IOD0 and 5 on each of the others (R13), in the order of their numbers (log entry 43). -/
def ralpexDie (n : Nat) : Nat := let k := n - 256; if k < 3 then 64 else if k < 8 then 65 else if k < 13 then 66 else 67

/-- Another package's address, and whether its port is usable (R387). -/
def State.remote (s : State) (pa : Nat) : Bool := paPkg pa != s.pkgid.toNat

def State.routeByte (s : State) (p : Nat) : Nat := (s.route.get p).toNat ^^^ 0xFF

def State.pkgReachable (s : State) (pa : Nat) : Bool :=
  s.pkgidSet && decide (s.routeByte (paPkg pa) < 18) && s.linkData (256 + s.routeByte (paPkg pa))

/-- A request from a die to another, or its answer, is held at a link that a direction of which is spent (R374). -/
def State.linkHeld (s : State) (d o : Nat) : Bool :=
  (s.links.any fun l => l.d0.spent || l.d1.spent) && ((s.routeOf d o).getD []).any s.linkSpent

/-- An access of an address from a die is held at a link on its way, or at the port to its package (R374, R387). -/
def State.pathHeld (s : State) (d pa : Nat) : Bool :=
  if s.remote pa then s.linkSpent (256 + s.routeByte (paPkg pa)) else s.linkHeld d (homeDie pa)

/-! Physical memory at the PACKAGE point. -/

/-- A device register byte as a read sees it (R384, R386). -/
def State.ioBytes (s : State) (o : Nat) : Byte :=
  if o < 8 then BitVec.ofNat 8 (s.ctxtab.toNat / 256^o)
  else if o < 10 then BitVec.ofNat 8 (s.pkgid.toNat / 256^(o - 8))
  else if 0x10 ≤ o ∧ o < 0x12 then BitVec.ofNat 8 (s.mirpart.toNat / 256^(o - 0x10))
  else if 0x18 ≤ o ∧ o < 0x1C then BitVec.ofNat 8 (s.allow.toNat / 256^(o - 0x18))
  else if 0x20 ≤ o ∧ o < 0x28 then BitVec.ofNat 8 (s.irqstat.toNat / 256^(o - 0x20))
  else if 0x30 ≤ o ∧ o < 0x38 then BitVec.ofNat 8 (s.ctxcmd.toNat / 256^(o - 0x30))
  else if 0x38 ≤ o ∧ o < 0x40 then BitVec.ofNat 8 (s.ctxres.toNat / 256^(o - 0x38))
  else if 0x1000 ≤ o ∧ o < 0x1000 + 432 then BitVec.ofNat 8 (s.routeByte (o - 0x1000))
  else if 0x10000 ≤ o ∧ o < 0x11000 then
    (if o % 64 < 8 then BitVec.ofNat 8 ((s.ctx ((o - 0x10000) / 64)).doorbell.toNat / 256^(o % 64)) else 0)
  else if 0x20000 ≤ o ∧ o < 0x21000 then
    let w := s.windows.getD ((o - 0x20000) / 64) .reset
    let k := o % 64
    if k < 28 then BitVec.ofNat 8 ((w.words.getD (k / 4) 0).toNat / 256^(k % 4))
    else if 0x28 ≤ k ∧ k < 0x2C then (if w.busy then 0 else BitVec.ofNat 8 (w.result.toNat / 256^(k - 0x28)))
    else 0
  else s.ioMem.get o

def State.ioRead (s : State) (o : Nat) : Nat → List Byte
  | 0 => []
  | n + 1 => s.ioBytes o :: s.ioRead (o + 1) n

/-- Bytes at a physical address as the PACKAGE point holds them. -/
def State.pkgRead (s : State) (pa n : Nat) : List Byte :=
  if isIo pa && !s.remote pa then s.ioRead (paLocal pa - 0x7000000000) n else s.mem.read pa n

/-- A sector of the bytes is poisoned (R348). -/
def State.poisoned (s : State) (pa n : Nat) : Bool :=
  s.poison.any fun x => decide (sectorOf pa ≤ x ∧ x ≤ sectorOf (pa + n - 1))

/-- 512-byte lines of a home slice, which holds 64 MiB (R13, R21). -/
def homeLines : Nat := 131072

/-- A sector comes into its home slice: the line that holds it is the newest, and the oldest line of a full slice makes room. -/
def noteLine (sl : List HomeLine) (sec : Nat) : List HomeLine :=
  let d := homeDie (128 * sec)
  let here := fun x : HomeLine => x.die == d && x.line == sec / 4
  let old := ((sl.find? here).map (·.secs)).getD []
  let rest := sl.filter (!here ·)
  let mine := rest.filter (·.die == d)
  ⟨d, sec / 4, if old.contains (sec % 4) then old else sec % 4 :: old⟩ ::
    (if mine.length < homeLines then rest else match mine.getLast? with
      | some y => rest.filter (· != y)
      | none => rest)

/-- The home slices once bytes at a physical address have been accessed there. -/
def State.homeTouch (s : State) (pa n : Nat) : List HomeLine :=
  if isHbm pa && !s.remote pa then ((List.range (sectorOf (pa + n - 1) + 1 - sectorOf pa)).map (· + sectorOf pa)).foldl noteLine s.slices
  else s.slices

/-- A write performed at the PACKAGE point; a poisoned sector is clean once written (R367), and no die's cache holds it dirty
any more. -/
def State.pkgWrite (s : State) (pa : Nat) (bs : List Byte) : State :=
  let hit := fun x => decide (sectorOf pa ≤ x ∧ x ≤ sectorOf (pa + bs.length - 1))
  { s with mem := s.mem.write pa bs, poison := s.poison.filter (!hit ·), lost := s.lost.filter (!hit ·)
           slices := s.homeTouch pa bs.length, dcache := s.dcache.filter fun x => !hit x.sec
           cwords := s.cwords.filter fun x => !decide (x < pa + bs.length ∧ pa < x + 8) }

/-- A workgroup of a SCREEN launch that runs once (R357). -/
def Redun.solo (r : Redun) : Bool := r.partner == 0

/-- The copies of a pair, each of which has a partner (R349, R357). -/
def Workgroup.paired (w : Workgroup) : Bool := match w.redun with | some r => !r.solo | none => false

/-- Stores of a workgroup are held back, or are not all performed yet since it became uncontained: an event that ends containment takes
effect after them (R358). -/
def Workgroup.holding (w : Workgroup) : Bool := match w.contain with | some k => k.on || !k.buf.isEmpty | none => false

/-- A workgroup that has a store-buffer slot in its die's cache: a copy of a pair, or one of a CONTAIN launch until it has become
uncontained and its stores are released (R20, R349, R357, R358). -/
def Workgroup.hasSlot (w : Workgroup) : Bool :=
  w.paired || w.holding

/-- Store-buffer slots of a die in use (R20). -/
def State.slotsUsed (s : State) (die : Nat) : Nat := (s.wgs.filter fun w => dieOf w.core == die && w.hasSlot).length

/-- 512-byte lines that a die's cache can hold: 8 MiB (R19, R21), less the 64 KiB of each slot (R20). -/
def State.cacheRoom (s : State) (die : Nat) : Nat := 16384 - 128 * s.slotsUsed die

/-- The lines that a die's cache keeps, the newest first: the oldest have made room. -/
def State.dieTrim (s : State) (die : Nat) : State :=
  let lines := (((s.dcache.filter (·.die == die)).map (·.sec / 4)).eraseDups).take (s.cacheRoom die)
  { s with dcache := s.dcache.filter fun x => x.die != die || lines.contains (x.sec / 4) }

/-- A write of bytes of one sector into the cache of a core's die, which holds the sector dirty at its home's leave: every other
agent sees it (R157). How long it stays is free; the oldest line makes room. -/
def State.dieWrite (s : State) (core pa : Nat) (bs : List Byte) : State :=
  let s := s.pkgWrite pa bs
  let d := dieOf core
  if !isHbm pa || s.remote pa then s else
  let s := s.tickFree
  { s with dcache := ⟨d, sectorOf pa, s.clk + Config.l1Life s.fresh⟩ :: s.dcache }.dieTrim d

/-- Another die reads a sector: it is written to its home, and no die's cache holds it dirty (R157). -/
def State.dieShare (s : State) (core sec : Nat) : State :=
  { s with dcache := s.dcache.filter fun x => !(x.sec == sec && x.die != dieOf core) }

/-- Bytes of the page that a translation held by a command came from: its exponent stands in bits 6:1 (R190). -/
def heldSize (x : Nat × Nat) : Nat := 2^(x.2 / 2 % 64)

/-- The hearth channel of an address (R14, R206). -/
def channelOf (pa : Nat) : Nat := 32 * stackOf pa + pa / 2^7 % 32

/-- A look-up wave holds the channel of the bytes: other accesses to it wait (R212). -/
def State.waveHolds (s : State) (pa n : Nat) : Bool :=
  isHbm pa && !s.remote pa && s.channels.any fun h => h.wave.isSome && (h.num == channelOf pa || h.num == channelOf (pa + n - 1))

/-- Whether an access from die `d` waits: someone else owns a sector of the bytes, a wave holds their channel, or a link on the way holds
it (R163, R172, R212, R374). -/
def State.ownedBy (s : State) (d pa n : Nat) (me : Option Owner) : Bool :=
  s.waveHolds pa n || s.pathHeld d pa || s.owned.any fun o => decide (sectorOf pa ≤ o.1 ∧ o.1 ≤ sectorOf (pa + n - 1)) && !(some o.2 == me)

/-- The serialisation token's holder owns a sector (R172). -/
def State.tokenOwned (s : State) (sec : Nat) : Bool :=
  s.owned.any fun o => o.1 == sec && match o.2 with
    | .token .. => true
    | _ => false

/-- A device's own read of a context's structure (R398): translated in the context's tables, in the secure world when
the context is secure-capable. -/
def State.devWorld (s : State) (n : Nat) : Bool := (s.ctx n).desc.cflags.testBit 1

def State.devTranslate (s : State) (n : Nat) (k : Kind) (va : Nat) : Except Nat Leaf :=
  s.translate none n (s.devWorld n) k va

/-! The L1 of a core (R157). -/

def State.l1Find (s : State) (core sec : Nat) : Option L1Copy := s.l1.find? fun c => c.core == core && c.pa == 128 * sec

/-- The dirty bytes of an L1 copy, by address. -/
def L1Copy.cells (c : L1Copy) : List Host.Cell := c.dirty.map fun o => (c.pa + o, c.data.getD o 0)

/-- Dirty bytes written back to the die's cache, merged by byte mask; the copy stays, clean (R157). -/
def State.l1Clean (s : State) (core sec : Nat) : State :=
  match s.l1Find core sec with
  | none => s
  | some c =>
    let s := c.cells.foldl (fun s x => s.dieWrite core x.1 [x.2]) s
    { s with l1 := s.l1.map fun d => if d.core = core ∧ d.pa = 128 * sec then { d with dirty := [] } else d }

def State.l1Drop (s : State) (core sec : Nat) : State :=
  let s := s.l1Clean core sec
  { s with l1 := s.l1.filter fun d => !(d.core == core && d.pa == 128 * sec) }

/-- An engine has written a sector: the copies of it in the L1s are behind (R163, R164). -/
def State.leaveBehind (s : State) (sec : Nat) : State :=
  { s with l1 := s.l1.map fun c => if c.pa = 128 * sec then { c with behind := true } else c }

/-- Dirty bytes of a sector in every core's L1 written back: exclusive ownership of it is taken at its home (R163, R172). -/
def State.recall (s : State) (sec : Nat) : State :=
  (s.l1.filter fun c => c.pa == 128 * sec && !c.dirty.isEmpty).foldl (fun s c => s.l1Clean c.core sec) s

/-- A sector's copies in every L1 and die cache written back and discarded (R146). -/
def State.dropAll (s : State) (sec : Nat) : State :=
  let s := (s.l1.filter fun c => c.pa == 128 * sec).foldl (fun s c => s.l1Drop c.core sec) s
  { s with dcache := s.dcache.filter (·.sec != sec) }

/-- All dirty bytes of a core written back: a release at RECT or wider (R157). -/
def State.l1Release (s : State) (core : Nat) : State :=
  (s.l1.filter (·.core == core)).foldl (fun s c => s.l1Clean core (c.pa / 128)) s

/-- An acquire at RECT or wider discards the core's copies; dirty bytes are written back first (R157). -/
def State.l1Acquire (s : State) (core : Nat) : State :=
  let s := s.l1Release core
  { s with l1 := s.l1.filter (·.core != core) }

/-- A thread of a core has observed the end of engine operations: the core's copies of sectors that engines have written since
their fill are discarded (R164). -/
def State.l1Observe (s : State) (core : Nat) : State :=
  (s.l1.filter fun c => c.core == core && c.behind).foldl (fun s c => s.l1Drop core (c.pa / 128)) s

/-- 512-byte lines of a core's L1, which holds 128 KiB of them (R16, R21). -/
def l1Lines : Nat := 256

/-- Room for a line in a core's L1: where all are in use, the one filled first leaves. -/
def State.l1Room (s : State) (core sec : Nat) : State :=
  let lines := ((s.l1.filter (·.core == core)).map (·.pa / 512)).eraseDups
  if lines.contains (sec / 4) || decide (lines.length < l1Lines) then s else
  match lines.getLast? with
  | none => s
  | some k => (List.range 4).foldl (fun s i => s.l1Drop core (4 * k + i)) s

/-- A sector brought into a core's L1. Its life is free, at most 16,384 clk (R157). -/
def State.l1Fill (s : State) (core sec : Nat) : State :=
  match s.l1Find core sec with
  | some _ => s
  | none =>
    let s := ((s.l1Room core sec).dieShare core sec).tickFree
    { s with l1 := ⟨core, 128 * sec, s.mem.read (128 * sec) 128, [], s.clk + Config.l1Life s.fresh % 16385, s.clk, false⟩ :: s.l1
             slices := s.homeTouch (128 * sec) 128 }

/-- A core's store to another package that is on its way. -/
def State.sentBy (s : State) (core : Nat) (r : RalpexReq) : Bool := r.cmd.isNone && ((s.wg? r.wg).map (·.core == core)).getD false

/-- Bytes of a core's stores to other packages that are on their way: its threads see them already (R158, R159). -/
def State.underway (s : State) (core : Nat) : List Host.Cell :=
  s.ralpex.flatMap fun r => if s.sentBy core r then cellsAt r.pa r.bs else []

/-- A store of a core to bytes of another package is on its way: what is read or changed at the home waits for it (R159, R161). -/
def State.sentTo (s : State) (core pa n : Nat) : Bool :=
  s.ralpex.any fun r => s.sentBy core r && decide (r.pa < pa + n ∧ pa < r.pa + r.bs.length)

/-- A core's plain read of bytes of one sector: from the L1 copy where there is one, else at the PACKAGE point. -/
def State.coreRead (s : State) (core pa n : Nat) (ca : Bool) : List Byte :=
  overlay pa (match (if ca then s.l1Find core (sectorOf pa) else none) with
    | some c => (c.data.drop (pa % 128)).take n
    | none => s.pkgRead pa n) (s.underway core)

/-- A core's plain write of bytes of one sector: into its L1 when the page is cacheable (R157). -/
def State.coreWrite (s : State) (core pa : Nat) (ca : Bool) (bs : List Byte) : State :=
  if !ca then (s.l1Drop core (sectorOf pa)).pkgWrite pa bs else
  let s := s.l1Fill core (sectorOf pa)
  let o := pa % 128
  { s with l1 := s.l1.map fun c =>
      if c.core = core ∧ c.pa = 128 * sectorOf pa then
        { c with data := c.data.take o ++ bs ++ c.data.drop (o + bs.length)
                 dirty := ((List.range bs.length).map (· + o)).filter (!c.dirty.contains ·) ++ c.dirty }
      else c }

/-- A read of bytes at a core: one that finds a completion word has observed the command (R164, R192). A copy that an engine has
written behind holds none. -/
def State.seesWord (s : State) (core pa n : Nat) (ca : Bool) : State :=
  let stale := ((if ca then s.l1Find core (sectorOf pa) else none).map (·.behind)).getD false
  if !stale && s.cwords.any fun x => decide (x < pa + n ∧ pa < x + 8) then s.l1Observe core else s

/-! A thread's own view of global memory. -/

/-- Global bytes an entry will write. -/
def SqAct.cells : SqAct → List Host.Cell
  | .memory _ pa _ _ bs => cellsAt pa bs
  | .spilled ws => ws.flatMap fun w => cellsAt w.2.1 w.2.2.2.2
  | .release _ _ pa _ _ bs => cellsAt pa bs
  | _ => []

/-- Window bytes an entry will write. -/
def SqAct.wcells : SqAct → List Host.Cell
  | .window ws => ws.flatMap fun w => cellsAt w.1 w.2
  | _ => []

/-- Bytes of a blank an entry will write. -/
def SqAct.bcells (v : Nat) : SqAct → List Host.Cell
  | .blank x ws => if x = v then ws.flatMap fun w => cellsAt w.1 w.2 else []
  | _ => []

def BufAct.cells : BufAct → List Host.Cell
  | .store a => a.cells
  | .atomic _ => []

/-- Buffered bytes that a workgroup's own threads see, the older first: those of a contained workgroup, then those of a leading copy's
matched intervals, then those of its interval in progress (R353, R358). -/
def Workgroup.bufCells (w : Workgroup) : List Host.Cell :=
  (match w.contain with | some k => k.buf.flatMap (·.act.cells) | none => []) ++
  (match w.redun with | some r => (r.rel ++ r.buf).flatMap (·.act.cells) | none => [])

/-- MIRPART, ALLOW and ROUTE, which need the secure world (R384): no rule states what a read outside it
returns. -/
def secureReg (o : Nat) : Bool := decide ((0x10 ≤ o ∧ o < 0x12) ∨ (0x18 ≤ o ∧ o < 0x1C) ∨ (0x1000 ≤ o ∧ o < 0x11B0))

/-- Bytes of the device-register range as a world sees them. -/
def worldBytes (clk : Nat) (secure : Bool) (pa : Nat) (bs : List Byte) : List Byte :=
  if secure || !isIo pa then bs
  else bs.zipIdx.map fun b =>
    let o := paLocal pa - 0x7000000000 + b.2
    if secureReg o then Config.guardedByte clk o else b.1

/-- The bytes a thread's plain read returns: the core's, under the workgroup's buffered bytes, the thread's store queue
and its transaction's buffered stores (R143, R158, R169, R353, R358). -/
def State.threadBytes (s : State) (w : Workgroup) (t pa n : Nat) (ca : Bool) : List Byte :=
  let th := w.threads[t]?
  let base := overlay pa (worldBytes s.clk w.secure pa (s.coreRead w.core pa n ca)) w.bufCells
  match th with
  | none => base
  | some th =>
    let b := th.sq.foldl (fun b e => overlay pa b e.act.cells) base
    if th.tx.active then th.tx.writes.foldl (fun b x => overlay pa b (cellsAt x.1 x.2)) b else b

/-- A read reaches poisoned data: a poisoned sector, an unreachable package, or no route to the home (R348, R375,
R387). -/
def State.readPoisoned (s : State) (core pa n : Nat) (ca : Bool) : Bool :=
  if (if ca then s.l1Find core (sectorOf pa) else none).isSome then false
  else s.poisoned pa n || (if s.remote pa then !s.pkgReachable pa || !Config.ralpexAnswers s.fresh pa
       else !s.routed (dieOf core) (homeDie pa))

/-! The local-store window (R127 to R130). -/

/-- Why a window byte is refused: 0 out of range, 1 in an anvil-mode slab (R129). -/
def Workgroup.lsBad (w : Workgroup) (a : Nat) : Option Nat :=
  if a ≥ w.lsbytes then some 0
  else match w.slabs[a / 65536]? with
    | some sl => if sl.anvil then some 1 else none
    | none => none

/-- A core's LSERR for a context (R129): the record that came first. -/
def LsErr.value (e : LsErr) : Word64 := if e.held.getLsbD 63 then e.held else e.new

/-- LSERR as it stood before this clk: what a read that is sampled in it finds. -/
def LsErr.sample (e : LsErr) (clk : Nat) : Word64 := if e.at_ = clk then e.held else e.value

def State.lsErr (s : State) (n core : Nat) : LsErr :=
  ((s.ctx n).lserr.find? (·.core == core)).getD ⟨core, 0, 0, 0, (0, 0, 0)⟩

def State.lserr (s : State) (n core : Nat) : Word64 := (s.lsErr n core).value

def State.putLsErr (s : State) (n : Nat) (e : LsErr) : State :=
  s.updCtx n fun c => { c with lserr := (if e.value = 0 then [] else [e]) ++ c.lserr.filter (·.core != e.core) }

def State.setLserr (s : State) (n core : Nat) (v : Word64) : State := s.putLsErr n ⟨core, v, s.clk, 0, (0, 0, 0)⟩

/-- LSERRQ clears LSERR; a record of this clk comes after the clear (R129). -/
def State.clearLserr (s : State) (n core : Nat) : State :=
  let e := s.lsErr n core
  s.putLsErr n (if e.at_ = s.clk then { e with held := 0 } else ⟨core, 0, s.clk, 0, (0, 0, 0)⟩)

/-- The order of records within one clk: home wave, home lane, address (R129). -/
def keyBefore (x y : Nat × Nat × Nat) : Bool :=
  decide (x.1 < y.1 ∨ (x.1 = y.1 ∧ (x.2.1 < y.2.1 ∨ (x.2.1 = y.2.1 ∧ x.2.2 < y.2.2))))

/-- The record of a refused byte of an access (R130). -/
def Workgroup.lsWord (w : Workgroup) (wr : Bool) (a : Nat) : Word64 :=
  BitVec.ofNat 64 (2^63 + ((w.lsBad a).getD 0) * 2^33 + (if wr then 2^32 else 0) + a % 2^32)

/-- The refused bytes of an access, each with the thread it is made for: the first of this clk is kept, and stands in LSERR
where that held no record before (R129). -/
def State.lsRecord (s : State) (w : Workgroup) (wr : Bool) (cells : List (Nat × Nat)) : State :=
  cells.foldl (fun s x =>
    if (w.lsBad x.2).isNone then s else
    let e := s.lsErr w.ctx w.core
    let e := if e.at_ = s.clk then e else ⟨w.core, e.value, s.clk, 0, (0, 0, 0)⟩
    let k := (x.1 / 32, x.1 % 32, x.2)
    if e.new = 0 ∨ keyBefore k e.key then s.putLsErr w.ctx { e with new := w.lsWord wr x.2, key := k } else s) s

/-- A window byte as an access reads it: a refused or poisoned byte reads 0 (R129, R348). -/
def Workgroup.winByte (w : Workgroup) (a : Nat) : Byte :=
  if (w.lsBad a).isSome || w.poison.contains (a / 4) then 0 else w.window.get a

/-- Window bytes written, refused bytes dropped; a poisoned word is clean once written (R129, R367). -/
def Workgroup.winWrite (w : Workgroup) (cells : List Host.Cell) : Workgroup :=
  let ok := cells.filter fun c => (w.lsBad c.1).isNone
  { w with window := w.window.writeCells ok
           poison := w.poison.filter fun p => !ok.any fun c => c.1 / 4 == p }

/-- A flipped word is corrected and recorded when it is read once (R347, R367). -/
def State.winTouch (s : State) (w : Workgroup) (addrs : List Nat) : State :=
  let hit := w.flips.filter fun p => addrs.any fun a => a / 4 == p
  if hit.isEmpty then s else
  let s := hit.foldl (fun s p => s.recordErr (dieOf w.core)
    { ue := false, inj := true, unit := 0x04, core := w.core, ctx := some w.ctx, w1 := 4 * p + 2^62 + 2^63 }) s
  s.updWg w.uid fun w => { w with flips := w.flips.filter fun p => !hit.contains p }

/-- read_local (R41) for a thread: the bytes at window addresses, with the LSERR record of the access. -/
def State.localRead (s : State) (u t : Nat) (addrs : List Nat) : List Byte × State :=
  match s.wg? u with
  | none => (addrs.map fun _ => 0, s)
  | some w => (addrs.map w.winByte, (s.lsRecord w false (addrs.map (t, ·))).winTouch w addrs)

/-- write_local (R41) for a thread. -/
def State.localWrite (s : State) (u t : Nat) (cells : List Host.Cell) : State :=
  match s.wg? u with
  | none => s
  | some w => (s.lsRecord w true (cells.map fun c => (t, c.1))).updWg u (·.winWrite cells)

/-- A thread's window bytes under its own store queue (R143). -/
def Workgroup.threadWin (w : Workgroup) (t : Nat) (addrs : List Nat) : List Byte :=
  let q := ((w.threads[t]?).map fun th => th.sq.flatMap (·.act.wcells)).getD []
  addrs.map fun a => match (q.filter (·.1 == a)).getLast? with
    | some c => if (w.lsBad a).isSome then 0 else c.2
    | none => w.winByte a

/-! Tiles (R131, R135, R148). -/

def descBase (e : Word64) : Nat := e.toNat % 2^20
def descRows (e : Word64) : Nat := e.toNat / 2^20 % 2^12 + 1
def descPitch (e : Word64) : Nat := 16 * (e.toNat / 2^32 % 2^12 + 1)
def descSize (e : Word64) : Nat := 2^(e.toNat / 2^44 % 4)
def descSwz (e : Word64) : Nat := e.toNat / 2^46 % 4

/-- Bytes of a tile without its trailer. -/
def descBytes (e : Word64) : Nat := descRows e * descPitch e

/-- The byte of a tile, from its base, that holds logical byte `o` of row `row` (R135). -/
def descOff (e : Word64) (row o : Nat) : Nat :=
  row * descPitch e + (if descSwz e = 1 then 4 * ((o / 4) ^^^ (row % 32)) + o % 4 else o)

/-- The offsets of the `n` logical bytes from `o` on of a row. -/
def descOffs (e : Word64) (row o n : Nat) : List Nat := (List.range n).map fun i => descOff e row (o + i)

def State.tile? (s : State) (u k : Nat) : Option Tile := (s.wg? u).bind (·.tiles[k]?)

def Workgroup.updTile (w : Workgroup) (k : Nat) (f : Tile → Tile) : Workgroup := { w with tiles := w.tiles.modify k f }

def State.updTile (s : State) (u k : Nat) (f : Tile → Tile) : State := s.updWg u (·.updTile k f)

def TileState.code : TileState → Nat
  | .free => 0 | .empty => 1 | .filling => 2 | .ready => 3 | .draining => 4

def Workgroup.view? (w : Workgroup) (e : Nat) : Option View := w.views.find? (·.entry == e)

def Workgroup.updView (w : Workgroup) (e : Nat) (f : View → View) : Workgroup :=
  { w with views := w.views.map fun v => if v.entry = e then f v else v }

/-- A merge copies its shadow into a tile, or waits to: nothing may make the tile FILLING or DRAINING until it has (R307). -/
def State.mergeHolds (s : State) (u k : Nat) : Bool :=
  s.merges.any fun m => m.tgt.1 == u && m.shadow.isSome && ((s.wg? u).bind (·.view? m.tgt.2)).map View.store == some (.tile k)

/-- A thread's instruction names tiles, and has observed what engines wrote where one of them is READY (R164). -/
def State.seesReady (s : State) (u : Nat) (ns : List Nat) : State :=
  match s.wg? u with
  | none => s
  | some w => if ns.any fun n => ((w.tiles[n]?).map (·.st == .ready)).getD false then s.l1Observe w.core else s

/-- A fill may start in a tile (R132, R197, R307). -/
def State.fillable (s : State) (u k : Nat) (x : Tile) : Bool :=
  (x.st == .empty || x.st == .ready) && x.readers == 0 && x.lent == 0 && !s.mergeHolds u k

/-- Where a byte of a tile stands: in the window, in a blank's granules, or in the spill area (R303). -/
inductive Spot where
  | win (a : Nat)
  | blank (v o : Nat)
  | spill (va : Nat)
  deriving DecidableEq, Repr

def spotOf (s : State) (w : Workgroup) (t : Tile) (o : Nat) : Spot :=
  match t.view with
  | none => .win (descBase t.desc + o)
  | some e =>
    match (w.view? e).map View.store with
    | some (.local_ ..) => .blank e o
    | some (.spill b _) => .spill ((s.ctx w.ctx).desc.vspill + b + o)
    | _ => .win (descBase t.desc + o)

/-- The fill of an identity over a blank (R298, R302): `S` bytes, the trailer 0. -/
def opIdentity (op : Nat) : Nat × Nat :=
  match op with
  | 0 => (4, 0) | 1 => (8, 0) | 2 => (4, 0x80000000) | 3 => (4, 0x7FFFFFFF) | 4 => (4, 0x7F800000)
  | 5 => (4, 0x80000000) | 6 => (4, 0xFF800000) | 7 => (4, 0) | 8 => (4, 0xFFFFFFFF) | _ => (4, 0)

def identityBytes (op : Nat) (desc : Word64) : List Byte :=
  let i := opIdentity op
  (List.range (descBytes desc)).map (fun o => BitVec.ofNat 8 (i.2 / 256^(o % i.1))) ++ [0, 0, 0, 0]

/-- A tile's byte as a thread reads it, poison left aside. Spilled bytes are read at physical addresses. -/
def State.spotByte (s : State) (w : Workgroup) (t : Nat) (p : Spot) (pa : Nat → Nat) (ca : Bool) : Byte :=
  match p with
  | .win a => (w.threadWin t [a]).headD 0
  | .blank v o =>
    let q := ((w.threads[t]?).map fun th => th.sq.flatMap (·.act.bcells v)).getD []
    match (q.filter (·.1 == o)).getLast? with
    | some c => c.2
    | none => match (w.view? v).map View.store with
      | some (.local_ _ m) => m.get o
      | _ => 0
  | .spill va => (s.threadBytes w t (pa va) 1 ca).headD 0

/-- The overflow counter put into the trailer, zero-extended, where it changed (R136). -/
def trailerBytes (n : Nat) : List Byte := toBytes 4 (n % 2^16)

end Sys2Proof.Machine
end

