-- ==== Sys2Proof/Machine/RegUse.lean ====
section
/-! DEFINITION. The register codes each instruction names, for REGBOUND (R36, R78): both registers of a pair, every
register of a group. -/

namespace Sys2Proof.Machine

/-- The data field by width (R138). -/
def widthCodes (w : BitVec 3) (d : RegCode) : List Nat :=
  if w = 5 then pairCodes d else if w = 6 then (List.range 4).map (· + d.toNat) else [d.toNat]

/-- Operand registers of an atomic: pairs for the 64-bit types (R174). -/
def atomCodes (x : Word) (c : RegCode) : List Nat :=
  if atomType x = 2 ∨ atomType x = 3 then pairCodes c else [c.toNat]

def regsOf : Instr → List Nat
  | .nop _ => []
  | .bra _ _ => []
  | .brp _ _ => []
  | .brn _ _ => []
  | .brx _ a => srcRegs a
  | .jmp _ a => pairCodes a
  | .callr _ d a => pairCodes d ++ pairCodes a
  | .ret _ => []
  | .call _ _ => []
  | .meet _ _ => []
  | .unmeet _ => []
  | .exit _ => []
  | .voteAny _ _ _ _ => []
  | .voteAll _ _ _ _ => []
  | .voteBallot _ d _ _ => [d.toNat]
  | .shflIdx _ d a b => [d.toNat] ++ srcRegs a ++ srcRegs b
  | .shflUp _ d a b => [d.toNat] ++ srcRegs a ++ srcRegs b
  | .shflDown _ d a b => [d.toNat] ++ srcRegs a ++ srcRegs b
  | .shflXor _ d a b => [d.toNat] ++ srcRegs a ++ srcRegs b
  | .shape _ d a _ => [d.toNat] ++ srcRegs a
  | .tagq _ d a => [d.toNat] ++ srcRegs a
  | .movx _ d a => [d.toNat] ++ srcRegs a
  | .movxw _ a b => srcRegs a ++ srcRegs b
  | .mov _ d a => [d.toNat] ++ (if a = 63 then [] else [a.toNat])
  | .movi _ d _ => [d.toNat]
  | .movh _ d _ => pairCodes d
  | .add _ d a b => [d.toNat] ++ srcRegs a ++ srcRegs b
  | .addc _ d a b => [d.toNat] ++ srcRegs a ++ srcRegs b
  | .sub _ d a b => [d.toNat] ++ srcRegs a ++ srcRegs b
  | .subb _ d a b => [d.toNat] ++ srcRegs a ++ srcRegs b
  | .neg _ d a => [d.toNat] ++ srcRegs a
  | .abs _ d a => [d.toNat] ++ srcRegs a
  | .mul _ d a b => [d.toNat] ++ srcRegs a ++ srcRegs b
  | .mulhI _ d a b => [d.toNat] ++ srcRegs a ++ srcRegs b
  | .mulhN _ d a b => [d.toNat] ++ srcRegs a ++ srcRegs b
  | .mad _ d a b => [d.toNat] ++ srcRegs a ++ srcRegs b
  | .madwI _ d a b => pairCodes d ++ srcRegs a ++ srcRegs b
  | .madwN _ d a b => pairCodes d ++ srcRegs a ++ srcRegs b
  | .minI _ d a b => [d.toNat] ++ srcRegs a ++ srcRegs b
  | .minN _ d a b => [d.toNat] ++ srcRegs a ++ srcRegs b
  | .maxI _ d a b => [d.toNat] ++ srcRegs a ++ srcRegs b
  | .maxN _ d a b => [d.toNat] ++ srcRegs a ++ srcRegs b
  | .and _ d a b => [d.toNat] ++ srcRegs a ++ srcRegs b
  | .or _ d a b => [d.toNat] ++ srcRegs a ++ srcRegs b
  | .xor _ d a b => [d.toNat] ++ srcRegs a ++ srcRegs b
  | .not _ d a => [d.toNat] ++ srcRegs a
  | .shl _ d a b => [d.toNat] ++ srcRegs a ++ srcRegs b
  | .shr _ d a b => [d.toNat] ++ srcRegs a ++ srcRegs b
  | .sar _ d a b => [d.toNat] ++ srcRegs a ++ srcRegs b
  | .rot _ d a b => [d.toNat] ++ srcRegs a ++ srcRegs b
  | .bfxI _ d a b => [d.toNat] ++ srcRegs a ++ srcRegs b
  | .bfxN _ d a b => [d.toNat] ++ srcRegs a ++ srcRegs b
  | .bfi _ d a b _ => [d.toNat] ++ [a.toNat] ++ [b.toNat]
  | .popc _ d a => [d.toNat] ++ srcRegs a
  | .clz _ d a => [d.toNat] ++ srcRegs a
  | .brev _ d a => [d.toNat] ++ srcRegs a
  | .sel _ _ d a b => [d.toNat] ++ srcRegs a ++ srcRegs b
  | .icmp _ _ _ a b => srcRegs a ++ srcRegs b
  | .plop _ _ _ _ _ => []
  | .adda _ d a b => pairCodes d ++ pairCodes a ++ srcRegs64 b
  | .lea _ d b => pairCodes d ++ srcRegs b
  | .fadd _ t d a b => (if t = 1 then pairCodes d else [d.toNat]) ++ (if t = 1 then srcRegs64 a else srcRegs a) ++ (if t = 1 then srcRegs64 b else srcRegs b)
  | .fsub _ t d a b => (if t = 1 then pairCodes d else [d.toNat]) ++ (if t = 1 then srcRegs64 a else srcRegs a) ++ (if t = 1 then srcRegs64 b else srcRegs b)
  | .fmul _ t d a b => (if t = 1 then pairCodes d else [d.toNat]) ++ (if t = 1 then srcRegs64 a else srcRegs a) ++ (if t = 1 then srcRegs64 b else srcRegs b)
  | .ffma _ t d a b => (if t = 1 then pairCodes d else [d.toNat]) ++ (if t = 1 then srcRegs64 a else srcRegs a) ++ (if t = 1 then srcRegs64 b else srcRegs b)
  | .fmin _ t d a b => (if t = 1 then pairCodes d else [d.toNat]) ++ (if t = 1 then srcRegs64 a else srcRegs a) ++ (if t = 1 then srcRegs64 b else srcRegs b)
  | .fmax _ t d a b => (if t = 1 then pairCodes d else [d.toNat]) ++ (if t = 1 then srcRegs64 a else srcRegs a) ++ (if t = 1 then srcRegs64 b else srcRegs b)
  | .fcmp _ t d a b => [d.toNat] ++ (if t = 1 then srcRegs64 a else srcRegs a) ++ (if t = 1 then srcRegs64 b else srcRegs b)
  | .fclass _ t d a => [d.toNat] ++ (if t = 1 then srcRegs64 a else srcRegs a)
  | .fsqrt _ t d a => (if t = 1 then pairCodes d else [d.toNat]) ++ (if t = 1 then srcRegs64 a else srcRegs a)
  | .fdiv _ t d a b => (if t = 1 then pairCodes d else [d.toNat]) ++ (if t = 1 then srcRegs64 a else srcRegs a) ++ (if t = 1 then srcRegs64 b else srcRegs b)
  | .frcp _ t d a => (if t = 1 then pairCodes d else [d.toNat]) ++ (if t = 1 then srcRegs64 a else srcRegs a)
  | .frsq _ t d a => (if t = 1 then pairCodes d else [d.toNat]) ++ (if t = 1 then srcRegs64 a else srcRegs a)
  | .fex2 _ t d a => (if t = 1 then pairCodes d else [d.toNat]) ++ (if t = 1 then srcRegs64 a else srcRegs a)
  | .flg2 _ t d a => (if t = 1 then pairCodes d else [d.toNat]) ++ (if t = 1 then srcRegs64 a else srcRegs a)
  | .fsin _ t d a => (if t = 1 then pairCodes d else [d.toNat]) ++ (if t = 1 then srcRegs64 a else srcRegs a)
  | .fcos _ t d a => (if t = 1 then pairCodes d else [d.toNat]) ++ (if t = 1 then srcRegs64 a else srcRegs a)
  | .cvt _ _ d a i => (if cvtDst64 i then pairCodes d else [d.toNat]) ++ (if cvtSrc64 i then srcRegs64 a else srcRegs a)
  | .cvtr _ _ d a i => (if cvtDst64 i then pairCodes d else [d.toNat]) ++ (if cvtSrc64 i then srcRegs64 a else srcRegs a)
  | .bpack _ _ d a b => [d.toNat] ++ srcRegs a ++ srcRegs b
  | .bunpack _ _ d a b => [d.toNat] ++ srcRegs a ++ srcRegs b
  | .bscaleRead _ d a _ => [d.toNat] ++ srcRegs a
  | .bscaleWrite _ d a _ => [d.toNat] ++ srcRegs a
  | .fmtq _ d a => [d.toNat] ++ srcRegs a
  | .fmtqSlot _ d _ => [d.toNat]
  | .fmtqElem _ d _ => [d.toNat]
  | .fpack2 _ d a b => [d.toNat] ++ srcRegs a ++ srcRegs b
  | .funpk2 _ d a b => [d.toNat] ++ srcRegs a ++ srcRegs b
  | .ld _ w d a _ => widthCodes w d ++ pairCodes a
  | .st _ w d a _ => widthCodes w d ++ pairCodes a
  | .ldu _ w d a _ => widthCodes w d ++ pairCodes a
  | .ldl _ w d a _ => widthCodes w d ++ [a.toNat]
  | .stl _ w d a _ => widthCodes w d ++ [a.toNat]
  | .pref _ _ a _ => pairCodes a
  | .tdef _ _ a _ => pairCodes a
  | .tfree _ _ => []
  | .tqry _ _ d _ => [d.toNat]
  | .tld _ _ d a b _ => [d.toNat] ++ [a.toNat] ++ [b.toNat]
  | .tst _ _ d a b _ => [d.toNat] ++ [a.toNat] ++ [b.toNat]
  | .ldtr _ d a b _ => [d.toNat] ++ [a.toNat] ++ [b.toNat]
  | .lserrq _ _ d => pairCodes d
  | .cctl _ _ a _ => pairCodes a
  | .fence _ _ _ => []
  | .bar _ _ => []
  | .barx _ a _ => srcRegs a
  | .gsync _ => []
  | .arrive _ _ d a _ => [d.toNat] ++ srcRegs a
  | .awaitb _ a _ => srcRegs a
  | .waitv _ _ d a _ => [d.toNat] ++ pairCodes a
  | .lda _ _ d a _ => [d.toNat] ++ pairCodes a
  | .strl _ _ d a _ => [d.toNat] ++ pairCodes a
  | .atom _ f d a b x => (if f = 1 then [] else atomCodes x d) ++ pairCodes a ++ atomCodes x b
  | .atomc _ _ d a b x => atomCodes x d ++ pairCodes a ++ atomCodes x b
  | .red _ a b x => pairCodes a ++ atomCodes x b
  | .tbegin _ _ => []
  | .tend _ => []
  | .tabort _ b => srcRegs b
  | .tstat _ d => [d.toNat]
  | .cpy _ a => pairCodes a
  | .cpyg _ a => pairCodes a
  | .cpys _ a => pairCodes a
  | .cpyx _ a => pairCodes a
  | .cqbind _ _ => []
  | .cqstat _ _ d _ => [d.toNat]
  | .cqdrain _ _ => []
  | .hlut _ a => pairCodes a
  | .hlutw _ a => pairCodes a
  | .hsum _ _ d a => [d.toNat] ++ srcRegs a
  | .slabm _ _ _ => []
  | .wload _ f a _ => (if f = 1 then srcRegs a else srcRegs64 a)
  | .wbmap _ _ a _ => srcRegs a
  | .wscale _ _ a _ => srcRegs a
  | .elect _ _ => []
  | .amv _ a _ => pairCodes a
  | .amvb _ a _ => pairCodes a
  | .await _ _ => []
  | .cralloc _ _ a _ => srcRegs a
  | .crfree _ a _ => srcRegs a
  | .crzero _ a _ => srcRegs a
  | .crrd _ _ d a _ => [d.toNat] ++ srcRegs a
  | .lease _ a _ => srcRegs a
  | .unlease _ _ => []
  | .omap _ a _ => pairCodes a
  | .mma _ a => pairCodes a
  | .nzscan _ a _ => pairCodes a
  | .mmag _ a => pairCodes a
  | .epi _ a => pairCodes a
  | .crwr _ d a _ => [d.toNat] ++ srcRegs a
  | .launch _ d a => [d.toNat] ++ pairCodes a
  | .lwait _ d a => [d.toNat] ++ srcRegs a
  | .migrate _ _ a => srcRegs a
  | .qput _ _ a _ => (List.range 8).map (· + a.toNat)
  | .qputw _ _ a _ => (List.range 8).map (· + a.toNat)
  | .qstat _ d _ => [d.toNat]
  | .targ _ d _ => [d.toNat]
  | .tdone _ a _ => srcRegs a
  | .stnc _ a _ => pairCodes a
  | .vdecl _ _ _ _ => []
  | .spawn _ _ a _ => (List.range 8).map (· + a.toNat)
  | .vtile _ _ _ => []
  | .solder _ => []
  | .vsync _ => []
  | .vqry _ d _ => [d.toNat]
  | .trap _ _ => []
  | .eret _ => []
  | .yield _ a => pairCodes a
  | .dbrk _ _ => []
  | .sleep _ a => srcRegs a
  | .scall _ _ => []
  | .sret _ => []
  | .mfs _ d n => (if sysWide n then pairCodes d else [d.toNat])
  | .mts _ a n => (if sysWide n then srcRegs64 a else srcRegs a)
  | .tlbi _ a k => (if k = 1 then pairCodes a else [])
  | .ctxsw _ d a _ => [d.toNat] ++ srcRegs a
  | .commit _ => []
  | .sigq _ d _ => pairCodes d
  | .errq _ d a _ => pairCodes d ++ srcRegs a
  | .errclr _ a => srcRegs a
  | .errinj _ a k => (if k = 2 then [] else pairCodes a)
  | .mirf _ _ => []
  | .hmq _ d a _ => pairCodes d ++ srcRegs a
  | .asgn _ d a _ => [d.toNat] ++ srcRegs a
  | .keyi _ a => pairCodes a
  | .keyroll _ _ a _ => srcRegs a
  | .quar _ a _ => srcRegs a
  | .dieq _ d a => [d.toNat] ++ srcRegs a
  | .bundleFormation => []
  | .clauseFetch => []
  | .resultLands => []
  | .loadResultLands => []
  | .storeLeavesQueue => []
  | .atomicPerformed => []
  | .tokenGrant => []
  | .barrierRelease => []
  | .gsyncSwapOut => []
  | .gsyncComplete => []
  | .waitvReread => []
  | .l1CopyExpiry => []
  | .trapEntry => []
  | .breakpoint => []
  | .copyAcceptance => []
  | .copyCommandStart => []
  | .copySegmentArrival => []
  | .copyFinish => []
  | .hsumSample => []
  | .hearthRedAccept => []
  | .hearthRedApply => []
  | .hlutWaveStep => []
  | .hearthRefresh => []
  | .anvilOperationStart => []
  | .permitGroupEnd => []
  | .anvilOperationComplete => []
  | .mmaStart => []
  | .mmaComplete => []
  | .nzscanComplete => []
  | .epiStart => []
  | .epiComplete => []
  | .crallocGrant => []
  | .noprogress => []
  | .leaseGrant => []
  | .launchAcceptance => []
  | .workgroupPlacement => []
  | .workgroupRetire => []
  | .launchCompletion => []
  | .migrateMove => []
  | .taskPutPlacement => []
  | .taskRefill => []
  | .stencilEvaluation => []
  | .taskDispatch => []
  | .merge => []
  | .mergeCommit => []
  | .contextSaveComplete => []
  | .workgroupRestore => []
  | .yieldDeadlineExpiry => []
  | .watchdog => []
  | .sleepExpiry => []
  | .qputwTimeout => []
  | .commitPoint => []
  | .mirrorTimeout => []
  | .patrolScrub => []
  | .flitCrcFailure .. => []
  | .packageReset => []
  | .assay => []
  | .assayTimeout => []
  | .linkTraining => []
  | .keyGenerationDrop .. => []
  | .rolloverRequest .. => []
  | .powerGrantPeriod => []
  | .ralpexTimeout => []
  | .ralpexRequest => []
  | .hostMemoryAccess .. => []
  | .doorbell .. => []
  | .launchRingRead => []
  | .ctxcmdSave .. => []
  | .ctxcmdResume .. => []
  | .ctxcmdQuery .. => []
  | .taskPut .. => []
  | .irqstatClear .. => []
  | .pkgidWrite .. => []
  | .allowWrite .. => []
  | .ctxtabWrite .. => []
  | .deviceRegisterWrite .. => []
  | .keyInstallAcknowledgement => []
  | .mirrorAcknowledgement => []
  | .thermalLimit .. => []
  | .migrateArrival => []

end Sys2Proof.Machine
end

