-- ==== Sys2Proof/Machine/Issue.lean ====
section
/-! DEFINITION. Clauses, bundles and issue: headers and their waits (R26 to R28), fetching and checking a clause (R30),
candidates and bundle formation (R71 to R75, R397), meet registers (R76), ports and pipes (R74, R93), what stands
around the meaning of an issued word, and debug (R335 to R337). -/

namespace Sys2Proof.Machine

/-! Headers (R26). -/

def hdrValid (h : Nat) : Bool := h / 2^29 == 5 && h % 16 != 0 && !h.testBit 15
def hdrCount (h : Nat) : Nat := h % 16
def hdrClass (h : Nat) : Nat := h / 16 % 8
def hdrRegroup (h : Nat) : Bool := h.testBit 7
def hdrMeet (h : Nat) : Bool := h.testBit 28

/-- The port of an engine class (R34). -/
def portOf (cls : Nat) : Nat := if cls = 0 ∨ cls = 1 ∨ cls = 4 then 0 else 1

/-- The clause-level checks on the words from index `i` of `n` (R30). A word whose major is unassigned belongs to no
class and takes no extension. `skip` is whether the next word is an extension. A word of NOP's major whose other bits are not 0,
which raises ILLOP when it is reached, passes as NOP: the model's choice (log entry 27). -/
def clauseOk (cls n : Nat) : Nat → Bool → List Word → Bool
  | _, _, [] => true
  | i, true, _ :: ws => clauseOk cls n (i + 1) false ws
  | i, false, w :: ws =>
    let m := majorOf w.toNat
    if unassigned m then clauseOk cls n (i + 1) false ws
    else
      let ext := takesExt w.toNat
      let k := if ext then 1 else 0
      (classOf m == cls || classOf m == 0 || m == 0) && (!transferWord w.toNat || i + k == n - 1) && decide (i + k < n) &&
        clauseOk cls n (i + 1) ext ws

/-- Whether index `i` of the words is an instruction and not an extension word (R341). -/
def isInstrWord : Bool → Nat → List Word → Bool
  | _, _, [] => false
  | true, 0, _ => false
  | true, i + 1, _ :: ws => isInstrWord false i ws
  | false, 0, _ => true
  | false, i + 1, w :: ws => isInstrWord (!unassigned (majorOf w.toNat) && takesExt w.toNat) i ws

/-! Reading code. -/

/-- One code word for a workgroup's threads: a fault code and its address, or the word (R30, R348). -/
def State.codeWord (s : State) (w : Workgroup) (va : Nat) : Except (Nat × Nat) Nat :=
  match s.translate (some w.core) w.ctx w.secure .exec (va % 2^48) with
  | .error e => .error (e, va % 2^48)
  | .ok l =>
    if s.readPoisoned w.core l.pa 4 l.c then .error (UNCORRECTABLE, va % 2^48)
    else .ok (leNat (s.coreRead w.core l.pa 4 l.c))

def State.readWords (s : State) (w : Workgroup) (va : Nat) : Nat → Except (Nat × Nat) (List Word)
  | 0 => .ok []
  | n + 1 =>
    match s.codeWord w va with
    | .error e => .error e
    | .ok x => match s.readWords w (va + 4) n with
      | .error e => .error e
      | .ok xs => .ok (BitVec.ofNat 32 x :: xs)

/-- The first of `n` code words whose translation faults: its code and address. -/
def State.wordsFault (s : State) (w : Workgroup) (va : Nat) : Nat → Option (Nat × Nat)
  | 0 => none
  | n + 1 =>
    match s.translate (some w.core) w.ctx w.secure .exec (va % 2^48) with
    | .error e => some (e, va % 2^48)
    | .ok _ => s.wordsFault w (va + 4) n

/-- The words of a clause: the fault of a translation, on one page or on two, comes before what the words hold (R30). -/
def State.codeWords (s : State) (w : Workgroup) (va n : Nat) : Except (Nat × Nat) (List Word) :=
  match s.wordsFault w va n with
  | some e => .error e
  | none => s.readWords w va n

/-- The header at an address, read without any effect. -/
def State.peekHeader (s : State) (w : Workgroup) (pc : CodeAddr) : Option Nat :=
  match s.codeWord w pc.toNat with
  | .ok h => if hdrValid h then some h else none
  | .error _ => none

/-- The whole clause at a header: a fault (code, address), or the header and its words (R26, R30). -/
def State.fetchClause (s : State) (w : Workgroup) (hdr : CodeAddr) : Except (Nat × Nat) (Nat × List Word) :=
  match s.codeWord w hdr.toNat with
  | .error e => .error e
  | .ok h =>
    if !hdrValid h then .error (ILLCLAUSE, 0)
    else match s.codeWords w (hdr.toNat + 4) (hdrCount h) with
      | .error e => .error e
      | .ok ws => if clauseOk (hdrClass h) (hdrCount h) 0 false ws then .ok (h, ws) else .error (ILLCLAUSE, 0)

/-! Waits (R27, R28). -/

/-- The tiles a clause names for wT (R28): X[5:0] of TLD, TST and LDTR, and d of VDECL. `skip` is whether the next word is an
extension word, which is data and names nothing. -/
def namedTiles : Bool → List Word → List Nat
  | _, [] => []
  | true, _ :: ws => namedTiles false ws
  | false, w :: ws =>
    let m := majorOf w.toNat
    let here := if m = 0x41 ∨ m = 0x42 ∨ m = 0x43 then (ws.take 1).map fun x => x.toNat % 64
      else if m = 0x7A ∧ w.toNat / 2^18 % 8 = 0 then [w.toNat / 2^12 % 64] else []
    here ++ namedTiles (takesExt w.toNat) ws

/-- The counter waits of a header hold for a thread (R26, R27). A tile number at or above TILES names no tile of the workgroup
and holds nothing back: the model's choice, since R26 and R28 do not say whether the header waits (log entry 50). -/
def waitsHold (w : Workgroup) (th : Thread) (h : Nat) (ws : List Word) : Bool :=
  let lthr := h / 2^16 % 16
  let sthr := h / 2^20 % 16
  let mthr := h / 2^24 % 16
  (!h.testBit 8 || decide (th.ctr.l ≤ lthr)) && (!h.testBit 9 || decide (th.ctr.s ≤ sthr)) &&
  (!h.testBit 10 || decide (th.ctr.c ≤ sthr)) && (!h.testBit 11 || decide (th.ctr.m ≤ mthr)) &&
  (!h.testBit 12 || (namedTiles false ws).all fun k => ((w.tiles[k]?).map (·.st == .ready)).getD true) &&
  (!h.testBit 13 || th.ctr.a == 0) && (!h.testBit 14 || th.ctr.v == 0)

/-- The header whose waits stand before a thread: that of its pc, or of the clause it stands in. -/
def Thread.hdrAddr (th : Thread) : CodeAddr :=
  match th.mid with
  | some (h, _) => h
  | none => th.pc

/-- The header that stands before the thread waits for nothing: none of wL to wV is set (R26). -/
def State.waitless (s : State) (w : Workgroup) (th : Thread) : Bool :=
  match s.codeWord w th.hdrAddr.toNat with
  | .ok h => h / 2^8 % 128 == 0
  | .error _ => true

/-- The waits of the thread's header, where that clause can be read; one that cannot faults when it is fetched. -/
def State.headerWaits (s : State) (w : Workgroup) (th : Thread) : Bool :=
  s.waitless w th || match s.fetchClause w th.hdrAddr with
    | .ok (h, ws) => waitsHold w th h ws
    | .error _ => true

/-! Who may run. -/

def State.halted (s : State) (n : Nat) : Bool := (s.ctx n).dbgctl.getLsbD 1

/-- The thread that DBGSTEP selects, with a count left (R337). -/
def State.stepSel (s : State) (w : Workgroup) (t : Nat) : Bool :=
  let c := s.ctx w.ctx
  let v := c.dbgstep.toNat
  s.halted w.ctx && c.stepping.isNone && v % 1024 == w.core && v / 2^10 % 16 == w.slot && v / 2^14 % 1024 == t &&
    v / 2^24 % 16 != 0

/-- The dies a workgroup needs: its own, and its partner copy's (R376). -/
def State.wgDiesLive (s : State) (w : Workgroup) : Bool :=
  s.dieLive (dieOf w.core) && match w.redun.bind fun r => s.wg? r.partner with
    | some q => s.dieLive (dieOf q.core)
    | none => true

/-- A workgroup's threads may issue: its context is RUNNING and neither being saved nor halted, and its dies are LIVE; while
a save waits for a yield, the workgroups asked to yield go on (R324, R328, R332, R336, R376). -/
def State.wgRuns (s : State) (w : Workgroup) : Bool :=
  ((s.ctx w.ctx).state == .running && (s.ctx w.ctx).saving.isNone || w.yreq) && !w.yielded && s.wgDiesLive w

def State.mayRun (s : State) (w : Workgroup) (t : Nat) : Bool := s.wgRuns w && (!s.halted w.ctx || s.stepSel w t)

/-- A thread waits at a header for a counter (R72), or at a word inside a clause that R397 treats as such a header. -/
def State.counterBlocked (s : State) (w : Workgroup) (th : Thread) : Bool :=
  (th.st == .ready || th.st == .live && th.mid.isNone) && !s.headerWaits w th

/-- Blocked under R72. A thread that waits at TBEGIN for the token has left its bundle and is not blocked, and one that waits in
KEYI is: R72 lists neither wait, both are the model's choice (log entry 49). -/
def State.isBlocked (s : State) (w : Workgroup) (th : Thread) : Bool :=
  match th.st with
  | .blocked .token => false
  | .blocked _ => true
  | .parked _ => true
  | _ => s.counterBlocked w th

/-- A candidate (R71, R397). -/
def State.candidate (s : State) (w : Workgroup) (t : Nat) (th : Thread) : Bool :=
  th.st == .ready && decide (th.notBefore ≤ s.clk) && s.mayRun w t && !s.uncounted w.uid t &&
    !(th.drain && s.outstanding w.uid t) && s.headerWaits w th

/-! Meet registers (R76). -/

/-- A thread that has reached its meet point is held. -/
def State.shouldHold (s : State) (w : Workgroup) (th : Thread) : Bool :=
  th.st == .ready && th.mid.isNone && th.meet == some th.pc && ((s.peekHeader w th.pc).map hdrMeet).getD false

def State.holdThreads (s : State) (w : Workgroup) : Workgroup :=
  { w with threads := w.threads.map fun th => if s.shouldHold w th then { th with st := .held } else th }

def Thread.unexited (th : Thread) : Bool := th.st != .exited && th.st != .idle

/-- Whether a held thread of home wave `hw` is released: no sibling below its meet address, or every sibling blocked, those at or
above that address too: the model's reading of "every such sibling" (R76, log entry 49). -/
def State.released (s : State) (w : Workgroup) (i : Nat) (th : Thread) : Bool :=
  let sibs := (w.threads.zipIdx.filter fun p => p.2 / 32 == i / 32 && p.2 != i && p.1.st != .held && p.1.unexited &&
    p.1.meet == th.meet).map (·.1)
  th.st == .held && (!sibs.any (fun q => decide (q.pc.toNat < (th.meet.getD 0).toNat)) || sibs.all (s.isBlocked w))

def State.releaseHeld (s : State) (w : Workgroup) : Workgroup :=
  { w with threads := w.threads.zipIdx.map fun p =>
      if s.released w p.2 p.1 then { p.1.release s.clk with meet := none } else p.1 }

/-- Threads reach and leave their meet points, all those of one change together (R76). -/
def State.settleMeets (s : State) : State :=
  if s.wgs.any fun w => w.threads.any fun th => th.meet.isSome then
    let s1 := { s with wgs := s.wgs.map fun w => s.holdThreads w }
    { s1 with wgs := s1.wgs.map fun w => s1.releaseHeld w }
  else s

/-! Bundle formation (R73). -/

/-- The launch priority of a workgroup (R261). -/
def State.prioOf (s : State) (w : Workgroup) : Nat := (s.lrOf w).prio

/-- The candidates of a core, with their workgroup. -/
def State.candidates (s : State) (core : Nat) : List (Workgroup × Nat × Thread) :=
  (s.wgs.filter (·.core == core)).flatMap fun w =>
    (w.threads.zipIdx.filter fun p => s.candidate w p.2 p.1).map fun p => (w, p.2, p.1)

/-- Whether `x` comes before `y` for the age boost: longer wait, older home wave, lower home lane. -/
def boostBefore (x y : Workgroup × Nat × Thread) : Bool :=
  if x.2.2.since ≠ y.2.2.since then decide (x.2.2.since < y.2.2.since)
  else if x.1.age ≠ y.1.age then decide (x.1.age < y.1.age)
  else if x.2.1 / 32 ≠ y.2.1 / 32 then decide (x.2.1 / 32 < y.2.1 / 32)
  else decide (x.2.1 % 32 < y.2.1 % 32)

def bestOf {α : Type} (before : α → α → Bool) : List α → Option α
  | [] => none
  | x :: xs => match bestOf before xs with
    | none => some x
    | some y => if before y x then some y else some x

/-- Whether `x`'s workgroup comes before `y`'s: higher PRIO, served least recently, resident longest; then the lower
pc. -/
def State.pickBefore (s : State) (x y : Workgroup × Nat × Thread) : Bool :=
  if s.prioOf x.1 ≠ s.prioOf y.1 then decide (s.prioOf x.1 > s.prioOf y.1)
  else if x.1.served ≠ y.1.served then decide (x.1.served < y.1.served)
  else if x.1.age ≠ y.1.age then decide (x.1.age < y.1.age)
  else decide (x.2.2.pc.toNat < y.2.2.pc.toNat)

/-- The candidate a formation starts from, and whether it was boosted by age (R73). -/
def State.leader (s : State) (cs : List (Workgroup × Nat × Thread)) : Option ((Workgroup × Nat × Thread) × Bool) :=
  match bestOf boostBefore (cs.filter fun c => decide (s.clk ≥ c.2.2.since + 1024)) with
  | some c => some (c, true)
  | none => (bestOf s.pickBefore cs).map (·, false)

/-- The threads of the bundle: for each home lane the candidate at that pc from the oldest home wave; a boosted one
keeps its own lane. Candidates at one pc that stand in clauses of different headers are kept apart, since a bundle has one
header: the model's choice, R73 names the pc alone (log entry 49). -/
def gather (cs : List (Workgroup × Nat × Thread)) (l : (Workgroup × Nat × Thread) × Bool) : List Nat :=
  let here := (cs.filter fun c => c.1.uid == l.1.1.uid && c.2.2.pc == l.1.2.2.pc && c.2.2.mid == l.1.2.2.mid).map (·.2.1)
  (List.range 32).filterMap fun j =>
    if l.2 && l.1.2.1 % 32 == j then some l.1.2.1 else minOf (here.filter (· % 32 == j))

/-- One bundle formed on a core (R73); a stepped thread is alone in its bundle (R337). -/
def State.formBundle (s : State) (core : Nat) : Option State :=
  let cs := s.candidates core
  match s.leader cs with
  | none => none
  | some l =>
    let w := l.1.1
    let th := l.1.2.2
    let ts := if s.halted w.ctx then [l.1.2.1] else gather cs l
    let b : Bundle :=
      { id := s.nextId, core := core, wg := w.uid, tids := ts, hdr := th.hdrAddr, words := none,
        idx := (th.mid.map (·.2)).getD 0, cls := 0, formed := s.clk, notBefore := s.clk + 1, rest := [], crwr := none, tlbi := none }
    let s := { s with bundles := s.bundles ++ [b], nextId := s.nextId + 1, ports := (core, 2) :: s.ports }
    some ((s.updThreads w.uid ts fun _ th => { th with st := .live }).updWg w.uid fun w => { w with served := s.clk })

/-- The cores that hold a workgroup. -/
def State.busyCores (s : State) : List Nat := (s.wgs.map (·.core)).eraseDups

/-- BUNDLE_FORMATION: at clk ≡ 0 (mod 4), at most one bundle on each core, fewer than 32 live there (R73, R74). Every core counts
from package reset: R73 counts from core reset, and no rule says when a core of a die that was reset alone begins to count
(log entry 49). -/
def fireBundleFormation (s : State) : Option State :=
  if s.clk % 4 ≠ 0 then none else
  s.busyCores.findSome? fun core =>
    if s.ports.contains (core, 2) || decide ((s.bundles.filter (·.core == core)).length ≥ 32) then none
    else s.formBundle core

/-- CLAUSE_FETCH: the clause of a bundle is fetched whole and checked (R30); a fault of it is taken at the header by
every thread. A thread with consumed poison outstanding takes UNCORRECTABLE at the header it has reached (R348). -/
def State.fetchFor (s : State) (b : Bundle) (w : Workgroup) : State :=
  let bad := if b.idx = 0 then b.tids.filter fun t => (((s.thread? w.uid t).bind (·.poison))).isSome else []
  let faultAt := fun (s : State) (t code addr : Nat) =>
    (s.updThread w.uid t fun th =>
      { th with pc := if b.idx = 0 then b.hdr else th.pc, mid := if b.idx = 0 then none else some (b.hdr, b.idx) }).deliver
      w.uid t ⟨code, BitVec.ofNat 64 addr, b.hdr, clsOf b.hdr b.idx⟩
  let s := bad.foldl (fun s t =>
    let a := (((s.thread? w.uid t).bind (·.poison)).getD 0).toNat
    faultAt (s.updThread w.uid t fun th => { th with poison := none }) t UNCORRECTABLE a) s
  let ts := b.tids.filter (!bad.contains ·)
  if ts.isEmpty then s else
  match s.fetchClause w b.hdr with
  | .error e => ts.foldl (fun s t => faultAt s t e.1 e.2) s
  | .ok (h, ws) =>
    if b.idx ≥ hdrCount h || !isInstrWord false b.idx ws then ts.foldl (fun s t => faultAt s t ILLCLAUSE 0) s
    else (s.noteTlb w.core w.ctx b.hdr.toNat).updBundle b.id fun b => { b with words := some ws, cls := hdrClass h }

/-! Issue (R74). -/

/-- VALU issue intervals above 1 (R93). -/
def issueInterval (w : Nat) : Nat :=
  let fn := w / 2^18 % 8
  match majorOf w with
  | 0x12 => if fn = 4 ∨ fn = 5 then 2 else 1
  | 0x20 | 0x21 | 0x22 | 0x23 | 0x24 | 0x25 => if fn = 1 then 4 else 1
  | 0x28 | 0x29 => if fn = 1 then 16 else 8
  | 0x2A | 0x2B => if fn = 1 then 8 else 2
  | 0x2C | 0x2D => 2
  | 0x2E | 0x2F => 4
  | _ => 1

def isValu (w : Nat) : Bool := !unassigned (majorOf w) && classOf (majorOf w) == 0

def State.pipeFree (s : State) (core port : Nat) : Bool :=
  !s.pipes.any fun p => p.1 == core && p.2.1 == port && decide (s.clk < p.2.2)

/-- A live bundle can issue its next word in this clk. At a header with regroup = 0 a thread whose counter wait is not met stays
in its bundle, which waits with it: R74 says so, and R72 and R397 could be read to take it out (log entry 49). -/
def State.canIssue (s : State) (b : Bundle) : Bool :=
  match b.words, s.wg? b.wg with
  | some ws, some w =>
    decide (b.notBefore ≤ s.clk) && !s.ports.contains (b.core, portOf b.cls) &&
    (b.tids.all fun t => s.mayRun w t) &&
    (b.tids.all fun t => match w.threads[t]? with
      | some th => !(th.drain && s.outstanding w.uid t) &&
          (b.idx != 0 || !s.uncounted w.uid t && s.headerWaits w th)
      | none => true) &&
    (!isValu (ws.getD b.idx 0).toNat || s.pipeFree b.core (portOf b.cls))
  | _, _ => false

/-- The bundle that issues next: on each port the earliest formed that can (R74); within a clk, cores in ascending order
(R346, R381). -/
def State.nextIssue (s : State) : Option Bundle :=
  bestOf (fun x y => decide (x.core < y.core)) (s.bundles.filter s.canIssue)

/-- The breakpoint number that matches an address in a context (R336). -/
def State.bpMatch (s : State) (n : Nat) (a : CodeAddr) : Option Nat :=
  (List.range 4).find? fun i => (s.ctx n).dbgctl.getLsbD (4 + i) &&
    ((s.ctx n).dbgbp.getD i 0).toNat / 4 % 2^46 == a.toNat / 4

/-- The address of word `i` of a clause. -/
def wordAddr (hdr : CodeAddr) (i : Nat) : CodeAddr := hdr + BitVec.ofNat 48 (4 * (i + 1))

/-- The context halts: its threads stop at their next boundary and nothing is saved (R336). -/
def State.haltCtx (s : State) (n : Nat) : State :=
  (s.freezeCtx n).updCtx n fun c => { c with dbgctl := c.dbgctl ||| 6 }

/-- A debug event for a thread at a word (R336): DEBUG to the handler, or the halt of the context. -/
def State.debugEvent (s : State) (u t : Nat) (n : Nat) (r : TrapRec) : State :=
  if (s.ctx n).dbgctl.getLsbD 0 then s.haltCtx n else s.deliver u t r

/-- BREAKPOINT: a thread about to issue a word at an enabled breakpoint address; taken before issue (R325, R336). -/
def fireBreakpoint (s : State) : Option State :=
  match s.nextIssue with
  | none => none
  | some b => match s.wg? b.wg with
    | none => none
    | some w =>
      let a := wordAddr b.hdr b.idx
      match s.bpMatch w.ctx a with
      | none => none
      | some k =>
        let hit := b.tids.filter fun t => !(((w.threads[t]?).map (·.skipBp)).getD true)
        if hit.isEmpty then none else
        some (hit.foldl (fun s t =>
          let s := s.updThread w.uid t fun th => { th with pc := a, mid := some (b.hdr, b.idx) }
          (s.debugEvent w.uid t w.ctx ⟨DEBUG, BitVec.ofNat 64 k, a, clsOf b.hdr b.idx⟩).updThread w.uid t fun th =>
            if (s.ctx w.ctx).dbgctl.getLsbD 0 then { th with skipBp := true } else th) s)

/-- The issue of a bundle's next word: who issues what, with the threads already standing past it. A header's wait on M has
observed what the awaited operations wrote (R164). -/
def State.beginIssue (s : State) (b : Bundle) (w : Workgroup) : State × Except DecodeError Instr :=
  let ws := (b.words.getD []).drop b.idx
  let d := decode ws
  let len := match d with
    | .ok (_, n) => n
    | .error _ => 1
  let addr := wordAddr b.hdr b.idx
  let next := wordAddr b.hdr (b.idx + len)
  let last := decide (b.idx + len ≥ (b.words.getD []).length)
  let port := portOf b.cls
  let c : Issue :=
    { bundle := b.id, core := b.core, wg := b.wg, tids := b.tids, hdr := b.hdr, idx := b.idx, addr := addr, next := next,
      len := len, last := last, port := port }
  let s := { s with cur := some c, ports := (b.core, port) :: s.ports }
  let s := if b.idx = 0 ∧ ((s.peekHeader w b.hdr).getD 0).testBit 11 then s.l1Observe b.core else s
  let s := s.updBundle b.id fun b => { b with idx := b.idx + len }
  let s := s.updThreads w.uid b.tids fun _ th =>
    { th with pc := next, mid := if last then none else some (b.hdr, b.idx + len), here := ⟨addr, b.hdr, b.idx⟩,
              skipBp := false, since := s.clk, notBefore := s.clk, drain := ((ws.headD 0).toNat.testBit 31) }
  (s, d.map (·.1))

/-- Majors that neither copy of a REDUN launch may hold (R349), by word. -/
def redunExcluded (i : Instr) : Bool :=
  match i with
  | .tbegin .. => true
  | .ctxsw .. => true
  | i => let m := majorOf (encodeWord i); decide (0x58 ≤ m ∧ m ≤ 0x7A)

/-- Instructions that a transaction admits (R169); EXIT acts by its own entry. -/
def txAdmits (i : Instr) : Bool :=
  let m := majorOf (encodeWord i)
  match i with
  | .ld .. => true | .ldu .. => true | .st .. => true | .ldl .. => true | .stl .. => true | .tld .. => true
  | .tst .. => true | .ldtr .. => true | .pref .. => true | .tstat .. => true | .tabort .. => true | .tend .. => true
  | _ => classOf m == 0 || classOf m == 4

/-- Threads with an open transaction that the word may not run in: it is not performed and the transaction aborts with
cause FAULT and fault code TXFAULT (R169). The issue goes on without them. -/
def State.screenTx (s : State) (c : Issue) (i : Instr) (g : Guard) : State :=
  if txAdmits i then s else
  let bad := (active s c g).filter fun t => (((s.thread? c.wg t).map (·.tx.active))).getD false
  if bad.isEmpty then s else
  let s := bad.foldl (fun s t => s.abortTx c.wg t 5 TXFAULT 0) s
  { s with cur := some { c with tids := c.tids.filter (!bad.contains ·) } }

/-- The guard of an instruction word: bits 23:21 (R32). In BRP and BRN the field is the condition, so every thread takes
part. -/
def guardOf (w : Nat) : Guard :=
  let m := majorOf w
  ⟨w.testBit 31, if m = 2 ∨ m = 3 then 0 else BitVec.ofNat 3 (w / 2^21)⟩

/-- The groups that a bundle's threads make at the end of a clause: those of each pc whose header has regroup = 0 go on
together (R74); a thread at its meet point is held and goes on in none. -/
def State.goOn (s : State) (w : Workgroup) (b : Bundle) : List Group :=
  let ths : List (Nat × Thread) := b.tids.filterMap fun t => (w.threads[t]?).map fun th => (t, th)
  ((ths.map fun x => x.2.pc).eraseDups).filterMap fun pc =>
    match s.peekHeader w pc with
    | none => none
    | some h =>
      if hdrRegroup h || s.halted w.ctx then none else
      let mine := ths.filter fun x => x.2.pc == pc && !s.shouldHold w { x.2 with st := .ready }
      if mine.isEmpty then none
      else some ⟨mine.map (·.1), pc, (mine.map (·.2.notBefore)).foldl max (s.clk + 1)⟩

/-- A bundle of a group, after a bundle that it parts from or takes the place of. -/
def Bundle.ofGroup (b : Bundle) (id : Nat) (g : Group) (rest : List Group) : Bundle :=
  { b with id := id, tids := g.tids, hdr := g.hdr, words := none, idx := 0, notBefore := g.notBefore, rest := rest }

/-- The bundles that groups make where `room` bundles may be live (R74): the first keeps those that cannot be split off. -/
def Bundle.split (b : Bundle) (id room : Nat) : List Group → List Bundle
  | [] => []
  | g :: r => b.ofGroup id g (r.drop (room - 1)) ::
      ((r.take (room - 1)).zipIdx.map fun x => b.ofGroup (id + 1 + x.2) x.1 [])

/-- The bundles that may be live on a core beside the others than `b` (R74). -/
def State.roomFor (s : State) (b : Bundle) : Nat := 33 - (s.bundles.filter (·.core == b.core)).length

/-- The end of a bundle's clause (R74): at headers with regroup = 0 its threads go on, those of each pc as a bundle of their
own; its other threads become candidates. While 32 bundles are live it is not split: it goes on with its first group, and the
others follow in its place or when there is room (log entry 49). -/
def State.splitBundle (s : State) (w : Workgroup) (b : Bundle) : State :=
  let gs := s.goOn w b ++ b.rest
  let new := b.split s.nextId (s.roomFor b) gs
  let stay := gs.flatMap Group.tids
  let s1 : State := { s with bundles := s.bundles.flatMap (fun x => if x.id = b.id then new else [x]),
                             nextId := s.nextId + gs.length }
  s1.updThreads w.uid (b.tids.filter (!stay.contains ·)) fun _ th =>
    if th.st = .live then { th with st := .ready, since := s.clk } else th

/-- A bundle whose groups could not be split is split once there is room (R74). -/
def State.settleSplits (s : State) : State :=
  match s.bundles.find? fun b => !b.rest.isEmpty && decide (1 < s.roomFor b) with
  | none => s
  | some b =>
    let off := b.rest.take (s.roomFor b - 1)
    let keep := { b with rest := b.rest.drop (s.roomFor b - 1) }
    let new := off.zipIdx.map fun x => b.ofGroup (s.nextId + x.2) x.1 []
    { s with bundles := s.bundles.flatMap (fun x => if x.id = b.id then keep :: new else [x]), nextId := s.nextId + off.length }

/-- The registers that an instruction's results are computed from in a thread (R160): those that it names, and for MOVX the one that its
index names, under each value that the index may have had while writes to it were outstanding. -/
def State.readsOf (s : State) (c : Issue) (i : Instr) (t : Nat) : List Nat :=
  regsOf i ++ match i with
    | .movx _ _ (.imm x) => [x.toNat]
    | .movx _ _ (.reg r) => ((s.img c.wg (t / 32) r.toNat).lane (t % 32) ::
        s.pend.filterMap (·.laneWrite c.wg (t / 32) r.toNat (t % 32))).map (·.toNat)
    | _ => []

/-- What the results of the word just issued were computed from, noted with them (R160). -/
def State.noteDeps (s : State) (c : Issue) (i : Instr) : State :=
  let deps := c.tids.filterMap fun t =>
    let d := s.depOf c.wg t (s.readsOf c i t)
    if d = 0 then none else some (t, d)
  { s with pend := s.pend.map fun p => if p.wg = c.wg ∧ p.deps = none then { p with deps := some deps } else p }

/-- After the meaning: the context has issued in this clk, the pipe is taken, and at the end of its clause the bundle
ends or continues (R74, R93, R333). -/
def State.endIssue (s : State) (word : Nat) : State :=
  match s.cur with
  | none => s
  | some c =>
    let s := { s with cur := none }
    match s.wg? c.wg with
    | none => s
    | some w =>
      let s := { s with issuedCtx := w.ctx :: s.issuedCtx }
      let s := if isValu word && decide (issueInterval word > 1) then
          { s with pipes := (c.core, c.port, s.clk + issueInterval word) ::
              s.pipes.filter fun p => !(p.1 == c.core && p.2.1 == c.port) } else s
      let s := if s.halted w.ctx then
          s.updCtx w.ctx fun x => { x with stepping := c.tids.head?.map (c.wg, ·) } else s
      match s.bundle? c.bundle, s.wg? c.wg with
      | some b, some w =>
        if s.halted w.ctx && !c.last then
          { s.updThreads w.uid b.members (fun _ th => if th.st = .live then { th with st := .ready, since := s.clk } else th)
            with bundles := s.bundles.filter (·.id != b.id) }
        else if c.last then s.splitBundle w b else s
      | _, _ => s

/-- After the meaning of an instruction: what its results depend on, then the end of the issue. -/
def State.endInstr (s : State) (i : Instr) (word : Nat) : State :=
  match s.cur with
  | none => s.endIssue word
  | some c => (s.noteDeps c i).endIssue word

/-- The issue of a bundle's next word up to its meaning: decode faults are raised whatever the guard (R36), majors that
REDUN excludes raise ILLOP (R349), transactions are screened (R169). The instruction, where one is to be executed. -/
def State.prepare (s : State) (b : Bundle) (w : Workgroup) : State × Option Instr :=
  let word := ((b.words.getD []).getD b.idx 0).toNat
  let r := s.beginIssue b w
  match r.1.cur with
  | none => (r.1, none)
  | some c =>
    match r.2 with
    | .error _ => (r.1.raiseAll c b.tids ILLOP 0, none)
    | .ok i =>
      if w.paired && redunExcluded i then (r.1.raiseAll c b.tids ILLOP 0, none)
      else if (regsOf i).any fun k => decide (w.regs ≤ k) then (r.1.raiseAll c b.tids REGBOUND 0, none)
      else (r.1.screenTx c i (guardOf word), some i)

/-- A stepped instruction is done when its thread has nothing outstanding, or has blocked; the count falls and at 0
stepdone is set (R337). -/
def State.stepSettle (s : State) (n : Nat) : State :=
  match (s.ctx n).stepping with
  | none => s
  | some (u, t) =>
    let busy := match s.thread? u t with
      | some th => match th.st with
        | .blocked _ => false
        | .parked _ => false
        | _ => s.outstanding u t || (s.cmds.any fun c => c.wg == u && c.tidx == t && !c.accepted)
      | none => false
    if busy then s else
    s.updCtx n fun c =>
      let v := c.dbgstep.toNat
      let k := v / 2^24 % 16
      { c with stepping := none, dbgstep := BitVec.ofNat 64 (v - 2^24),
               dbgctl := if k = 1 then c.dbgctl ||| 0x100 else c.dbgctl }

end Sys2Proof.Machine
end

