-- ==== Sys2Proof/Machine/Float.lean ====
section
/-! DEFINITION. The floating-point instructions of the VALU class, majors 0x20 to 0x2F (R110 to R118). -/

namespace Sys2Proof.Machine

/-- The elements of an operand of a type (R111). -/
def fpElems (ty : Nat) (x : Word64) : List Nat :=
  match ty with
  | 0 => [x.toNat % 2^32]
  | 1 => [x.toNat]
  | 2 => [x.toNat % 2^16]
  | 3 => [x.toNat % 2^16]
  | _ => [x.toNat % 2^16, x.toNat / 2^16 % 2^16]

/-- Result elements put together (R111). -/
def fpPack (rs : List Nat) : Word64 := BitVec.ofNat 64 (rs.getD 0 0 + 2^16 * rs.getD 1 0)

/-- A source of a floating-point type: a pair for f64 (R110, R111). -/
def fpSrc (s : State) (c : Issue) (ty : Nat) (a : Src) (t : Nat) : Word64 :=
  if ty = 1 then src64 s c a t else (src s c a t).setWidth 64

def fpSrcRegs (ty : Nat) (a : Src) : List Nat := if ty = 1 then srcRegs64 a else srcRegs a

/-- The controls one element is computed under (R95): format, rounding mode, flush; `ctl` holds the flush bits of all types,
the controls that a result not correctly rounded may depend on (R117). -/
structure FpEnv where
  fmt : Fmt
  mode : Nat
  ftz : Bool
  ctl : Nat
  ty : Nat

def fpEnv (ctl : Word) (ty : Nat) : FpEnv :=
  ⟨fpFmt ty, fpRound ctl (fpIndex ty), fpFtz ctl (fpIndex ty), ctl.toNat / 2^24 % 16, ty⟩

/-- The value of an element after input flushing (R97). -/
def FpEnv.val (e : FpEnv) (x : Nat) : Val := e.fmt.decode (flushIn e.fmt e.ftz x)

/-- An exact result rounded under the type's mode; vector results never saturate (R97). -/
def FpEnv.res (e : FpEnv) (r : Val × Nat) : Nat × Nat :=
  let q := e.fmt.round e.mode 0 e.ftz false r.1
  (q.bits, q.flags ||| r.2)

/-- Element by element over the operands, the flags of all ORed (R111). -/
def fpMap (e : FpEnv) (f : FpEnv → List Nat → Nat × Nat) (ops : List Word64) : FpRes :=
  let el := ops.map (fpElems e.ty)
  let n := (el.headD []).length
  let rs := (List.range n).map fun i => f e (el.map fun l => l.getD i 0)
  if e.ty = 1 then ⟨BitVec.ofNat 64 (rs.headD (0, 0)).1, (rs.headD (0, 0)).2⟩
  else ⟨fpPack (rs.map (·.1)), rs.foldl (fun a r => a ||| r.2) 0⟩

/-- A floating-point instruction whose result has its operands' type. `ops` gives a thread's operands. -/
def fpInstr (g : Guard) (ty : BitVec 3) (lat lat64 : Nat) (d : RegCode) (rs : List Nat)
    (ops : State → Issue → Nat → List Word64) (f : FpEnv → List Nat → Nat × Nat) (c : Issue) (s : State) : State :=
  let y := ty.toNat
  fpIssue s c (active s c g) (if y = 1 then lat64 else lat) d.toNat (y == 1) (allU s c rs) fun t =>
    fpMap (fpEnv (s.fpctl c.wg t) y) f (ops s c t)

/-- Two sources. -/
def fp2 (g : Guard) (ty : BitVec 3) (lat lat64 : Nat) (d : RegCode) (a b : Src) (f : FpEnv → Nat → Nat → Nat × Nat)
    (c : Issue) (s : State) : State :=
  fpInstr g ty lat lat64 d (fpSrcRegs ty.toNat a ++ fpSrcRegs ty.toNat b)
    (fun s c t => [fpSrc s c ty.toNat a t, fpSrc s c ty.toNat b t]) (fun e l => f e (l.getD 0 0) (l.getD 1 0)) c s

/-- One source. -/
def fp1 (g : Guard) (ty : BitVec 3) (lat lat64 : Nat) (d : RegCode) (a : Src) (f : FpEnv → Nat → Nat × Nat)
    (c : Issue) (s : State) : State :=
  fpInstr g ty lat lat64 d (fpSrcRegs ty.toNat a) (fun s c t => [fpSrc s c ty.toNat a t]) (fun e l => f e (l.getD 0 0)) c s

def FpEnv.rdn (e : FpEnv) : Bool := e.mode == 3

/-- FADD, FSUB, FMUL, FFMA (R112). NV is raised by a signalling NaN and by an invalid operation, as R43, R97 and R112 give it;
R55 can be read to ask it of every NaN operand of FFMA, which is not how the model reads it (log entry 48). -/
def fadd1 (e : FpEnv) (x y : Nat) : Nat × Nat := e.res (addV e.rdn (e.val x) (e.val y))
def fsub1 (e : FpEnv) (x y : Nat) : Nat × Nat := e.res (addV e.rdn (e.val x) (e.val y).neg)
def fmul1 (e : FpEnv) (x y : Nat) : Nat × Nat := e.res (mulV (e.val x) (e.val y))
def ffma1 (e : FpEnv) (x y z : Nat) : Nat × Nat := e.res (fmaV e.rdn (e.val x) (e.val y) (e.val z))

/-- FMIN and FMAX (R113): minimumNumber and maximumNumber of the flushed inputs; NV only for a signalling NaN. -/
def minMax1 (max : Bool) (e : FpEnv) (x y : Nat) : Nat × Nat :=
  let x := flushIn e.fmt e.ftz x
  let y := flushIn e.fmt e.ftz y
  let v := e.fmt.decode x
  let w := e.fmt.decode y
  let nv := if sigOf v || sigOf w then NV else 0
  let less := match cmpV v w with
    | some k => if k = 0 then v.sign && !w.sign else decide (k < 0)
    | none => false
  if v.isNan then (if w.isNan then e.fmt.nanBits else y, nv)
  else if w.isNan then (x, nv)
  else (if less != max then x else y, nv)

/-- FCMP (R114). -/
def fcmp1 (e : FpEnv) (x y : Nat) : Nat × Nat :=
  let v := e.val x
  let w := e.val y
  let nv := if sigOf v || sigOf w then NV else 0
  (match cmpV v w with
    | some k => if k < 0 then 0xFFFFFFFF else if k = 0 then 0 else 1
    | none => 2, nv)

/-- FCLASS (R115): the raw encoding. -/
def fclass1 (f : Fmt) (x : Nat) : Nat :=
  match f.decode x with
  | .nan sig => if sig then 2^8 else 2^9
  | .inf neg => if neg then 1 else 2^7
  | .num neg m _ _ =>
    if m = 0 then (if neg then 2^3 else 2^4)
    else if f.isSub x then (if neg then 2^2 else 2^5)
    else (if neg then 2^1 else 2^6)

/-- FDIV, FSQRT (R116). -/
def fdiv1 (e : FpEnv) (x y : Nat) : Nat × Nat := e.res (divV (e.fmt.frac + 4) (e.val x) (e.val y))
def fsqrt1 (e : FpEnv) (x : Nat) : Nat × Nat := e.res (sqrtV (e.fmt.frac + 4) (e.val x))

/-- An approximate function of one element; the free result is a fixed function of input bits and controls (R117). -/
def approx1 (fn : AFun) (e : FpEnv) (x : Nat) : Nat × Nat :=
  fn.eval e.fmt e.mode e.ftz (flushIn e.fmt e.ftz x) (Config.approx fn.code e.ty e.ctl x)

def execFadd (g : Guard) (ty : BitVec 3) (d : RegCode) (a b : Src) (s : State) : Host.Outcome State Fault Refusal :=
  s.issue (fp2 g ty 6 12 d a b fadd1)

def execFsub (g : Guard) (ty : BitVec 3) (d : RegCode) (a b : Src) (s : State) : Host.Outcome State Fault Refusal :=
  s.issue (fp2 g ty 6 12 d a b fsub1)

def execFmul (g : Guard) (ty : BitVec 3) (d : RegCode) (a b : Src) (s : State) : Host.Outcome State Fault Refusal :=
  s.issue (fp2 g ty 6 12 d a b fmul1)

/-- FFMA (R112): the addend is d. -/
def execFfma (g : Guard) (ty : BitVec 3) (d : RegCode) (a b : Src) (s : State) : Host.Outcome State Fault Refusal :=
  s.issue (fpInstr g ty 6 12 d (fpSrcRegs ty.toNat a ++ fpSrcRegs ty.toNat b ++ fpSrcRegs ty.toNat (.reg d))
    (fun s c t => [fpSrc s c ty.toNat a t, fpSrc s c ty.toNat b t, fpSrc s c ty.toNat (.reg d) t])
    (fun e l => ffma1 e (l.getD 0 0) (l.getD 1 0) (l.getD 2 0)))

def execFmin (g : Guard) (ty : BitVec 3) (d : RegCode) (a b : Src) (s : State) : Host.Outcome State Fault Refusal :=
  s.issue (fp2 g ty 6 12 d a b (minMax1 false))

def execFmax (g : Guard) (ty : BitVec 3) (d : RegCode) (a b : Src) (s : State) : Host.Outcome State Fault Refusal :=
  s.issue (fp2 g ty 6 12 d a b (minMax1 true))

/-- FCMP (R114): the relation is a 32-bit register for every type. -/
def execFcmp (g : Guard) (ty : BitVec 3) (d : RegCode) (a b : Src) (s : State) : Host.Outcome State Fault Refusal :=
  s.issue fun c s =>
    let y := ty.toNat
    fpIssue s c (active s c g) 4 d.toNat false (allU s c (fpSrcRegs y a ++ fpSrcRegs y b)) fun t =>
      let r := fcmp1 (fpEnv (s.fpctl c.wg t) y) ((fpElems y (fpSrc s c y a t)).headD 0) ((fpElems y (fpSrc s c y b t)).headD 0)
      ⟨BitVec.ofNat 64 r.1, r.2⟩

/-- FCLASS (R115): no flag, no flushing. -/
def execFclass (g : Guard) (ty : BitVec 3) (d : RegCode) (a : Src) (s : State) : Host.Outcome State Fault Refusal :=
  s.issue fun c s =>
    let y := ty.toNat
    fpIssue s c (active s c g) 4 d.toNat false (allU s c (fpSrcRegs y a)) fun t =>
      ⟨BitVec.ofNat 64 (fclass1 (fpFmt y) ((fpElems y (fpSrc s c y a t)).headD 0)), 0⟩

def execFsqrt (g : Guard) (ty : BitVec 3) (d : RegCode) (a : Src) (s : State) : Host.Outcome State Fault Refusal :=
  s.issue (fp1 g ty 24 48 d a fsqrt1)

def execFdiv (g : Guard) (ty : BitVec 3) (d : RegCode) (a b : Src) (s : State) : Host.Outcome State Fault Refusal :=
  s.issue (fp2 g ty 28 56 d a b fdiv1)

def execFrcp (g : Guard) (ty : BitVec 3) (d : RegCode) (a : Src) (s : State) : Host.Outcome State Fault Refusal :=
  s.issue (fp1 g ty 12 40 d a (approx1 .rcp))

def execFrsq (g : Guard) (ty : BitVec 3) (d : RegCode) (a : Src) (s : State) : Host.Outcome State Fault Refusal :=
  s.issue (fp1 g ty 12 40 d a (approx1 .rsq))

def execFex2 (g : Guard) (ty : BitVec 3) (d : RegCode) (a : Src) (s : State) : Host.Outcome State Fault Refusal :=
  s.issue (fp1 g ty 16 16 d a (approx1 .ex2))

def execFlg2 (g : Guard) (ty : BitVec 3) (d : RegCode) (a : Src) (s : State) : Host.Outcome State Fault Refusal :=
  s.issue (fp1 g ty 16 16 d a (approx1 .lg2))

def execFsin (g : Guard) (ty : BitVec 3) (d : RegCode) (a : Src) (s : State) : Host.Outcome State Fault Refusal :=
  s.issue (fp1 g ty 20 20 d a (approx1 .sin))

def execFcos (g : Guard) (ty : BitVec 3) (d : RegCode) (a : Src) (s : State) : Host.Outcome State Fault Refusal :=
  s.issue (fp1 g ty 20 20 d a (approx1 .cos))

end Sys2Proof.Machine
end

