-- ==== Sys2Proof/Machine/Stores.lean ====
section
/-! DEFINITION. How a store is performed: writes to the device-register range as the messages they are (R384 to R386),
mirrored pages (R165, R360), other packages (R387), the L1 (R157); the checks of a global access (R126, R140); what
transactions (R169, R170), redundant copies (R350 to R353) and containment (R358) make of an access; signatures (R351);
the records of consumed poison (R348, R361). -/

namespace Sys2Proof.Machine

/-! Accesses of the device-register range. -/

/-- An 8-byte register whose bytes from `o` on are replaced. -/
def mergeReg (old : Word64) (o : Nat) (bs : List Byte) : Word64 :=
  BitVec.ofNat 64 (leNat (overlay 0 (toBytes 8 old.toNat) (cellsAt o bs)))

/-- A CTXCMD value as a command (R385); one that names none is ignored. -/
def ctxcmdMsg (v : Word64) (secure : Bool) : Option Instr :=
  let x := v.toNat
  let n : BitVec 6 := BitVec.ofNat 6 x
  if x / 2^6 % 4 ≠ 0 ∨ x / 2^10 ≠ 0 then none
  else match x / 2^8 % 4 with
    | 0 => some (.ctxcmdSave n secure)
    | 1 => some (.ctxcmdResume n secure)
    | 2 => some (.ctxcmdQuery n secure)
    | _ => none

/-- The message that a 4-byte or 8-byte write at offset `o` of the range is. MIRPART, ALLOW and ROUTE need the secure
world: another write of them is dropped. CTXRES is written by the device alone. -/
def ioMessage (s : State) (secure : Bool) (o : Nat) (bs : List Byte) : Option Instr :=
  let v := leNat bs
  let plain : Instr := .deviceRegisterWrite (BitVec.ofNat 32 o) (decide (bs.length = 8)) (BitVec.ofNat 64 v)
  if o < 8 then some (.ctxtabWrite (mergeReg s.ctxtab o bs))
  else if o = 8 then some (.pkgidWrite (BitVec.ofNat 16 v))
  else if o = 0x10 then (if secure then some plain else none)
  else if o = 0x18 then some (.allowWrite (BitVec.ofNat 32 v))
  else if 0x20 ≤ o ∧ o < 0x28 then some (.irqstatClear (mergeReg 0 (o - 0x20) bs))
  else if 0x30 ≤ o ∧ o < 0x38 then ctxcmdMsg (mergeReg 0 (o - 0x30) bs) secure
  else if 0x38 ≤ o ∧ o < 0x40 then none
  else if 0x1000 ≤ o ∧ o < 0x11B0 then (if secure then some plain else none)
  else if 0x10000 ≤ o ∧ o < 0x11000 ∧ o % 64 < 8 then
    let n := (o - 0x10000) / 64
    some (.doorbell (BitVec.ofNat 6 n) secure (mergeReg (s.ctx n).doorbell (o % 64) bs))
  else if 0x20000 ≤ o ∧ o < 0x21000 ∧ o % 64 = 0x20 then
    some (.taskPut (BitVec.ofNat 6 ((o - 0x20000) / 64)) (BitVec.ofNat 6 v))
  else some plain

/-- A message of an agent of this world reaches the device in this clk. -/
def State.send (s : State) (secure : Bool) (i : Instr) : State := { s with inputs := s.inputs ++ [⟨s.clk, secure, i⟩] }

/-! Performing a write. -/

/-- 100 microseconds (R360, R387). -/
def timeout100 : Nat := 100 * Config.usClk

/-- A clk that a typical latency from now ends at. -/
def State.later (s : State) : Nat := s.clk + 1 + Config.latency s.fresh

/-- The data flit of a request to another package is dropped at a CLOSED or MGMT port, and counted in the link's error word (R372). -/
def Link.drop (l : Link) : Link := if l.state == .closed || l.state == .mgmt then { l with dropped := l.dropped + 1 } else l

/-- A package that cannot be reached: a record of unit 0x0B in the bank of the port's I/O die and vector 5 (R387). -/
def State.unreachable (s : State) (n : Nat) (pa : Nat) : State :=
  let port := 256 + s.routeByte (paPkg pa)
  let s := { s with links := s.links.map fun l : Link => if l.num = port then l.drop else l }
  (s.recordErr (ralpexDie (256 + s.routeByte (paPkg pa) % 18)) { ue := true, unit := 0x0B, ctx := some n, w1 := pa % 2^52 + 2^63 }).irq 5

/-- A write performed at the PACKAGE point, and at the mirror partner's for a page with M = 1 (R360). -/
def State.mirrorWrite (s : State) (u t pa : Nat) (mi : Bool) (bs : List Byte) : State :=
  let s := s.pkgWrite pa bs
  if mi && s.mirpart.toNat < 432 then
    let s := s.tickFree
    let s := { s with mirrors := s.mirrors ++ [(u, t, s.clk + timeout100, pa)] }
    if s.pkgReachable (s.mirpart.toNat * 2^43) then s.pkgWrite (s.mirpart.toNat * 2^43 + paLocal pa) bs else s
  else s

/-- A store is performed: as a message to IOD0 for the IO range, over Ralpex for another package, in the issuing core's L1 for
a cacheable page unless it goes to the PACKAGE point. A write with no route is dropped. -/
def State.perform (s : State) (w : Workgroup) (t pa : Nat) (ca mi wide : Bool) (bs : List Byte) : State :=
  if s.remote pa then
    if s.pkgReachable pa then
      let s := s.tickFree
      { s with ralpex := s.ralpex ++ [⟨w.uid, t, pa, bs, s.later, s.clk + timeout100, none⟩] }
    else s.unreachable w.ctx pa
  else if isIo pa then
    if !s.routed (dieOf w.core) 64 then s else
    match ioMessage s w.secure (paLocal pa - 0x7000000000) bs with
    | some m => s.send w.secure m
    | none => s
  else if ca && !wide && !mi then s.coreWrite w.core pa true bs
  else if !s.routed (dieOf w.core) (homeDie pa) then s
  else (s.l1Drop w.core (sectorOf pa)).mirrorWrite w.uid t pa mi bs

/-- A store-queue or store-buffer entry takes effect. `wide` sends its stores to the PACKAGE point. -/
def State.performAct (s : State) (w : Workgroup) (t : Nat) (wide : Bool) (a : SqAct) : State :=
  match a with
  | .window ws => s.localWrite w.uid t (ws.flatMap fun x => cellsAt x.1 x.2)
  | .blank v ws => s.updWg w.uid (·.updView v fun x => match x.store with
      | .local_ k m => { x with store := .local_ k (m.writeCells (ws.flatMap fun y => cellsAt y.1 y.2)) }
      | _ => x)
  | .memory _ pa ca mi bs => s.perform w t pa ca mi wide bs
  | .spilled xs => xs.foldl (fun s x => s.perform w t x.2.1 x.2.2.1 x.2.2.2.1 wide x.2.2.2.2) s
  | .release scope _ pa ca mi bs =>
    if scope < 3 then s.perform w t pa ca mi wide bs
    else (s.l1Release w.core).perform w t pa ca mi true bs
  | .cctl fn pa =>
    if isIo pa then s
    else match fn with
      | 0 =>
        let s := s.l1Clean w.core (sectorOf pa)
        { s with dcache := s.dcache.filter fun x => !(x.sec == sectorOf pa && x.die == dieOf w.core) }
      | 1 => s.dropAll (sectorOf pa)
      | _ => s.l1Drop w.core (sectorOf pa)
  | .retire q pa mi bit =>
    let s := (s.l1Release w.core).l1Drop w.core (sectorOf pa)
    let s := if s.poisoned pa 1 then s else s.mirrorWrite w.uid t pa mi [BitVec.ofNat 8 (leNat (s.pkgRead pa 1) ||| 2^bit)]
    s.updCtx w.ctx fun c => { c with tqs := c.tqs.modify q fun x => { x with evalDue := true } }

/-! Redundancy and containment around an access. -/

/-- A leading copy of a REDUN launch, whose stores are buffered (R353); SCREEN copies buffer nothing (R357). -/
def Workgroup.buffers (w : Workgroup) : Bool := match w.redun with | some r => !r.trailing && !r.screen | none => false

def Workgroup.trailing (w : Workgroup) : Bool := match w.redun with | some r => r.trailing | none => false

def Workgroup.contained (w : Workgroup) : Bool := match w.contain with | some k => k.on | none => false

def Workgroup.updRedun (w : Workgroup) (f : Redun → Redun) : Workgroup := { w with redun := w.redun.map f }

/-- Bytes of the store-buffer slot in use (R353). -/
def Redun.slotUse (r : Redun) : Nat := 32 * r.buf.length + 160 * r.segs.length

/-- The slot (R20). -/
def slotBytes : Nat := 65536

/-- The threads whose stores find room in a copy's slot, one after the other (R353): each takes `n` buffered stores and the segments
of its window addresses that the undo log does not hold. -/
def Workgroup.slotTakes (w : Workgroup) (n : Nat) (addrs : Nat → List Nat) (ts : List Nat) : List Nat :=
  match w.redun with
  | none => ts
  | some r =>
    if r.screen then ts else
    (ts.foldl (fun (a : List Nat × Nat × List Nat) t =>
      let new := (((addrs t).map (· / 128)).eraseDups).filter fun k => !r.segs.contains (r.point + 1, k) && !a.2.2.contains k
      let use := a.2.1 + (if r.trailing then 0 else 32 * n) + 160 * new.length
      if use > slotBytes then a else (a.1 ++ [t], use, a.2.2 ++ new)) ([], r.slotUse, [])).1

/-- The segments of a copy's window that the undo log takes (R353). -/
def State.logSegments (s : State) (u : Nat) (addrs : List Nat) : State :=
  s.updWg u (·.updRedun fun r => { r with
    segs := (((addrs.map (· / 128)).eraseDups.map (r.point + 1, ·)).filter (!r.segs.contains ·)) ++ r.segs })

/-- Buffered entries in the order of their release: each thread's in program order, those of different threads in an order
that is not fixed, free here (R353). -/
def releaseOrder (c : Nat) : Nat → List BufEntry → List BufEntry
  | 0, l => l
  | n + 1, l =>
    let ts := (l.map (·.tidx)).eraseDups
    match l.find? fun e => e.tidx == ts.getD (c % ts.length) 0 with
    | none => l
    | some e => e :: releaseOrder (c / ts.length) n (l.erase e)

/-- A workgroup becomes uncontained (R358): its held stores are performed from now on, each thread's in program order. -/
def State.uncontain (s : State) (u : Nat) : State :=
  match (s.wg? u).bind (·.contain) with
  | some k => if !k.on then s else
    s.tickFree.updWg u fun w => { w with contain := some ⟨false, releaseOrder (Config.choice s.fresh) k.buf.length k.buf⟩ }
  | none => s

def State.holding (s : State) (u : Nat) : Bool := ((s.wg? u).map Workgroup.holding).getD false

/-- `n` more held stores overflow a contained workgroup's slot (R358). -/
def State.containFull (s : State) (u n : Nat) : Bool :=
  match (s.wg? u).bind (·.contain) with
  | some k => k.on && decide (32 * (k.buf.length + n) > slotBytes)
  | none => false

/-- Released stores of a thread are still to be performed: its later ones come after them (R353, R358). -/
def Workgroup.releasing (w : Workgroup) (t : Nat) : Bool :=
  (match w.contain with | some k => !k.on && k.buf.any (·.tidx == t) | none => false) ||
  (match w.redun with | some r => r.rel.any (·.tidx == t) | none => false)

def State.releasing (s : State) (u t : Nat) : Bool := ((s.wg? u).map (·.releasing t)).getD false

/-- One record folded into a thread's signature (R351). -/
def sigRecord (addr : Nat) (data : List Byte) (mask kind fn : Nat) : List Byte :=
  toBytes 8 addr ++ (data ++ List.replicate 16 0).take 16 ++ toBytes 2 mask ++ toBytes 1 kind ++ toBytes 1 fn ++
    List.replicate 4 0

/-- A leading thread in the handler of REDUNMISMATCH, which no trailing thread runs beside it (R356). -/
def Thread.inMismatch (th : Thread) : Bool := th.priv && th.trap.cause.toNat % 256 == REDUNMISMATCH

def State.alone (s : State) (u t : Nat) : Bool := ((s.thread? u t).map Thread.inMismatch).getD false

/-- A record folded into the thread's signature. -/
def State.fold (s : State) (u t : Nat) (rec_ : List Byte) : State :=
  s.updThread u t fun th => if th.inMismatch then th else { th with sig := crc64 th.sig rec_ }

/-- A store folds its address, bytes and byte mask in a REDUN or SCREEN launch (R351). -/
def State.foldStore (s : State) (w : Workgroup) (t addr : Nat) (bs : List Byte) : State :=
  if w.redun.isSome then s.fold w.uid t (sigRecord addr bs (2^bs.length - 1) 0 0) else s

/-- The commit point that an interval in progress ends at. -/
def Redun.interval (r : Redun) : Nat := r.point + 1

/-- The interval in progress is marked mismatched. -/
def Redun.mark (r : Redun) : Redun := { r with bad := r.interval :: r.bad }

/-- A global store, STRL or CCTL goes where its workgroup's stores go: nowhere for a trailing copy, the buffer of a
leading or contained one, or the thread's store queue (R143, R353, R358). A store counts S only in the queue. The instruction has made
sure that there is room. -/
def State.enqueue (s : State) (w : Workgroup) (t seq : Nat) (count : Bool) (a : SqAct) : State :=
  if w.trailing then s
  else if w.buffers then
    s.updWg w.uid (·.updRedun fun r => { r with buf := r.buf ++ [⟨t, r.interval, .store a⟩] })
  else if ((s.wg? w.uid).map (·.contained)).getD false then
    s.updWg w.uid fun w => { w with contain := w.contain.map fun k => { k with buf := k.buf ++ [⟨t, 0, .store a⟩] } }
  else
    let s := s.updThread w.uid t fun th =>
      { th with sq := th.sq ++ [⟨s.later, seq, a⟩], ctr := if count then { th.ctr with s := th.ctr.s + 1 } else th.ctr }
    s.tickFree

/-- A local store's entry in the thread's store queue (R143). -/
def State.enqueueLocal (s : State) (u t seq : Nat) (a : SqAct) : State :=
  s.updThread u t fun th =>
    { th with sq := th.sq ++ [⟨s.clk + 1, seq, a⟩], ctr := { th.ctr with s := th.ctr.s + 1 } }

/-- The store queue of a thread is full (R143). -/
def State.sqFull (s : State) (u : Nat) (ts : List Nat) : Bool :=
  ts.any fun t => ((s.thread? u t).map fun th => decide (8 ≤ th.sq.length)).getD false

/-! Checks of a global access. -/

/-- Whether an access is checked against alignment and the widths of the IO range (R120, R140). -/
inductive AccessRule where
  | sized (n : Nat)
  /-- `n` bytes, and none in the IO range (R178) -/
  | memory (n : Nat)
  | any
  deriving DecidableEq, Repr

/-- translate with the checks of a global access, the lowest fault code of several (R120, R124, R126, R140). -/
def State.access (s : State) (w : Workgroup) (k : Kind) (ea : Word64) (r : AccessRule) : Except Nat Leaf :=
  match s.translate (some w.core) w.ctx true k ea.toNat with
  | .error e => .error e
  | .ok l =>
    let badIo := match r with
      | .sized n => isIo l.pa && n != 4 && n != 8
      | .memory _ => isIo l.pa
      | .any => false
    let badAlign := match r with
      | .sized n => ea.toNat % n != 0
      | .memory n => ea.toNat % n != 0
      | .any => false
    if badIo then .error PERMISSION
    else if l.s && !w.secure then .error WORLD
    else if badAlign then .error ALIGN
    else .ok l

/-- What becomes of one lane of a global access. -/
inductive LaneFate where
  | fault (code addr : Nat)
  | abort (cause fcode : Nat)
  /-- it waits: the sector is owned elsewhere (R163, R172) -/
  | wait
  | go (l : Leaf)
  deriving DecidableEq, Repr

/-- The sectors of a transaction's read set (R169). -/
def Tx.readSecs (x : Tx) : List Nat := x.reads.map (·.1)

/-- A transactional access aborts (R170): another package, SA = 1 or uncached, or a set that would pass its size. An access of
the IO range counts as uncached whatever its page, and of several causes the first of these is taken (log entry 51). -/
def Tx.refuses (x : Tx) (s : State) (l : Leaf) (write : Bool) : Option (Nat × Nat) :=
  if s.remote l.pa then some (5, TXFAULT)
  else if l.sa || !l.c || isIo l.pa then some (3, 0)
  else if write then
    (if !x.wsecs.contains (sectorOf l.pa) && decide (8 ≤ x.wsecs.length) then some (2, 0) else Option.none)
  else (if !x.readSecs.contains (sectorOf l.pa) && decide (16 ≤ x.reads.length) then some (2, 0) else Option.none)

/-- An atomic of a thread that is older than number `seq`, not performed, and overlaps bytes (R161: same bytes). -/
def State.ownAtom (s : State) (u t pa n seq : Nat) : Bool :=
  s.atoms.any fun a => a.wg == u && a.tidx == t && decide (a.id < seq) && decide (a.pa < pa + n ∧ pa < a.pa + 8)

/-- The fate of a lane's global access, made as thread `r` reads (`t` but in LDU). A store outside a transaction waits in the
store queue, an atomic where it is performed, and a copy that does not reach memory not at all. -/
def State.fate (s : State) (w : Workgroup) (t r : Nat) (k : Kind) (ea : Word64) (n : Nat) : LaneFate :=
  let tx := ((w.threads[t]?).map (·.tx)).getD .none
  match s.access w k ea (.sized n) with
  | .error e => if tx.active then .abort 5 e else .fault e (ea.toNat % 2^48)
  | .ok l =>
    match (if tx.active then tx.refuses s l (k == .write) else none) with
    | some (c, f) => .abort c f
    | none =>
      if k == .read && !w.trailing && (s.ownAtom w.uid t l.pa n s.nextId || s.ownAtom w.uid r l.pa n s.nextId) then .wait
      else if (k == .read || tx.active) && !w.trailing && s.ownedBy (dieOf w.core) l.pa n (if tx.token then some (.token w.uid t) else none) &&
          !(k == .read && l.c && !tx.token && (s.l1Find w.core (sectorOf l.pa)).isSome) then .wait
      else .go l

def LaneFate.leaf : LaneFate → Option Leaf
  | .go l => some l
  | _ => none

/-- The lanes of an access that end in a fault or an abort take it. -/
def State.settleFates (s : State) (c : Issue) (fs : List (Nat × LaneFate)) : State :=
  fs.foldl (fun s f => match f.2 with
    | .fault code addr => s.raise c f.1 code addr
    | .abort cause fcode => s.abortTx c.wg f.1 cause fcode 0
    | _ => s) s

/-! Consumed poison. -/

/-- A REDUN copy: it reserves doubled registers, and what it gets wrong is undone (R349, R355). -/
def Workgroup.copied (w : Workgroup) : Bool := match w.redun with | some r => !r.screen | none => false

/-- What comes of poisoned data is contained or undone: the workgroup is relaunched, or its interval is rolled back (R355, R358, R361). -/
def Workgroup.undoes (w : Workgroup) : Bool := w.copied || (w.contained && decide (w.kills < 3))

/-- The code that a record of poisoned data names: that of the fault delivered, or 0 where the workgroup is rolled back or killed (R348,
R358, R361). -/
def Workgroup.poisonCode (w : Workgroup) (code : Nat) : Nat := if w.copied || w.contain.isSome then 0 else code

/-- The record of poisoned memory that a thread consumes, in its home's bank, with the code of the fault that it ends in (R348, R361); a
package that did not answer has its own (R387). -/
def State.recordPoisonAs (s : State) (w : Workgroup) (pa code : Nat) : State :=
  if s.remote pa then s.unreachable w.ctx pa
  else if s.poisoned pa 1 then
    s.recordErr (homeDie pa)
      { ue := true, cont := w.undoes, inj := !s.lost.contains (sectorOf pa), unit := 0x09, core := w.core, ctx := some w.ctx,
        fault := w.poisonCode code, w1 := 128 * sectorOf pa + 2^63 }
  else s

def State.recordPoison (s : State) (w : Workgroup) (pa : Nat) : State := s.recordPoisonAs w pa UNCORRECTABLE

/-- The same for a poisoned word of a window (R347, R367), with the code of the fault that it ends in. -/
def State.recordWindow (s : State) (w : Workgroup) (a code : Nat) : State :=
  s.recordErr (dieOf w.core)
    { ue := true, cont := w.undoes, inj := true, unit := 0x04, core := w.core, ctx := some w.ctx, fault := w.poisonCode code,
      w1 := a / 4 * 4 + 2^62 + 2^63 }

def State.recordLocalPoison (s : State) (w : Workgroup) (a : Nat) : State := s.recordWindow w a UNCORRECTABLE

/-- A poisoned word among window addresses that a read reaches: one beyond the window or in a slab in anvil mode reads 0 (R129). -/
def Workgroup.poisonAt (w : Workgroup) (addrs : List Nat) : Option Nat :=
  addrs.find? fun a => w.poison.contains (a / 4) && (w.lsBad a).isNone

/-! STORE_LEAVES_QUEUE (R143, R158): the head of a queue whose time has come, behind the lower lanes of its own
instruction and not before the sector it writes is free (R128, R163). -/

/-- Where an entry acts in global memory: physical address and length of each run. -/
def SqAct.global : SqAct → List (Nat × Nat)
  | .memory _ pa _ _ bs => [(pa, bs.length)]
  | .spilled ws => ws.map fun w => (w.2.1, w.2.2.2.2.length)
  | .release _ _ pa _ _ bs => [(pa, bs.length)]
  | .cctl _ pa => [(pa, 1)]
  | .retire _ pa _ _ => [(pa, 1)]
  | _ => []

/-- An entry stores to bytes at a physical address. -/
def SqAct.touches (a : SqAct) (pa n : Nat) : Bool := a.global.any fun x => decide (x.1 < pa + n ∧ pa < x.1 + x.2)

/-- What the sectors of an entry wait for: nobody else owns them. -/
def State.entryFree (s : State) (w : Workgroup) (e : SqEntry) : Bool := e.act.global.all fun x => !s.ownedBy (dieOf w.core) x.1 x.2 none

/-- Whether a thread's own writes to other packages and to mirrored pages are all answered (R165, R360, R387). -/
def State.remoteDone (s : State) (u t : Nat) : Bool :=
  !(s.ralpex.any fun r => r.wg == u && r.tidx == t && r.cmd.isNone) && !(s.mirrors.any fun m => m.1 == u && m.2.1 == t)

/-- Whether, beside a thread's own, the writes that it may have observed are answered (R161, R165): those of its core to other
packages, and all those to mirrored pages. -/
def State.seenDone (s : State) (u t : Nat) : Bool :=
  s.remoteDone u t && s.mirrors.isEmpty && (((s.wg? u).map fun w => s.underway w.core).getD []).isEmpty

/-- A scope's point is that of PACKAGE or wider: RECT too where the rectangle covers several dies (R155). -/
def State.pkgScope (s : State) (u scope : Nat) : Bool :=
  decide (5 ≤ scope) || scope == 3 && match s.wg? u with
    | none => false
    | some w =>
      let r := s.lrOf w
      decide (r.x0 / 4 ≠ (r.x0 + r.w - 1) / 4 ∨ r.y0 / 4 ≠ (r.y0 + r.h - 1) / 4)

/-- What orders a thread's writes, and those that it has observed, at a scope waits for beside its own store queue (R161, R176, R177): from
RECT on for the stores of its core to other packages, which no other core sees before they land; at PACKAGE for mirrored pages too. -/
def State.scopeDone (s : State) (u scope t : Nat) : Bool :=
  (decide (scope < 3) || (((s.wg? u).map fun w => !s.ralpex.any (s.sentBy w.core)).getD true)) &&
  (!s.pkgScope u scope || s.seenDone u t)

/-- STRL waits until the thread's earlier reads and writes, and the writes it has observed, are performed at its scope (R177), and
TDONE until they are at PACKAGE (R294): the thread's loads are performed at issue and its stores have left the queue before it;
atomics with a result and answers from outside remain. -/
def State.entryReady (s : State) (u t : Nat) (e : SqEntry) : Bool :=
  match e.act with
  | .release scope _ _ _ _ _ =>
    !(s.atoms.any fun a => a.wg == u && a.tidx == t && a.result.isSome && decide (a.id < e.seq)) &&
    s.scopeDone u scope t
  | .retire .. =>
    !(s.atoms.any fun a => a.wg == u && a.tidx == t && a.result.isSome && decide (a.id < e.seq)) && s.seenDone u t
  | a => a.global.all fun x => !s.ownAtom u t x.1 x.2 e.seq

def State.headLeaves (s : State) (w : Workgroup) (t : Nat) (th : Thread) : Bool :=
  match th.sq with
  | [] => false
  | e :: _ =>
    decide (e.due ≤ s.clk) && s.entryFree w e && s.entryReady w.uid t e && (e.act.global.isEmpty || !w.releasing t) &&
    !(w.threads.zipIdx.any fun p => decide (p.2 % 32 < t % 32) && p.1.sq.any fun x => x.seq == e.seq)

/-- The thread whose queue's head leaves next. -/
def State.nextStore (s : State) : Option (Workgroup × Nat × SqEntry) :=
  s.wgs.findSome? fun w => (w.threads.zipIdx.find? fun p => s.headLeaves w p.2 p.1).bind fun p =>
    p.1.sq.head?.map fun e => (w, p.2, e)

def SqAct.counts : SqAct → Bool
  | .cctl .. => false
  | .retire .. => false
  | _ => true

/-- A thread whose store queue's head leaves it: S falls for a store of its task (R28, R283). -/
def Thread.popStore (th : Thread) (e : SqEntry) : Thread :=
  { th with sq := th.sq.tail, ctr := if e.act.counts && decide (th.born ≤ e.seq) then { th.ctr with s := th.ctr.s - 1 } else th.ctr }

/-- A released store or CCTL can be performed: its sectors are free, and an STRL waits for what its thread has sent before (R353, R358). -/
def State.releaseReady (s : State) (w : Workgroup) (t : Nat) (a : SqAct) : Bool :=
  s.entryFree w ⟨0, 0, a⟩ && s.entryReady w.uid t ⟨0, 0, a⟩

/-- A workgroup that has become uncontained, and the held store that is performed next (R358). -/
def State.nextHeld (s : State) : Option (Workgroup × Nat × SqAct) :=
  s.wgs.findSome? fun w => match w.contain with
    | some ⟨false, ⟨t, _, .store a⟩ :: _⟩ => if s.releaseReady w t a then some (w, t, a) else none
    | _ => none

/-- STORE_LEAVES_QUEUE: the head of a store queue, or else a store that a workgroup held while it was contained. -/
def fireStoreLeavesQueue (s : State) : Option State :=
  match s.nextStore with
  | some (w, t, e) => some ((s.updThread w.uid t (·.popStore e)).performAct w t false e.act)
  | none => s.nextHeld.map fun x =>
    (s.updWg x.1.uid fun w => { w with contain := w.contain.map fun k => { k with buf := k.buf.tail } }).performAct x.1 x.2.1 true x.2.2

def execStoreLeavesQueue (s : State) : Host.Outcome State Fault Refusal := .next ((fireStoreLeavesQueue s).getD s)

/-- L1_COPY_EXPIRY (R157): a copy whose life has ended leaves the L1, its dirty bytes written back. -/
def fireL1CopyExpiry (s : State) : Option State :=
  match s.l1.find? fun c => decide (c.expire ≤ s.clk) with
  | none => none
  | some c => some (s.l1Drop c.core (c.pa / 128))

def execL1CopyExpiry (s : State) : Host.Outcome State Fault Refusal := .next ((fireL1CopyExpiry s).getD s)

end Sys2Proof.Machine
end

