-- ==== Sys2Proof/Machine/Memory.lean ====
section
/-! DEFINITION. Global and local loads and stores, prefetch and cache control (R138 to R146). -/

namespace Sys2Proof.Machine

/-- Bytes of a load or store width (R139). -/
def widthBytes (w : BitVec 3) : Nat :=
  match w.toNat with
  | 0 => 1 | 1 => 1 | 2 => 2 | 3 => 2 | 4 => 4 | 5 => 8 | _ => 16

/-- The word that a load of up to 4 bytes writes (R139). -/
def loadWord (w : BitVec 3) (bs : List Byte) : Word :=
  let x := leNat bs
  match w.toNat with
  | 1 => BitVec.ofNat 32 (sext 8 32 x)
  | 3 => BitVec.ofNat 32 (sext 16 32 x)
  | _ => BitVec.ofNat 32 x

/-- The registers of a load's result, one home wave's image given where it is uniform (R141, R142). -/
def loadRegs (w : BitVec 3) (d : Nat) (ts : List Nat) (val : Nat → List Byte) (u : Bool) : List RegWrite :=
  let tag := fun v : Nat → Word => if u then uImg v else noImg
  if w.toNat < 5 then regWrites ts d (fun t => loadWord w (val t)) (tag fun t => loadWord w (val t))
  else (List.range (widthBytes w / 4)).flatMap fun i =>
    let v := fun t => BitVec.ofNat 32 (field (val t) (4 * i) 4)
    regWrites ts (d + i) v (tag v)

/-- The stored bytes of a thread: the low bytes of the register, the pair or the group (R138, R139). -/
def storeBytes (s : State) (c : Issue) (w : BitVec 3) (d : RegCode) (t : Nat) : List Byte :=
  let n := widthBytes w
  ((List.range ((n + 3) / 4)).flatMap fun i => toBytes 4 (s.readReg c.wg t (d.toNat + i)).toNat).take n

/-! Global loads. -/

/-- The next value forwarded to a thread of a trailing copy (R350). -/
def Workgroup.nextFwd (w : Workgroup) (t : Nat) : Option (Word64 × List Byte) :=
  w.redun.bind fun r => r.fwd.lookup t

/-- What a lane's load reads, as thread `r` reads (`t` but in LDU): its bytes, and whether they were poisoned (0 then). A
trailing copy takes the forwarded value (R348, R350). -/
def State.readLane (s : State) (w : Workgroup) (t r : Nat) (l : Leaf) (n : Nat) : List Byte × Bool :=
  match w.trailing, w.nextFwd t with
  | true, some v => (v.2, false)
  | true, none => (List.replicate n 0, false)
  | false, _ =>
    if s.readPoisoned w.core l.pa n l.c then (List.replicate n 0, true)
    else (s.threadBytes w r l.pa n l.c, false)

/-- A read that an L1 copy must not serve: of the token's holder, which goes to the home (R172), one whose address depends on
a load performed after the copy's fill (R160), or one through a page with C = 0, which is performed at the home slice and finds there
what its core has written and read through another page (R124, R159). The copy is written back and given up. -/
def State.freshen (s : State) (w : Workgroup) (t dep : Nat) (l : Leaf) : State :=
  if w.trailing then s else
  match s.l1Find w.core (sectorOf l.pa) with
  | none => s
  | some c =>
    if ((w.threads[t]?).map fun th => th.tx.active && th.tx.token).getD false || decide (c.filled < dep) || !l.c then
      s.l1Drop w.core (sectorOf l.pa)
    else s

/-- Values that may stand on a pair's forwarding path (R350). -/
def fwdCapacity : Nat := 4096

/-- There is no room for `n` more values on the path of a leading copy (R350). -/
def State.fwdFull (s : State) (w : Workgroup) (n : Nat) : Bool :=
  match w.redun with
  | none => false
  | some r => !r.trailing && decide ((((s.wg? r.partner).bind (·.redun)).map (·.fwd.length)).getD 0 + n > fwdCapacity)

/-- A load of a copy waits: no value forwarded yet, no room on the path, or an earlier atomic of its thread whose result is still to be
forwarded, since values are forwarded in program order (R350). -/
def State.fwdStalls (s : State) (w : Workgroup) (ts : List Nat) : Bool :=
  match w.redun with
  | none => false
  | some r =>
    if r.trailing then ts.any fun t => (w.nextFwd t).isNone
    else s.fwdFull w ts.length || s.atoms.any fun a => a.wg == w.uid && a.fwd && ts.contains a.tidx

/-- A value read by a copy's thread goes onto the forwarding path, or leaves it; a differing address marks the interval
(R350). -/
def State.forward (s : State) (w : Workgroup) (t : Nat) (ea : Word64) (bs : List Byte) : State :=
  match w.redun with
  | none => s
  | some r =>
    if r.trailing then
      s.updWg w.uid (·.updRedun fun r =>
        { r with fwd := match r.fwd.find? fun f => f.1 == t with
                   | some f => r.fwd.erase f
                   | none => r.fwd
                 bad := if ((r.fwd.lookup t).map fun v => v.1 != ea).getD false then r.interval :: r.bad else r.bad })
    else if s.alone w.uid t then s
    else s.updWg r.partner (·.updRedun fun q => { q with fwd := q.fwd ++ [(t, ea, bs)] })

/-- The holder of the token owns a sector exclusively (R172). -/
def State.takeToken (s : State) (w : Workgroup) (t sec : Nat) : State :=
  if s.owned.contains (sec, .token w.uid t) then s
  else let s := s.recall sec; { s with owned := (sec, .token w.uid t) :: s.owned }

/-- A transactional read joins the read set with its sector's value; the holder of the token owns it (R169, R172). -/
def State.joinRead (s : State) (w : Workgroup) (t : Nat) (l : Leaf) : State :=
  let tx := ((s.thread? w.uid t).map (·.tx)).getD .none
  let sec := sectorOf l.pa
  if !tx.active then s else
  let s := if tx.readSecs.contains sec then s else
    let s := s.l1Clean w.core sec
    s.updThread w.uid t fun th => { th with tx := { th.tx with reads := th.tx.reads ++ [(sec, s.coreRead w.core (128 * sec) 128 l.c)] } }
  if tx.token then s.takeToken w t sec else s

/-- What a global load leaves behind beside its result: what it has observed of engines, the TLBs and the L1 filled, the value forwarded, the read set, a
record of poison. -/
def State.afterLoad (s : State) (w : Workgroup) (t : Nat) (ea : Word64) (l : Leaf) (bs : List Byte) (bad : Bool) : State :=
  let s := (s.noteTlb w.core w.ctx ea.toNat).forward w t ea bs
  if w.trailing then s else
  let s := (s.seesWord w.core l.pa bs.length l.c).joinRead w t l
  if bad then s.recordPoison w l.pa
  else if l.c && !isIo l.pa && !s.ownedBy (dieOf w.core) l.pa 1 none then s.l1Fill w.core (sectorOf l.pa) else s

/-- A global load in the threads `ts` at addresses `ea`, read as thread `rd t` reads, its result landing later and counted on L
(R141). `dep` is what a lane's address depends on. An access of the IO range ends containment first (R358). -/
def globalLoad (s : State) (c : Issue) (ts : List Nat) (n : Nat) (ea : Nat → Word64) (rd dep : Nat → Nat)
    (regs : State → List Nat → (Nat → List Byte) → List RegWrite) : State :=
  match s.wg? c.wg with
  | none => s
  | some w =>
    let fs := ts.map fun t => (t, s.fate w t (rd t) .read (ea t) n)
    let go := fs.filterMap fun f => f.2.leaf.map fun l => (f.1, l)
    let ok := go.map (·.1)
    if s.counterFull c.wg ok .l || fs.any (·.2 == .wait) || s.fwdStalls w ok then s.reissue c
    else if (go.any fun g => isIo g.2.pa) && w.holding then (s.uncontain c.wg).reissue c
    else
      let s := go.foldl (fun s g => s.freshen w g.1 (dep g.1) g.2) s
      let vals := go.map fun g => (g.1, s.readLane w g.1 (rd g.1) g.2 n)
      let val := fun t => ((vals.lookup t).map (·.1)).getD []
      let bad := ok.filter fun t => ((vals.lookup t).map (·.2)).getD false
      let rs := regs s ok val
      let s := go.foldl (fun s g => s.afterLoad w g.1 (ea g.1) g.2 (val g.1) (bad.contains g.1)) s
      let s := if ok.isEmpty then s else
        (s.countUp c.wg ok .l).addPend (1 + Config.latency s.fresh)
          { Pend.none_ c.wg ok with ctr := some .l, load := true, regs := rs, poison := bad.map fun t => (t, ea t) }
      s.settleFates c fs

/-- What the address in a base pair depends on (R160). -/
def baseDep (s : State) (c : Issue) (a : RegCode) (t : Nat) : Nat := s.depOf c.wg t [a.toNat, a.toNat + 1]

/-- LD (R141): tag G. -/
def execLd (g : Guard) (w : BitVec 3) (d : RegCode) (a : RegCode) (off : Off) (s : State) :
    Host.Outcome State Fault Refusal :=
  s.issue fun c s =>
    globalLoad s c (active s c g) (widthBytes w) (eaGlobal s c a off (widthBytes w)) id (baseDep s c a) fun _ ok val =>
      loadRegs w d.toNat ok val false

/-- LDU (R142): one value, read by the lowest active home lane of each home wave; its fault is taken by all of the wave. -/
def execLdu (g : Guard) (w : BitVec 3) (d : RegCode) (a : RegCode) (off : Off) (s : State) :
    Host.Outcome State Fault Refusal :=
  s.issue fun c s =>
    let ts := active s c g
    let lead := fun t => elect (ts.filter fun q => q / 32 == t / 32)
    globalLoad s c ts (widthBytes w) (fun t => eaGlobal s c a off (widthBytes w) (lead t)) lead (fun t => baseDep s c a (lead t))
      fun _ ok val =>
      loadRegs w d.toNat ok val true

/-! Local loads. -/

/-- Passes of a local access: the most distinct words that the lanes touch in one bank (R128). -/
def passes (addrs : List Nat) : Nat :=
  let ws := (addrs.map (· / 4)).eraseDups
  (List.range 32).foldl (fun m b => max m (ws.filter fun x => x % 32 == b).length) 1

/-- The marks that a bundle's reads in the window leave, each byte with its thread: LSERR, corrected flips (R129, R347). -/
def State.windowRead (s : State) (w : Workgroup) (cells : List (Nat × Nat)) : State :=
  (s.lsRecord w false cells).winTouch w (cells.map (·.2))

/-- LDL (R141). -/
def execLdl (g : Guard) (w : BitVec 3) (d : RegCode) (a : RegCode) (off : Off) (s : State) :
    Host.Outcome State Fault Refusal :=
  s.issue fun c s =>
    match s.wg? c.wg with
    | none => s
    | some wg =>
      let n := widthBytes w
      let ea := fun t => (eaLocal s c a off n t).toNat
      let ts := active s c g
      let ok := ts.filter fun t => ea t % n == 0
      let bad := ts.filter fun t => ea t % n != 0
      if s.counterFull c.wg ok .l then s.reissue c else
      let addrs := fun t => (List.range n).map (· + ea t)
      let psn := ok.filter fun t => (wg.poisonAt (addrs t)).isSome
      let vals := ok.map fun t => (t, if psn.contains t then List.replicate n 0 else wg.threadWin t (addrs t))
      let val := fun t => (vals.lookup t).getD []
      let all := (sortNat ok).flatMap addrs
      let s := s.windowRead wg ((sortNat ok).flatMap fun t => (addrs t).map (t, ·))
      let s := psn.foldl (fun s t => s.recordLocalPoison wg ((wg.poisonAt (addrs t)).getD 0)) s
      let s := if ok.isEmpty then s else
        (s.countUp c.wg ok .l).addPend (24 + (passes all - 1))
          { Pend.none_ c.wg ok with ctr := some .l, load := true, regs := loadRegs w d.toNat ok val false,
                                    poison := psn.map fun t => (t, BitVec.ofNat 64 (ea t)) }
      bad.foldl (fun s t => s.raise c t ALIGN (ea t)) s

/-! Stores. -/

/-- A transactional store is buffered in the write set (R169). -/
def State.txStore (s : State) (w : Workgroup) (t : Nat) (l : Leaf) (bs : List Byte) : State :=
  let sec := sectorOf l.pa
  let s := s.updThread w.uid t fun th => { th with tx := { th.tx with
    writes := th.tx.writes ++ [(l.pa, bs)]
    wsecs := if th.tx.wsecs.contains sec then th.tx.wsecs else th.tx.wsecs ++ [sec]
    msecs := if l.m then sec :: th.tx.msecs else th.tx.msecs } }
  if ((s.thread? w.uid t).map (·.tx.token)).getD false then s.takeToken w t sec else s

/-- Threads that find their copy's store-buffer slot full block until a match frees space (R353). -/
def State.blockSlot (s : State) (c : Issue) (ts : List Nat) : State :=
  ts.foldl (fun s t => (s.updThread c.wg t Thread.rewind).block c.wg t .slot none) s

/-- A global store in the threads `ts` (R143): `act` makes a lane's entry of its translated address. A store to the IO range, and one for
which a contained workgroup's slot has no room, ends containment first (R358). -/
def globalStore (s : State) (c : Issue) (ts : List Nat) (n : Nat) (ea : Nat → Word64) (data : Nat → List Byte)
    (act : Nat → Leaf → SqAct) : State :=
  match s.wg? c.wg with
  | none => s
  | some w =>
    let fs := ts.map fun t => (t, s.fate w t t .write (ea t) n)
    let go := fs.filterMap fun f => f.2.leaf.map fun l => (f.1, l)
    let ok := go.map (·.1)
    let tx := fun t => ((w.threads[t]?).map (·.tx.active)).getD false
    if s.counterFull c.wg ok .s || s.sqFull c.wg (ok.filter (!tx ·)) || fs.any (·.2 == .wait) then s.reissue c
    else if ((go.any fun g => isIo g.2.pa) && w.holding) || s.containFull c.wg ok.length then (s.uncontain c.wg).reissue c
    else
      let seq := s.nextId
      let fit := w.slotTakes 1 (fun _ => []) ok
      let s := (go.filter fun g => fit.contains g.1).foldl (fun s g =>
        let t := g.1
        let s := (s.noteTlb w.core w.ctx (ea t).toNat).foldStore w t (ea t).toNat (data t)
        if tx t then s.txStore w t g.2 (data t) else s.enqueue w t seq true (act t g.2)) s.bump
      (s.settleFates c fs).blockSlot c (ok.filter (!fit.contains ·))

/-- ST (R143). -/
def execSt (g : Guard) (w : BitVec 3) (d : RegCode) (a : RegCode) (off : Off) (s : State) :
    Host.Outcome State Fault Refusal :=
  s.issue fun c s =>
    let n := widthBytes w
    let ea := eaGlobal s c a off n
    let data := storeBytes s c w d
    globalStore s c (active s c g) n ea data fun t l => .memory (ea t).toNat l.pa l.c l.m (data t)

/-- A local store in the threads `ts`: entries of the store queue, with the segments of the undo log (R143, R353). -/
def localStore (s : State) (c : Issue) (ts : List Nat) (addr : Nat → Nat) (ws : Nat → List (Nat × List Byte))
    (data : Nat → List Byte) : State :=
  match s.wg? c.wg with
  | none => s
  | some w =>
    let addrs := fun t => (ws t).flatMap fun x => (List.range x.2.length).map (· + x.1)
    if s.counterFull c.wg ts .s || s.sqFull c.wg ts then s.reissue c
    else
      let seq := s.nextId
      let fit := w.slotTakes 0 addrs ts
      (fit.foldl (fun s t => (s.foldStore w t (2^63 + addr t) (data t)).enqueueLocal c.wg t seq (.window (ws t)))
        ((s.bump).logSegments c.wg (fit.flatMap addrs))).blockSlot c (ts.filter (!fit.contains ·))

/-- STL (R143): a misaligned lane raises ALIGN. -/
def execStl (g : Guard) (w : BitVec 3) (d : RegCode) (a : RegCode) (off : Off) (s : State) :
    Host.Outcome State Fault Refusal :=
  s.issue fun c s =>
    let n := widthBytes w
    let ea := fun t => (eaLocal s c a off n t).toNat
    let ts := active s c g
    let data := storeBytes s c w d
    let s1 := localStore s c (ts.filter fun t => ea t % n == 0) ea (fun t => [(ea t, data t)]) data
    if s1.cur.isNone then s1
    else (ts.filter fun t => ea t % n != 0).foldl (fun s1 t => s1.raise c t ALIGN (ea t)) s1

/-- PREF (R145): it may fill the L1 of the issuing core and may be dropped; nothing else. -/
def execPref (g : Guard) (f : BitVec 3) (a : RegCode) (off : Off) (s : State) : Host.Outcome State Fault Refusal :=
  s.issue fun c s =>
    match s.wg? c.wg with
    | none => s
    | some w =>
      if f ≠ 0 ∨ Config.raceNew s.fresh then s else
      (active s c g).foldl (fun s t =>
        let ea := eaGlobal s c a off 128 t
        let tx := ((w.threads[t]?).map (·.tx.active)).getD false
        match s.access w .read ea .any with
        | .error _ => s
        | .ok l =>
          if tx || !l.c || isIo l.pa || w.trailing || s.ownedBy (dieOf w.core) l.pa 1 none || s.readPoisoned w.core l.pa 1 true then s
          else s.l1Fill w.core (sectorOf l.pa)) s

/-- CCTL (R146): through the store queue, no counter; nothing on the IO range. -/
def execCctl (g : Guard) (f : BitVec 3) (a : RegCode) (off : Off) (s : State) : Host.Outcome State Fault Refusal :=
  s.issue fun c s =>
    match s.wg? c.wg with
    | none => s
    | some w =>
      let ea := eaGlobal s c a off 128
      let rs := (active s c g).map fun t => (t, s.access w .read (ea t) .any)
      let ok := rs.filterMap fun r => match r.2 with
        | .ok l => some (r.1, l)
        | .error _ => none
      if s.sqFull c.wg (ok.map (·.1)) then s.reissue c
      else if s.containFull c.wg ok.length then (s.uncontain c.wg).reissue c
      else
        let seq := s.nextId
        let fit := w.slotTakes 1 (fun _ => []) ((ok.filter fun r => !isIo r.2.pa).map (·.1))
        let s := (ok.filter fun r => isIo r.2.pa || fit.contains r.1).foldl (fun s r =>
          let s := s.noteTlb w.core w.ctx (ea r.1).toNat
          let s := if w.redun.isSome then
              s.fold w.uid r.1 (sigRecord ((ea r.1).toNat / 128 * 128) [] 0 1 f.toNat) else s
          if isIo r.2.pa then s else s.enqueue w r.1 seq false (.cctl f.toNat r.2.pa)) s.bump
        (rs.foldl (fun s r => match r.2 with
          | .error e => s.raise c r.1 e ((ea r.1).toNat % 2^48)
          | .ok _ => s) s).blockSlot c ((ok.filter fun r => !isIo r.2.pa && !fit.contains r.1).map (·.1))

end Sys2Proof.Machine
end

