-- ==== Sys2Proof/Machine/Rollback.lean ====
section
/-! DEFINITION. Rolling a redundant pair back to a matched commit point (R355), and REDUNMISMATCH (R356). -/

namespace Sys2Proof.Machine

/-- A thread of a checkpoint as it restarts: nothing of it in flight, at the word after its COMMIT of the point. One that had exited,
and a slot that was idle, stay so (R280). -/
def Thread.restart (th : Thread) (clk : Nat) : Thread :=
  if th.st = TStatus.exited ∨ th.st = TStatus.idle then th
  else { th with ctr := .zero, fell := [], sq := [], sig := 0, st := .ready, since := clk, notBefore := clk, wake := none, poison := none }

/-- One copy back at point `j` (R355). The failure bits of mirrored writes are no part of a checkpoint (R352, R360), and an injection that
waits for a later point is gone with its interval (R367). -/
def Workgroup.rollTo (w : Workgroup) (j clk : Nat) : Workgroup :=
  match w.redun.bind fun r => r.checkpoints.find? (·.point == j) with
  | none => w
  | some k =>
    { w with
      threads := k.threads.zipIdx.map fun x => { x.1.restart clk with mirFail := ((w.threads[x.2]?).map (·.mirFail)).getD false }
      waves := k.waves, barriers := k.barriers, tiles := k.tiles, window := k.window
      redun := w.redun.map fun r =>
        { r with point := j, sigs := r.sigs.filter (·.1 ≤ j), checkpoints := r.checkpoints.filter (·.point ≤ j),
                 rollbacks := r.rollbacks + 1, everRolled := true, bad := [], reexec := true, final := false, inject := false
                 injAt := r.injAt.filter (· ≤ j),
                 buf := r.buf.filter (·.point ≤ j), fwd := [], issued := [], segs := [] } }

/-- Everything of a workgroup that is in flight is discarded. -/
def State.dropFlight (s : State) (u : Nat) : State :=
  { s with bundles := s.bundles.filter (·.wg != u), pend := s.pend.filter (·.wg != u), atoms := s.atoms.filter (·.wg != u) }

/-- Everything of a copy's unmatched intervals that is in flight is discarded. A reduction that a hearth is to take belongs to a matched
interval and stays (R354). -/
def State.dropInterval (s : State) (u : Nat) : State :=
  let kept := s.atoms.filter fun a => a.wg == u && a.result.isNone
  let s := s.dropFlight u
  { s with atoms := s.atoms ++ kept }

/-- Return-free atomics of a thread that a match has released and that are still to be performed or accepted. -/
def State.stillA (s : State) (u t : Nat) : Nat :=
  (s.atoms.filter fun a => a.wg == u && a.tidx == t).length +
  ((((s.wg? u).bind (·.redun)).map fun r => (r.rel.filter fun e => e.tidx == t && match e.act with
    | .atomic _ => true
    | .store _ => false).length).getD 0)

/-- A's counts after a rollback: what matched intervals have left (R28, R354). -/
def State.recountA (s : State) (u : Nat) : State :=
  s.updWg u fun w => { w with threads := w.threads.zipIdx.map fun x => { x.1 with ctr := x.1.ctr.put .a (s.stillA u x.2) } }

/-- Both copies of a pair roll back to matched point `j`. -/
def State.rollback (s : State) (u j : Nat) : State :=
  match (s.wg? u).bind (·.redun) with
  | none => s
  | some r =>
    ((((s.dropInterval u).dropFlight r.partner).updWg u (·.rollTo j s.clk)).updWg r.partner (·.rollTo j s.clk)).recountA u

/-- ERRINJ inverted a copy's signature at point `k` (R367). -/
def State.injected (s : State) (r : Redun) (k : Nat) : Bool :=
  r.injAt.contains k || (((s.wg? r.partner).bind (·.redun)).map fun q => q.injAt.contains k).getD false

/-- A discarded trailing copy: its threads wait for the ERET that makes it anew (R356). -/
def frozen : Wait := .commit (2^32)

/-- REDUNMISMATCH at point `k` after a rollback to matched point `j` (R356), for the leading copy `u`. -/
def State.redunMismatch (s : State) (u j k : Nat) : State :=
  match s.wg? u, (s.wg? u).bind (·.redun) with
  | some w, some r =>
    let inj := s.injected r k
    let s := s.rollback u j
    let s := s.updWg u (·.updRedun fun r => { r with everFaulted := true })
    let s := s.updWg r.partner fun w => { w with threads := w.threads.map fun th =>
      if th.unexited then { th with st := .blocked frozen } else th }
    let s := s.recordErr (dieOf w.core)
      { ue := true, inj := inj, unit := 0x0D, core := w.core, ctx := some w.ctx, fault := REDUNMISMATCH, w3 := w.g + k % 2^16 * 2^32 }
    let ths := ((s.wg? u).map (·.threads)).getD []
    ths.zipIdx.foldl (fun s p => if p.1.unexited then s.raiseAt u p.2 REDUNMISMATCH k else s) s
  | _, _ => s

/-- ERET of a thread that took REDUNMISMATCH makes the trailing copy anew from the matched checkpoint (R356). -/
def State.thawPartner (s : State) (u : Nat) : State :=
  match (s.wg? u).bind (·.redun) with
  | none => s
  | some r =>
    let thaw := fun th : Thread => if th.st = .blocked frozen then th.release s.clk else th
    s.updWg r.partner fun w => { w with threads := w.threads.map thaw }

end Sys2Proof.Machine
end

