-- ==== Sys2Proof/Machine/Atomic.lean ====
section
/-! DEFINITION. Atomic read-modify-writes and return-free reductions (R166 to R168, R175, R181), with what redundant copies
make of them (R354). -/

namespace Sys2Proof.Machine

/-- Bytes of an atomic's location (R181). -/
def atomSize (x : Word) : Nat := if atomType x = 2 ∨ atomType x = 3 then 8 else 4

/-- The operation on the old value and the operand (R168). -/
def atomOpFn (x : Word) (old b : Nat) : Nat :=
  let n := 8 * atomSize x
  let signed := atomType x == 0 || atomType x == 2
  let less := if signed then decide (toInt n old < toInt n b) else decide (old % 2^n < b % 2^n)
  let f32env : FpEnv := ⟨f32, 0, false, 0, 0⟩
  if atomType x = 4 then
    match atomOp x with
    | 0 => addF32 old b
    | 1 => (minMax1 false f32env old b).1
    | 2 => (minMax1 true f32env old b).1
    | _ => b % 2^32
  else match atomOp x with
    | 0 => (old + b) % 2^n
    | 1 => if less then old else b % 2^n
    | 2 => if less then b % 2^n else old
    | 3 => old &&& (b % 2^n)
    | 4 => old ||| (b % 2^n)
    | 5 => old ^^^ (b % 2^n)
    | _ => b % 2^n

/-- The value an atomic leaves (R181). -/
def AtomOp.newValue (a : AtomOp) (old : Nat) : Nat :=
  let n := 8 * atomSize a.fields
  if a.isC then (if old = a.opC.toNat % 2^n then a.opB.toNat % 2^n else old) else atomOpFn a.fields old (a.opB.toNat % 2^n)

/-- Whether an atomic is performed in the issuing core's L1 (R166). -/
def AtomOp.inL1 (a : AtomOp) : Bool := decide (atomScope a.fields < 3) && a.ca

/-- The location as the place of the atomic holds it: the issuing core's L1, the home slice of another package, or this package's point of
coherence (R166). -/
def State.atomRead (s : State) (w : Workgroup) (a : AtomOp) : Nat :=
  let n := atomSize a.fields
  leNat (if s.remote a.pa then s.pkgRead a.pa n else s.coreRead w.core a.pa n a.inL1)

/-- The location as the place of the atomic holds it, and the state with the atomic performed there (R166, R181). A read
of poisoned data, or of a package that does not answer, gives 0 and writes nothing (R348, R387). -/
def State.doAtomic (s : State) (w : Workgroup) (t : Nat) (a : AtomOp) : Nat × Bool × State :=
  let n := atomSize a.fields
  let s := s.seesWord w.core a.pa n a.inL1
  let s0 := if a.inL1 then s else s.l1Drop w.core (sectorOf a.pa)
  let die := !a.mi && !s.pkgScope w.uid (atomScope a.fields) && a.ca
  if s0.readPoisoned w.core a.pa n a.inL1 then (0, true, s0.recordPoison w a.pa)
  else
    let old := s0.atomRead w a
    let bs := toBytes n (a.newValue old)
    (old, false, if a.inL1 && !a.mi then s0.coreWrite w.core a.pa true bs
                 else if die then s0.dieWrite w.core a.pa bs
                 else (s0.l1Drop w.core (sectorOf a.pa)).mirrorWrite w.uid t a.pa a.mi bs)

/-- The fate of a lane's atomic at issue: the lowest fault code (R31, R181). -/
def State.atomLane (s : State) (w : Workgroup) (ea : Word64) (x : Word) : Except Nat Leaf :=
  match s.translate (some w.core) w.ctx true .atomic ea.toNat with
  | .error e => .error e
  | .ok l =>
    if isIo l.pa || (atomPlace x == 1 && !l.h) then .error PERMISSION
    else if l.s && !w.secure then .error WORLD
    else if ea.toNat % atomSize x ≠ 0 then .error ALIGN
    else .ok l

/-- The registers an atomic result goes to (R174). -/
def atomRegs (x : Word) (d : Nat) (t old : Nat) : List RegWrite :=
  regWrites [t] d (fun _ => BitVec.ofNat 32 old) noImg ++
    (if atomSize x = 8 then regWrites [t] (d + 1) (fun _ => BitVec.ofNat 32 (old / 2^32)) noImg else [])

/-- Operand records folded by an atomic (R351). -/
def atomRecord (x : Word) (isC : Bool) (ea b d : Word64) : List Byte :=
  let n := atomSize x
  let ext := fun v : Word64 => toBytes 8 (v.toNat % 2^(8 * n))
  sigRecord ea.toNat (if isC then ext d ++ ext b else ext b) (2^n - 1) (2 + atomOp x) 0

/-- A result written to one thread, counted on L, landing at once (R181). -/
def State.atomResult (s : State) (u t : Nat) (x : Word) (d old : Nat) (va : Nat) (bad : Bool) (seq : Nat) : State :=
  s.addPend 0 { Pend.none_ u [t] with seq := seq, ctr := some .l, load := true, regs := atomRegs x d t old,
                                      poison := if bad then [(t, BitVec.ofNat 64 va)] else [] }

/-! Redundant copies: a result form is begun by both threads before it is performed (R354). An entry (t, 0) of `issued`
marks an atomic that thread t has begun, (t, 1) one it is done with. -/

def Redun.begun (r : Redun) (t : Nat) : Bool := r.issued.contains (t, 0)
def Redun.ordinal (r : Redun) (t : Nat) : Nat := (r.issued.filter (· == (t, 1))).length

def State.beginAtom (s : State) (w : Workgroup) (t : Nat) (rec_ : List Byte) : State :=
  if ((w.redun.map (·.begun t)).getD true) then s
  else (s.fold w.uid t rec_).updWg w.uid (·.updRedun fun r => { r with issued := (t, 0) :: r.issued })

def State.endAtom (s : State) (u t : Nat) : State :=
  s.updWg u (·.updRedun fun r => { r with issued := (t, 1) :: r.issued.erase (t, 0) })

/-- The partner's thread has begun the atomic at the same ordinal. -/
def State.partnerBegun (s : State) (r : Redun) (t : Nat) : Bool :=
  match (s.wg? r.partner).bind (·.redun) with
  | some q => q.begun t && q.ordinal t == r.ordinal t && q.point == r.point
  | none => true

/-- A logged atomic at an ordinal of the interval (R354). -/
def Redun.logged (r : Redun) (t : Nat) : Option AtomLog :=
  r.atoms.find? fun a => a.tidx == t && a.ordinal == r.ordinal t && a.point == r.interval

def State.sigOf (s : State) (u t : Nat) : Word64 := ((s.thread? u t).map (·.sig)).getD 0

/-- A result of a pair's atomic in the leading thread, forwarded to the trailing one. -/
def State.leadResult (s : State) (w : Workgroup) (t d : Nat) (x : Word) (ea : Word64) (old : Nat) (bad : Bool) : State :=
  ((((s.forward w t ea (toBytes 8 old)).countUp w.uid [t] .l).atomResult w.uid t x d old ea.toNat bad 0)).endAtom w.uid t

/-- A leading thread whose partner has begun the same atomic: the logged result, the atomic performed and logged, or a
mismatched interval in which nothing is performed and the result, which no rule states, is free. Differing operands at a logged position raise REDUNMISMATCH. -/
def State.leadAtom (s : State) (w : Workgroup) (r : Redun) (t d : Nat) (a : AtomOp) (ea : Word64) (ops : List Word64) : State :=
  match r.logged t with
  | some g =>
    if g.operands = ops then s.leadResult w t d a.fields ea g.result.toNat false
    else s.redunMismatch w.uid r.matched r.interval
  | none =>
    if s.sigOf w.uid t = s.sigOf r.partner t then
      let x := s.doAtomic w t a
      (x.2.2.updWg w.uid (·.updRedun fun r =>
        { r with atoms := r.atoms ++ [⟨t, r.interval, r.ordinal t, ops, BitVec.ofNat 64 x.1⟩] })).leadResult w t d a.fields ea
          x.1 x.2.1
    else (s.tickFree.updWg w.uid (·.updRedun Redun.mark)).leadResult w t d a.fields ea
      (Config.choice s.fresh % 2^(8 * atomSize a.fields)) false

/-- The lanes of a pair's result atomic in the leading copy, until one raises REDUNMISMATCH: the copies are rolled back then and the bundle
is gone, and no other lane acts (R354, R356). -/
def State.leadLanes (s : State) (c : Issue) (u : Nat) (d : Nat) (ls : List (Nat × AtomOp × Word64 × List Word64)) : State :=
  ls.foldl (fun s x => match s.bundle? c.bundle, s.wg? u, (s.wg? u).bind (·.redun) with
    | some _, some w, some r => s.leadAtom w r x.1 d x.2.1 x.2.2.1 x.2.2.2
    | _, _, _ => s) s

/-- An atomic of a lane can be performed as it issues: nobody else owns its sector, and no store of its thread that is on its way or released
before touches its bytes (R163, R172, R353, R354). -/
def State.leadReady (s : State) (w : Workgroup) (r : Redun) (t : Nat) (l : Leaf) (n : Nat) : Bool :=
  (r.logged t).isSome || (!s.ownedBy (dieOf w.core) l.pa n none && !s.sentTo w.core l.pa n && !r.rel.any (·.tidx == t))

/-- ATOM, ATOMC and RED (R181). `d` is the result register of a result form, `dep` what a lane's address depends on. -/
def atomic (s : State) (c : Issue) (g : Guard) (x : Word) (isC : Bool) (d : Option Nat) (ea b cmp : Nat → Word64) (dep : Nat → Nat) : State :=
  match s.wg? c.wg with
  | none => s
  | some w =>
    let ts := active s c g
    let fs := ts.map fun t => (t, s.atomLane w (ea t) x)
    let go := fs.filterMap fun f => match f.2 with
      | .ok l => some (f.1, l)
      | .error _ => none
    let ok := go.map (·.1)
    let k : Ctr := if d.isSome then .l else .a
    let op := fun (s : State) (t : Nat) (l : Leaf) => ({
        id := s.nextId, due := s.clk + 1 + Config.latency s.fresh, wg := w.uid, tidx := t, va := (ea t).toNat, pa := l.pa,
        fields := x, isC := isC, result := d, opB := b t, opC := cmp t, ca := l.c && !l.sa && !s.remote l.pa, mi := l.m,
        fwd := d.isSome && w.paired && !s.alone w.uid t } : AtomOp)
    let rec_ := fun t => atomRecord x isC (ea t) (b t) (cmp t)
    let faults := fun s : State => fs.foldl (fun s f => match f.2 with
      | .error e => s.raise c f.1 e ((ea f.1).toNat % 2^48)
      | .ok _ => s) s
    if s.counterFull c.wg ok k then s.reissue c
    else if !ok.isEmpty && w.holding then (s.uncontain c.wg).reissue c
    else match (if ok.any (s.alone w.uid) then none else w.redun), d with
    | some r, some rd =>
      -- result forms of a pair
      if r.screen && !r.trailing then
        if s.fwdStalls w ok then s.reissue c else faults (go.foldl (fun s g =>
          let s := s.fold w.uid g.1 (rec_ g.1)
          ({ s with atoms := s.atoms ++ [op s g.1 g.2] }).bump.countUp w.uid [g.1] .l) s)
      else
        let s := if r.screen then s else ok.foldl (fun s t => s.beginAtom ((s.wg? w.uid).getD w) t (rec_ t)) s
        if r.trailing then
          if ok.any fun t => (w.nextFwd t).isNone then s.reissue c
          else faults (go.foldl (fun s g =>
            let t := g.1
            let v := leNat (((w.nextFwd t).map (·.2)).getD [])
            let s := if r.screen then s.fold w.uid t (rec_ t) else s
            ((((s.forward w t (ea t) []).countUp w.uid [t] .l).atomResult w.uid t x rd (v % 2^(8 * atomSize x)) (ea t).toNat
              false 0)).endAtom w.uid t) s)
        else
          let ready := match (s.wg? w.uid).bind (·.redun) with
            | some r => ok.all fun t => s.partnerBegun r t
            | none => true
          if !ready || s.fwdStalls w ok || !(ok.all fun t => ((w.threads[t]?).map (·.sq.isEmpty)).getD true) ||
              !(go.all fun g => s.leadReady w r g.1 g.2 (atomSize x)) then s.reissue c
          else
            let s1 := s.leadLanes c w.uid rd (go.map fun g => (g.1, op s g.1 g.2, ea g.1, [ea g.1, b g.1, cmp g.1]))
            if (s1.bundle? c.bundle).isSome then faults s1 else s1
    | some r, none =>
      -- no-result forms of a pair
      let fit := w.slotTakes 1 (fun _ => []) ok
      (faults ((go.filter fun g => fit.contains g.1).foldl (fun s g =>
        let t := g.1
        let s := s.fold w.uid t (rec_ t)
        if r.trailing then s
        else if r.screen then ({ s with atoms := s.atoms ++ [op s t g.2] }).bump.countUp w.uid [t] .a
        else (s.updWg w.uid (·.updRedun fun r =>
          { r with buf := r.buf ++ [⟨t, r.interval, .atomic (op s t g.2)⟩] })).bump.countUp w.uid [t] .a) s)).blockSlot c
            (ok.filter (!fit.contains ·))
    | none, _ =>
      faults (go.foldl (fun s g =>
        let s := s.freshen w g.1 (dep g.1) g.2
        (({ s with atoms := s.atoms ++ [op s g.1 g.2] }).bump.noteTlb w.core w.ctx (ea g.1).toNat).countUp w.uid [g.1] k) s)

/-- An operand of an atomic: a pair for the 64-bit types (R174). -/
def atomOperand (s : State) (c : Issue) (x : Word) (r : RegCode) (t : Nat) : Word64 :=
  if atomSize x = 8 then reg64 s c r t else (s.readReg c.wg t r.toNat).setWidth 64

/-- ATOM (R181). -/
def execAtom (g : Guard) (f : BitVec 1) (d : RegCode) (a : RegCode) (b : RegCode) (x : Word) (s : State) :
    Host.Outcome State Fault Refusal :=
  s.issue fun c s => atomic s c g x false (if f = 0 then some d.toNat else none) (reg64 s c a) (atomOperand s c x b)
    (fun _ => 0) (baseDep s c a)

/-- ATOMC (R181): d holds the compare value. -/
def execAtomc (g : Guard) (f : BitVec 1) (d : RegCode) (a : RegCode) (b : RegCode) (x : Word) (s : State) :
    Host.Outcome State Fault Refusal :=
  s.issue fun c s => atomic s c g x true (if f = 0 then some d.toNat else none) (reg64 s c a) (atomOperand s c x b)
    (atomOperand s c x d) (baseDep s c a)

/-- RED (R181). -/
def execRed (g : Guard) (a : RegCode) (b : RegCode) (x : Word) (s : State) : Host.Outcome State Fault Refusal :=
  s.issue fun c s => atomic s c g x false none (reg64 s c a) (atomOperand s c x b) (fun _ => 0) (baseDep s c a)

/-- An atomic that can be performed now: its time has come, nobody else owns its sector, earlier stores of its thread have
left the queue where it has a result, no earlier atomic or store of its thread to its bytes waits, and no store of its core to them is
on its way to another package (R159, R161, R163, R167, R181). -/
def State.atomReady (s : State) (a : AtomOp) : Bool :=
  decide (a.due ≤ s.clk) && atomPlace a.fields != 1 && !s.ownedBy (((s.wg? a.wg).map fun w => dieOf w.core).getD 0) a.pa (atomSize a.fields) none &&
  ((s.thread? a.wg a.tidx).map fun th => !th.sq.any fun e => decide (e.seq < a.id) &&
    (a.result.isSome || e.act.touches a.pa (atomSize a.fields))).getD true &&
  !(a.fwd && ((s.wg? a.wg).map fun w => s.fwdFull w 1).getD false) &&
  !(((s.wg? a.wg).map fun w => s.sentTo w.core a.pa (atomSize a.fields)).getD false) &&
  !(s.atoms.any fun b => decide (b.id < a.id) && b.wg == a.wg && sectorOf b.pa == sectorOf a.pa)

/-- ATOMIC_PERFORMED (R181). -/
def fireAtomicPerformed (s : State) : Option State :=
  match s.atoms.find? s.atomReady with
  | none => none
  | some a =>
    let s := { s with atoms := s.atoms.filter (·.id != a.id) }.tickFree
    match s.wg? a.wg with
    | none => some s
    | some w =>
      let x := s.doAtomic w a.tidx a
      match a.result with
      | none => some (x.2.2.countDown a.wg [a.tidx] .a a.id)
      | some d => some ((if a.fwd then x.2.2.forward w a.tidx (BitVec.ofNat 64 a.va) (toBytes 8 x.1) else x.2.2).atomResult a.wg a.tidx a.fields d x.1 a.va x.2.1 a.id)

def execAtomicPerformed (s : State) : Host.Outcome State Fault Refusal := .next ((fireAtomicPerformed s).getD s)

end Sys2Proof.Machine
end

