-- ==== Sys2Proof/Machine/Convert.lean ====
section
/-! DEFINITION. The conversion instructions (R56 to R67): CVT and CVTR by conversion index, block scale, pack and
unpack, format queries and half packing. -/

namespace Sys2Proof.Machine

/-- The format slot of the issuing workgroup's launch (R50). -/
def slotOf (s : State) (c : Issue) (k : Nat) : Word64 :=
  ((s.wg? c.wg).map fun w => (s.lrOf w).fmt.getD k 0).getD 0

/-- The types a conversion index names (R58). -/
inductive CTy where
  | fp (f : Fmt) (ix : Option Nat)
  | int (bits : Nat) (signed : Bool)
  deriving DecidableEq, Repr

def CTy.f64 : CTy := .fp Machine.f64 (some 0)
def CTy.f32 : CTy := .fp Machine.f32 (some 1)
def CTy.f16 : CTy := .fp Machine.f16 (some 2)
def CTy.bf16 : CTy := .fp Machine.bf16 (some 3)

/-- Source and destination of a conversion index (R58). -/
def cvtTypes (i : Nat) : CTy × CTy :=
  match i with
  | 0x00 => (.f32, .f64) | 0x01 => (.f64, .f32) | 0x02 => (.f32, .f16) | 0x03 => (.f16, .f32)
  | 0x04 => (.f32, .bf16) | 0x05 => (.bf16, .f32) | 0x06 => (.f64, .f16) | 0x07 => (.f16, .f64)
  | 0x08 => (.f64, .bf16) | 0x09 => (.bf16, .f64) | 0x0A => (.f16, .bf16) | 0x0B => (.bf16, .f16)
  | 0x10 => (.f32, .fp e4m3 none) | 0x11 => (.fp e4m3 none, .f32) | 0x12 => (.f32, .fp e5m2 none)
  | 0x13 => (.fp e5m2 none, .f32) | 0x14 => (.f32, .fp e2m3 none) | 0x15 => (.fp e2m3 none, .f32)
  | 0x16 => (.f32, .fp e3m2 none) | 0x17 => (.fp e3m2 none, .f32) | 0x18 => (.f32, .fp e2m1 none)
  | 0x19 => (.fp e2m1 none, .f32) | 0x20 => (.f32, .int 32 true) | 0x21 => (.f32, .int 32 false)
  | 0x22 => (.f64, .int 32 true) | 0x23 => (.f64, .int 32 false) | 0x24 => (.f64, .int 64 true)
  | 0x25 => (.f32, .int 16 true) | 0x26 => (.f32, .int 8 true) | 0x28 => (.int 32 true, .f32)
  | 0x29 => (.int 32 false, .f32) | 0x2A => (.int 32 true, .f64) | 0x2B => (.int 32 false, .f64)
  | 0x2C => (.int 64 true, .f64) | 0x2D => (.int 16 true, .f32) | 0x2E => (.int 8 true, .f32)
  | 0x30 => (.int 32 true, .int 16 true) | _ => (.int 32 true, .int 8 true)

def CTy.width : CTy → Nat
  | .fp f _ => f.w
  | .int n _ => n

/-- FPCTL's index of the type whose control a type has (R95); a narrow type has none. -/
def CTy.ix : CTy → Option Nat
  | .fp _ i => i
  | .int _ _ => none

def CTy.isInt : CTy → Bool
  | .int _ _ => true
  | _ => false

/-- A value of a type into its 32-bit or 64-bit register form (R59). -/
def CTy.extend (t : CTy) (x : Nat) : Nat :=
  match t with
  | .int n true => if n < 32 then sext n 32 x else x
  | _ => x

/-- One conversion (R61): rounding mode, rho, saturate, flush of the source and of the result. -/
def convert (st dt : CTy) (mode rho : Nat) (sat fin fout : Bool) (x : Nat) : Nat × Nat :=
  match st, dt with
  | .fp f _, .fp h _ =>
    let r := h.round mode rho fout sat (f.decode (flushIn f fin (x % 2^f.w)))
    (r.bits, r.flags)
  | .fp f _, .int n sg =>
    let r := roundToInt n sg mode rho (f.decode (flushIn f fin (x % 2^f.w)))
    (dt.extend r.bits, r.flags)
  | .int n sg, .fp h _ =>
    let r := h.round mode rho fout sat (intVal (if sg then toInt n x else ((x % 2^n : Nat) : Int)))
    (r.bits, r.flags)
  | .int n _, .int m _ =>
    let v := toInt n x
    let hi : Int := ((2^(m - 1) : Nat) : Int) - 1
    let y := if sat then (if v > hi then hi else if v < -hi - 1 then -hi - 1 else v) else v
    (dt.extend (ofInt m y), 0)

/-- The type whose FPCTL mode CVT rounds by: the destination's when it is one of the four, else the source's (R60). -/
def cvtModeIx (st dt : CTy) : Nat := (dt.ix.orElse fun _ => st.ix).getD 1

def cvtFlush (ctl : Word) (t : CTy) : Bool :=
  match t.ix with
  | some i => fpFtz ctl i
  | none => false

/-- A conversion in every active lane (R57, R59, R61). -/
def cvtIssue (s : State) (c : Issue) (ts : List Nat) (d : RegCode) (a : Src) (i : Nat)
    (f : CTy → CTy → Nat → Nat → Nat × Nat) : State :=
  let st := (cvtTypes i).1
  let dt := (cvtTypes i).2
  let wide := st.width == 64
  fpIssue s c ts (if wide || dt.width == 64 then 8 else 4) d.toNat (dt.width == 64)
    (allU s c (if wide then srcRegs64 a else srcRegs a)) fun t =>
    let x := if wide then (src64 s c a t).toNat else (src s c a t).toNat
    let r := f st dt t x
    ⟨BitVec.ofNat 64 r.1, r.2⟩

/-- CVT (R58 to R61). -/
def execCvt (g : Guard) (f : BitVec 1) (d : RegCode) (a : Src) (i : BitVec 6) (s : State) :
    Host.Outcome State Fault Refusal :=
  s.issue fun c s => cvtIssue s c (active s c g) d a i.toNat fun st dt t x =>
    let ctl := s.fpctl c.wg t
    convert st dt (fpRound ctl (cvtModeIx st dt)) 0 (f == 1) (cvtFlush ctl st) (cvtFlush ctl dt) x

/-- CVTR (R58 to R61): rounding and saturation of a slot, no flushing; round 5 to 7 raises FMTBAD. -/
def execCvtr (g : Guard) (f : BitVec 3) (d : RegCode) (a : Src) (i : BitVec 6) (s : State) :
    Host.Outcome State Fault Refusal :=
  s.issue fun c s =>
    let sl := slotOf s c f.toNat
    let ts := active s c g
    if !slotRoundOk sl then s.raiseAll c ts FMTBAD 0
    else cvtIssue s c ts d a i.toNat fun st dt t x =>
      convert st dt (slotRound sl) (Config.rho s.fresh (t % 32) 0).toNat (slotSat sl) false false x

/-- The formats of the block instructions (R62). -/
def blockElem (e : Nat) : Bool := decide ((0x10 ≤ e ∧ e ≤ 0x14) ∨ (0x20 ≤ e ∧ e ≤ 0x26))

/-- The slot checks of BPACK, BUNPACK and BSCALE (R62, R50). -/
def blockSlotOk (x : Word64) : Bool :=
  blockElem (slotElem x) && slotScale x == 0x30 &&
  (slotBlock x == 5 || (slotBlock x == 4 && decide (0x20 ≤ slotElem x))) && slotRoundOk x && slotResOk x

/-- The threads of the block that a home lane belongs to (R62). -/
def blockOf (x : Word64) (ts : List Nat) (t : Nat) : List Nat :=
  if slotBlock x = 4 then ts.filter fun q => q % 32 / 16 == t % 32 / 16 else ts

/-- The exponent of the largest normal value of an element format (R44, R47). -/
def emaxOf (e : Nat) : Int :=
  match e with
  | 0x10 => 8 | 0x11 => 15 | 0x12 => 2 | 0x13 => 4 | 0x14 => 2
  | _ => 0

def Val.finiteMag : Val → Option (Nat × Int)
  | .num _ m e _ => some (m, e)
  | _ => none

/-- The shared scale of the rule of BSCALE read (R63). -/
def blockScale (emax : Int) (ds : List Val) : Nat :=
  if ds.any fun v => v.finiteMag.isNone then 0xFF
  else
    let ls := ds.filterMap fun v => match v.finiteMag with
      | some (m, e) => if m = 0 then none else some ((Nat.log2 m : Int) + e)
      | none => none
    match ls with
    | [] => 0
    | l :: r =>
      let x := (r.foldl max l) - emax + 127
      if x < 0 then 0 else if x > 254 then 254 else x.toNat

/-- BSCALE read (R63): tag U in a home wave whose 32 lanes all receive one block's result. -/
def execBscaleRead (g : Guard) (d : RegCode) (a : Src) (k : BitVec 3) (s : State) :
    Host.Outcome State Fault Refusal :=
  s.issue fun c s =>
    let sl := slotOf s c k.toNat
    let ts := active s c g
    if !blockSlotOk sl then s.raiseAll c ts FMTBAD 0
    else
      let val := fun t => BitVec.ofNat 32
        (blockScale (emaxOf (slotElem sl)) ((blockOf sl ts t).map fun q => f32.decode (src s c a q).toNat))
      fixed s c ts 8 (regWrites ts d.toNat val (if slotBlock sl = 5 then uImg val else noImg))

/-- A value times `2^(e - 127)` to FP32 by a slot (R63, R65); a signalling NaN raises invalid (R43, R97). An E5M2 infinity
under a slot with sat = 1 gives the largest finite value, as sat_fmt of the pseudocode has it, though R65 also says that it
unpacks to infinity (log entry 29). -/
def scaleTo32 (sl : Word64) (rho e : Nat) (v : Val) : Nat × Nat :=
  if e = 0xFF ∨ v.isNan then (f32.nanBits, if sigOf v then NV else 0)
  else let r := f32.round (slotRound sl) rho false (slotSat sl) (v.scale ((e : Int) - 127)); (r.bits, r.flags)

/-- BSCALE write (R63). -/
def execBscaleWrite (g : Guard) (d : RegCode) (a : Src) (k : BitVec 3) (s : State) :
    Host.Outcome State Fault Refusal :=
  s.issue fun c s =>
    let sl := slotOf s c k.toNat
    let ts := active s c g
    if !blockSlotOk sl then s.raiseAll c ts FMTBAD 0
    else fpIssue s c ts 6 d.toNat false (fun _ => false) fun t =>
      let r := scaleTo32 sl (Config.rho s.fresh (t % 32) 0).toNat ((src s c a t).toNat % 256)
        (f32.decode (s.readReg c.wg t d.toNat).toNat)
      ⟨BitVec.ofNat 64 r.1, r.2⟩

/-- One element quantised (R64): the exact quotient by the scale, 0 for a scale of 0xFF. A signalling NaN raises invalid
whatever the scale (R43, R97). -/
def quantise (elem mode rho : Nat) (sat : Bool) (x : Val) (e : Nat) : Rnd :=
  if e = 0xFF then ⟨0, if sigOf x then NV else 0, false⟩
  else roundElem elem mode rho sat (x.scale (127 - (e : Int)))

/-- The first home lane of a block whose enabled flag was raised, numbered from 1: the trap of every lane of the block (R98). -/
def blockTrap (s : State) (c : Issue) (flags : Nat → Nat) (block : List Nat) : Option Nat :=
  (minOf ((block.filter fun t => fpTraps (s.fpctl c.wg t) (flags t)).map (· % 32))).map (1 + ·)

/-- BPACK (R64): the words of the bundle's block, held by home lanes 0 to n - 1; tag G. A block in which an enabled flag is
raised is not written, and all its lanes trap (R98). -/
def execBpack (g : Guard) (f : BitVec 3) (d : RegCode) (a b : Src) (s : State) : Host.Outcome State Fault Refusal :=
  s.issue fun c s =>
    let sl := slotOf s c f.toNat
    let ts := active s c g
    if !blockSlotOk sl then s.raiseAll c ts FMTBAD 0
    else
      let n := elemWidth (slotElem sl)
      let q := fun t => quantise (slotElem sl) (slotRound sl) (Config.rho s.fresh (t % 32) 0).toNat (slotSat sl)
        (f32.decode (src s c a t).toNat) ((src s c b t).toNat % 256)
      let block := sumNat (ts.map fun t => (q t).bits * 2^(n * (t % 32)))
      fpIssueWith s c ts 12 d.toNat false (fun _ => false)
        (fun t => ⟨BitVec.ofNat 64 (if t % 32 < n then block / 2^(32 * (t % 32)) % 2^32 else 0), (q t).flags⟩)
        (fun t => blockTrap s c (fun q' => (q q').flags) (blockOf sl ts t))

/-- BUNPACK (R65): tag G. -/
def execBunpack (g : Guard) (f : BitVec 3) (d : RegCode) (a b : Src) (s : State) : Host.Outcome State Fault Refusal :=
  s.issue fun c s =>
    let sl := slotOf s c f.toNat
    let ts := active s c g
    if !blockSlotOk sl then s.raiseAll c ts FMTBAD 0
    else
      let n := elemWidth (slotElem sl)
      let block := sumNat ((ts.filter fun t => decide (t % 32 < n)).map fun t => (src s c a t).toNat * 2^(32 * (t % 32)))
      fpIssue s c ts 8 d.toNat false (fun _ => false) fun t =>
        let r := scaleTo32 sl (Config.rho s.fresh (t % 32) 0).toNat ((src s c b t).toNat % 256)
          (elemVal (slotElem sl) (block / 2^(n * (t % 32)) % 2^n))
        ⟨BitVec.ofNat 64 r.1, r.2⟩

/-- The property word of a format code (R66). -/
def fmtWord (code : Nat) : Nat :=
  let word := fun (anvil block inf nan int : Bool) (frac exp width : Nat) =>
    2^31 + (if anvil then 2^30 else 0) + (if block then 2^29 else 0) + (if inf then 2^28 else 0) +
      (if nan then 2^27 else 0) + (if int then 2^26 else 0) + frac * 2^16 + exp * 2^8 + width
  match fmtOf code, bfpOf code, intOf code with
  | some f, _, _ => word (code == 0x12 || code == 0x14) (blockElem code) (f.kind == .ieee) (f.kind != .finite) false
      f.frac f.ebits f.w
  | none, some n, _ => word true true false false true (n - 2) 0 n
  | none, none, some n => word false false false false true 0 0 n
  | none, none, none => if code = 0x30 then word false false false true false 0 8 8 else 0

/-- FMTQ of a code in a register (R66). -/
def execFmtq (g : Guard) (d : RegCode) (a : Src) (s : State) : Host.Outcome State Fault Refusal :=
  s.issue (op1 4 g d a fun x => BitVec.ofNat 32 (fmtWord (x.toNat % 256)))

/-- FMTQ of a slot's low word, unchecked (R66). -/
def execFmtqSlot (g : Guard) (d : RegCode) (k : BitVec 3) (s : State) : Host.Outcome State Fault Refusal :=
  s.issue fun c s =>
    let ts := active s c g
    let x := (slotOf s c k.toNat).setWidth 32
    fixed s c ts 4 (regWrites ts d.toNat (fun _ => x) (uImg fun _ => x))

/-- FMTQ of a slot's element code (R66). -/
def execFmtqElem (g : Guard) (d : RegCode) (k : BitVec 3) (s : State) : Host.Outcome State Fault Refusal :=
  s.issue fun c s =>
    let ts := active s c g
    let x := BitVec.ofNat 32 (fmtWord (slotElem (slotOf s c k.toNat)))
    fixed s c ts 4 (regWrites ts d.toNat (fun _ => x) (uImg fun _ => x))

/-- FPACK2 (R67). -/
def execFpack2 (g : Guard) (d : RegCode) (a b : Src) (s : State) : Host.Outcome State Fault Refusal :=
  s.issue (op2 4 g d a b fun x y => (y <<< 16) ||| (x &&& 0xFFFF))

/-- FUNPK2 (R67). -/
def execFunpk2 (g : Guard) (d : RegCode) (a b : Src) (s : State) : Host.Outcome State Fault Refusal :=
  s.issue (op2 4 g d a b fun x y => if y.getLsbD 0 then x >>> 16 else x &&& 0xFFFF)

end Sys2Proof.Machine
end

