-- ==== Sys2Proof/Machine/Tiles.lean ====
section
/-! DEFINITION. Tiles (R131 to R137, R147 to R154): their definition, queries, element loads and stores in the window and
in blanks (R302, R303), and LSERRQ. -/

namespace Sys2Proof.Machine

/-- What a tile instruction of thread `t` finds under a tile number (R131, R133, R303). -/
inductive TileFate where
  | bad
  | park
  | go (x : Tile)
  deriving DecidableEq, Repr

/-- The view of a view tile belongs to another thread (R303). -/
def Workgroup.foreignTile (w : Workgroup) (t : Nat) (x : Tile) : Bool :=
  match x.view with
  | none => false
  | some e => ((w.view? e).map (·.owner != t)).getD true

/-- The tile an element instruction names: FREE, absent or another thread's raises TILEBAD; it issues only while READY. -/
def Workgroup.tileFate (w : Workgroup) (t k : Nat) : TileFate :=
  match w.tiles[k]? with
  | none => .bad
  | some x =>
    if x.st = .free ∨ w.foreignTile t x then .bad
    else if x.st = .ready then .go x
    else .park

/-! TDEF and TFREE act once, for the elected thread (R148, R149). -/

/-- The checks of a tile descriptor (R148). -/
def tdefOk (w : Workgroup) (k : Nat) (e : Word64) : Bool :=
  let b := descBase e
  let p := descPitch e
  let top := b + descBytes e + 4
  ((w.tiles[k]?).map (·.st == .free)).getD false && e.toNat / 2^48 == 0 && decide (descSwz e < 2) && b % 16 == 0 &&
  p % descSize e == 0 && (descSwz e != 1 || (p == 128 && b % 128 == 0)) && decide (top ≤ w.lsbytes) &&
  !(w.slabs.zipIdx.any fun x => x.1.anvil && decide (b < 65536 * (x.2 + 1)) && decide (65536 * x.2 < top))

/-- A tile as it is defined (R148): operations accepted before it was freed still read it (R133, R224). -/
def Tile.define (x : Tile) (e : Word64) (ready : Bool) : Tile :=
  { Tile.free with st := if ready then .ready else .empty, desc := e, expected := descBytes e, readers := x.readers, lent := x.lent }

/-- The overflow counter before the increments of this clk: what a query of it sees that clears it in the same clk (R150). -/
def Tile.before (x : Tile) (clk : Nat) : Nat := if x.recent.1 = clk then x.recent.2.1 else x.ovf

/-- Increments that came in this clk, which a clear in it does not take back (R150). -/
def Tile.inc (x : Tile) (clk : Nat) : Nat := if x.recent.1 = clk then x.recent.2.2 else 0

/-- Increments of the overflow counter in this clk (R54, R136). -/
def Tile.addOvf (x : Tile) (n clk : Nat) : Tile :=
  { x with ovf := min (x.ovf + n) 0xFFFF, recent := (clk, x.before clk, min (x.inc clk + n) 0xFFFF) }

/-- The counter cleared, but for the increments of this clk, which come after the clear (R150). -/
def Tile.clearOvf (x : Tile) (clk : Nat) : Tile := { x with ovf := x.inc clk, recent := (clk, 0, x.inc clk) }

/-- TDEF (R148). -/
def execTdef (g : Guard) (e : BitVec 1) (a : RegCode) (k : BitVec 6) (s : State) : Host.Outcome State Fault Refusal :=
  s.issue fun c s =>
    let ts := active s c g
    match s.wg? c.wg with
    | none => s
    | some w =>
      if ts.isEmpty then s else
      let d := reg64 s c a (elect ts)
      if tdefOk w k.toNat d then
        (s.updTile c.wg k.toNat fun x => x.define d (e == 1)).localWrite c.wg (elect ts)
          (cellsAt (descBase d + descBytes d) (trailerBytes 0))
      else s.raiseAll c ts TILEBAD k.toNat

/-- What TFREE waits for: the end of a fill or a drain (R133), and of the reads of a copy to another tile (R197). -/
def Tile.busy (x : Tile) : Bool := x.st == .filling || x.st == .draining || decide (0 < x.lent)

/-- A tile number freed: operations accepted before still have to read it, and a fill waits for them (R149, R224). -/
def Tile.freed (x : Tile) : Tile := { Tile.free with readers := x.readers, lent := x.lent }

/-- TFREE (R149): all active threads park while the tile is FILLING or DRAINING. A tile bound to a root view stays
(R312); of a view tile only the number is freed (R314). -/
def execTfree (g : Guard) (k : BitVec 6) (s : State) : Host.Outcome State Fault Refusal :=
  s.issue fun c s =>
    let ts := active s c g
    match s.wg? c.wg with
    | none => s
    | some w =>
      if ts.isEmpty then s else
      match w.tiles[k.toNat]? with
      | none => s.raiseAll c ts TILEBAD k.toNat
      | some x =>
        if x.st = .free ∨ x.bound ∨ w.foreignTile (elect ts) x then s.raiseAll c ts TILEBAD k.toNat
        else if x.busy then ts.foldl (fun s t => s.park c.wg t (.free k.toNat)) s
        else s.updTile c.wg k.toNat Tile.freed

/-- The state word of TQRY (R150) with a value of the counter. -/
def tileWord (x : Tile) (ovf : Nat) : Nat :=
  ovf * 2^16 + descSwz x.desc * 2^8 + (x.desc.toNat / 2^44 % 4) * 2^6 + x.st.code

/-! Elements (R135, R151 to R153). -/

/-- The table of elements for convert (R151). -/
def tileElemOk (size elem : Nat) : Bool :=
  match size with
  | 1 => [0x10, 0x11, 0x40].contains elem
  | 2 => [0x03, 0x04, 0x41].contains elem
  | 4 => [0x01, 0x42].contains elem
  | _ => false

/-- An element converted to FP32 (R151): an FP32 element passes unchanged, a NaN too (log entry 53); integers round by the slot's
mode. -/
def elemTo32 (sl : Word64) (rho x : Nat) : Nat :=
  if slotElem sl = 1 then x
  else (f32.round (slotRound sl) rho false false (elemVal (slotElem sl) x)).bits

/-- A translated access to storage spots of one element: the physical address of its first spilled byte. -/
structure SpotAccess where
  spots : List Spot
  leaf : Option Leaf
  deriving DecidableEq, Repr

def Spot.va : Spot → Option Nat
  | .spill v => some v
  | _ => none

def Spot.winAddr : Spot → Option Nat
  | .win a => some a
  | _ => none

/-- The lowest virtual address of an element's spilled bytes. -/
def spillVa (ps : List Spot) : Option Nat := minOf (ps.filterMap Spot.va)

/-- An element access's translation in the spill area, with its fault code and address (R303). -/
def State.spotLeaf (s : State) (w : Workgroup) (k : Kind) (ps : List Spot) : Except (Nat × Nat) (Option Leaf) :=
  match spillVa ps with
  | none => .ok none
  | some v =>
    match s.access w k (BitVec.ofNat 64 v) .any with
    | .error e => .error (e, v)
    | .ok l => .ok (some l)

/-- Pages of a spilled blank, by the virtual address of each. -/
def spillPages (base size : Nat) : List Nat := (List.range ((size + 4095) / 4096)).map fun i => base + 4096 * i

/-- Write bytes to a context's spill area page by page, each translated in the context's world (R302, R398): no core's L1 keeps a copy
of them. A page that fails and whose fault no thread has taken is recorded. -/
def State.spillWrite (s : State) (n va : Nat) (bs : List Byte) : State :=
  (spillPages (va / 4096 * 4096) (va % 4096 + bs.length)).foldl (fun s p =>
    match s.devTranslate n .write p with
    | .error _ => s.recordStruct n (max va p)
    | .ok l =>
      let lo := max va p
      let part := (bs.drop (lo - va)).take (p + 4096 - lo)
      let pa := l.pa + lo % 4096
      let s := (s.l1.filter fun c => decide (c.pa < pa + part.length ∧ pa < c.pa + 128)).foldl (fun s c => s.l1Drop c.core (c.pa / 128)) s
      s.pkgWrite pa part) s

/-- The lowest code of several faults, then the lowest address (R31). -/
def lowestFault : List (Nat × Nat) → Option (Nat × Nat)
  | [] => none
  | x :: xs =>
    match lowestFault xs with
    | none => some x
    | some y => if y.1 < x.1 ∨ (y.1 = x.1 ∧ y.2 < x.2) then some y else some x

/-- The fault of the device's access to all of a spilled blank, the lowest code of several (R31, R398). -/
def State.spillFault (s : State) (n : Nat) (k : Kind) (va size : Nat) : Option (Nat × Nat) :=
  lowestFault ((spillPages (va / 4096 * 4096) (va % 4096 + size)).filterMap fun p =>
    match s.devTranslate n k p with
    | .error e => some (e, max va p)
    | .ok _ => none)

/-- The first instruction that reaches a spilled blank writes the identity into all of it (R302): the fault of that
write, or the state with it done. -/
def State.reachBlank (s : State) (w : Workgroup) (x : Tile) : Except (Nat × Nat) State :=
  match x.view.bind w.view? with
  | none => .ok s
  | some v =>
    match v.store with
    | .spill off false =>
      let va := (s.ctx w.ctx).desc.vspill + off
      match s.spillFault w.ctx .write va (descBytes v.desc + 4) with
      | some f => .error f
      | none => .ok ((s.spillWrite w.ctx va (identityBytes v.op v.desc)).updWg w.uid
          (·.updView v.entry fun v => { v with store := .spill off true }))
    | _ => .ok s

/-- TQRY (R150): fn 5 sets the counter and the trailer to 0, but for what an engine has counted in this clk. A lane for which the
tile is another thread's view tile raises TILEBAD (R303). A FREE tile's descriptor and byte counts read 0 and fn 5 writes no
trailer of it: the model's choice (log entry 52). -/
def execTqry (g : Guard) (f : BitVec 3) (d : RegCode) (k : BitVec 6) (s : State) : Host.Outcome State Fault Refusal :=
  s.issue fun c s =>
    let ts := active s c g
    match s.wg? c.wg, s.tile? c.wg k.toNat with
    | some w, some x =>
      let ok := ts.filter fun t => !w.foreignTile t x
      let late := if f = 5 then x.inc s.clk else 0
      let v : Word := BitVec.ofNat 32 (match f.toNat with
        | 1 => x.expected
        | 2 => x.arrived
        | 3 => x.desc.toNat % 2^32
        | 4 => x.desc.toNat / 2^32
        | 5 => tileWord x (x.before s.clk)
        | _ => tileWord x x.ovf)
      let s0 := if ok.isEmpty then s else s.seesReady c.wg [k.toNat]
      let s1 := fixed s0 c ok 8 (regWrites ok d.toNat (fun _ => v) (uImg fun _ => v))
      let s1 := if f = 5 ∧ !ok.isEmpty ∧ x.st ≠ .free then
          let s1 := s1.updTile c.wg k.toNat fun x => x.clearOvf s.clk
          let bs := trailerBytes late
          match x.view.bind w.view? with
          | none => s1.localWrite c.wg (elect ok) (cellsAt (descBase x.desc + descBytes x.desc) bs)
          | some v => match v.store with
            | .tile _ => s1.localWrite c.wg (elect ok) (cellsAt (descBase x.desc + descBytes x.desc) bs)
            | .spill off true => s1.spillWrite w.ctx ((s.ctx w.ctx).desc.vspill + off + descBytes x.desc) bs
            | .spill _ false => s1
            | .local_ k m => s1.updWg c.wg (·.updView v.entry fun y => { y with store := .local_ k (m.write (descBytes x.desc) bs) })
        else s1
      s1.raiseAll c (ts.filter fun t => w.foreignTile t x) TILEBAD k.toNat
    | _, _ => s.raiseAll c ts TILEBAD k.toNat

/-- What becomes of one lane of an element access. -/
inductive ElemFate where
  | fault (code addr : Nat)
  | park
  | go (x : Tile) (ps : List Spot) (l : Option Leaf)
  deriving DecidableEq, Repr

/-- The fate of a lane's element access at logical bytes `o .. o + n - 1` of a row (R135, R151 to R153). `inRange` is
whether the coordinates are in bounds; `more` are further faults of the lane. -/
def State.elemFate (s : State) (w : Workgroup) (t k : Nat) (kind : Kind) (inRange : Tile → Bool) (row : Nat)
    (o n : Tile → Nat) (more : Tile → List (Nat × Nat)) : ElemFate :=
  match w.tileFate t k with
  | .bad => .fault TILEBAD k
  | .park => .park
  | .go x =>
    let ps := if inRange x then (descOffs x.desc row (o x) (n x)).map (spotOf s w x) else []
    let tr : List (Nat × Nat) × Option Leaf := match s.spotLeaf w kind ps with
      | .error e => ([e], none)
      | .ok l => ([], l)
    let reach : List (Nat × Nat) := if !inRange x then [] else match s.reachBlank w x with
      | .error e => [e]
      | .ok _ => []
    match lowestFault (more x ++ (if inRange x then [] else [(TILEBAD, k)]) ++ tr.1 ++ reach) with
    | some f => .fault f.1 f.2
    | none => .go x ps tr.2

def ElemFate.tile : ElemFate → Option (Tile × List Spot × Option Leaf)
  | .go x ps l => some (x, ps, l)
  | _ => none

/-- The lanes that park or fault do so. -/
def State.settleElems (s : State) (c : Issue) (k : Nat) (fs : List (Nat × ElemFate)) : State :=
  fs.foldl (fun s f => match f.2 with
    | .fault code addr => s.raise c f.1 code addr
    | .park => s.park c.wg f.1 (.ready k)
    | .go .. => s) s

/-- The bytes of an element and whether one of them was poisoned. -/
def State.elemBytes (s : State) (w : Workgroup) (t : Nat) (ps : List Spot) (l : Option Leaf) : List Byte × Bool :=
  let v0 := (spillVa ps).getD 0
  let pa := fun v => (l.map (·.pa)).getD 0 + (v - v0)
  let bad := (w.poisonAt (ps.filterMap Spot.winAddr)).isSome ||
    ((spillVa ps).map fun _ => s.readPoisoned w.core (pa v0) ps.length ((l.map (·.c)).getD true)).getD false
  if bad then (ps.map fun _ => 0, true) else (ps.map fun p => s.spotByte w t p pa ((l.map (·.c)).getD true), false)

/-- Element loads of a bundle (R151, R153): a result counted on L that lands as an LDL's does, tag G. `rs` are the registers of
the coordinates. -/
def elemLoad (s : State) (c : Issue) (k : Nat) (rs : List Nat) (fs : List (Nat × ElemFate)) (regs : List Nat → (Nat → Tile × List Byte) → List RegWrite) :
    State :=
  match s.wg? c.wg with
  | none => s
  | some w =>
    let go := fs.filterMap fun f => f.2.tile.map fun x => (f.1, x)
    let ok := go.map (·.1)
    if s.counterFull c.wg ok .l then s.reissue c else
    let s := go.foldl (fun s g => match s.reachBlank w g.2.1 with
      | .ok s => s
      | .error _ => s) s
    let w := (s.wg? c.wg).getD w
    let s := if go.isEmpty then s else s.seesReady c.wg [k]
    let s := go.foldl (fun s g => match g.2.2.2 with
      | some l => s.freshen w g.1 (s.depOf c.wg g.1 rs) l
      | none => s) s
    let vals := go.map fun g => (g.1, g.2.1, s.elemBytes w g.1 g.2.2.1 g.2.2.2)
    let val := fun t => ((vals.lookup t).map fun v => (v.1, v.2.1)).getD (.free, [])
    let bad := ok.filter fun t => ((vals.lookup t).map (·.2.2)).getD false
    let all := (sortNat ok).flatMap fun t => ((go.lookup t).map fun x => x.2.1.filterMap Spot.winAddr).getD []
    let s := s.windowRead w ((sortNat ok).flatMap fun t =>
      (((go.lookup t).map fun x => x.2.1.filterMap Spot.winAddr).getD []).map (t, ·))
    let winOf := fun t => (go.lookup t).bind fun x => (x.2.1.filterMap Spot.winAddr).head?
    let s := bad.foldl (fun s t => match winOf t, (go.lookup t).bind (·.2.2) with
      | some a, _ => s.recordLocalPoison w a
      | none, some l => s.recordPoison w l.pa
      | none, none => s) s
    let addr := fun t => (winOf t).getD (((go.lookup t).bind fun x => spillVa x.2.1).getD 0)
    let s := if ok.isEmpty then s else
      (s.countUp c.wg ok .l).addPend (24 + (passes all - 1))
        { Pend.none_ c.wg ok with ctr := some .l, load := true, regs := regs ok val,
                                  poison := bad.map fun t => (t, BitVec.ofNat 64 (addr t)) }
    s.settleElems c k fs

/-- The pair checks of an 8-byte element (R151, R152). -/
def pairFaults (w : Workgroup) (d k : Nat) (x : Tile) (raw : Bool) : List (Nat × Nat) :=
  if raw && descSize x.desc == 8 then
    (if d % 2 != 0 || decide (d > 60) then [(TILEBAD, k)] else []) ++
    (if w.regs ≤ d + 1 then [(REGBOUND, d + 1)] else [])
  else []

/-- The slot check of a converting element access (R50, R151). -/
def convertFaults (sl : Word64) (x : Tile) (conv : Bool) : List (Nat × Nat) :=
  if conv && !(tileElemOk (descSize x.desc) (slotElem sl) && slotRoundOk sl && slotResOk sl) then [(FMTBAD, 0)] else []

/-- The fate of a lane of TLD or TST. -/
def State.tileLane (s : State) (w : Workgroup) (t k d row col : Nat) (kind : Kind) (conv : Bool) (sl : Word64) : ElemFate :=
  s.elemFate w t k kind
    (fun x => decide (row < descRows x.desc) && decide (col < descPitch x.desc / descSize x.desc)) row
    (fun x => col * descSize x.desc) (fun x => descSize x.desc)
    (fun x => pairFaults w d k x (!conv) ++ convertFaults sl x conv)

/-- The register words of a raw or converted element (R151). -/
def tldWords (f : Nat) (sl : Word64) (rho : Nat) (e : Nat) (bs : List Byte) : List Word :=
  let x := leNat bs
  match f with
  | 2 => [BitVec.ofNat 32 (elemTo32 sl rho x)]
  | 1 => if e = 8 then [BitVec.ofNat 32 x, BitVec.ofNat 32 (x / 2^32)] else [BitVec.ofNat 32 (sext (8 * e) 32 x)]
  | _ => if e = 8 then [BitVec.ofNat 32 x, BitVec.ofNat 32 (x / 2^32)] else [BitVec.ofNat 32 x]

/-- TLD (R151). -/
def execTld (g : Guard) (f : BitVec 3) (d : RegCode) (a : RegCode) (b : RegCode) (x : Word) (s : State) :
    Host.Outcome State Fault Refusal :=
  s.issue fun c s =>
    match s.wg? c.wg with
    | none => s
    | some w =>
      let k := x.toNat % 64
      let sl := slotOf s c (x.toNat / 64 % 8)
      let fs := (active s c g).map fun t => (t, s.tileLane w t k d.toNat (s.readReg c.wg t a.toNat).toNat
        (s.readReg c.wg t b.toNat).toNat .read (f == 2) sl)
      elemLoad s c k [a.toNat, b.toNat] fs fun ok val =>
        let word := fun i t => (tldWords f.toNat sl (Config.rho s.fresh (t % 32) 0).toNat (descSize (val t).1.desc) (val t).2).getD i 0
        let wide := ok.filter fun t => f != 2 && descSize (val t).1.desc == 8
        regWrites ok d.toNat (word 0) noImg ++
          (if wide.isEmpty then [] else regWrites wide (d.toNat + 1) (word 1) noImg)

/-- Bytes put at storage spots, as store-queue acts: in the window, in a blank, or in the spill area. `tl` is a trailer that
follows them: its spot, its leaf where it is spilled, its bytes (R136). -/
def spotAct (ps : List Spot) (l : Option Leaf) (bs : List Byte) (tl : Option (Spot × Option Leaf × List Byte)) : SqAct :=
  let zs := ps.zip bs
  let wins := zs.filterMap fun z => z.1.winAddr.map fun a => (a, [z.2])
  let blanks := zs.filterMap fun z => match z.1 with
    | .blank v o => some (v, o, z.2)
    | _ => none
  match spillVa ps, blanks with
  | some v, _ =>
    let at_ := fun i => ((zs.find? fun z => z.1.va == some (v + i)).map (·.2)).getD 0
    .spilled ([(v, (l.map (·.pa)).getD 0, (l.map (·.c)).getD true, (l.map (·.m)).getD false, (List.range ps.length).map at_)] ++ match tl with
      | some (.spill a, some k, b) => [(a, k.pa, k.c, k.m, b)]
      | _ => [])
  | none, (v, _, _) :: _ =>
    .blank v ((blanks.map fun z => (z.2.1, [z.2.2])) ++ match tl with
      | some (.blank _ o, _, b) => [(o, b)]
      | _ => [])
  | none, [] => .window (wins ++ match tl with
      | some (.win a, _, b) => [(a, b)]
      | _ => [])

/-- A TST lane's element bits and whether it saturated (R152). -/
def tstBits (s : State) (c : Issue) (f : BitVec 1) (sl : Word64) (d e t : Nat) : Rnd :=
  let lo := (s.readReg c.wg t d).toNat
  if f = 1 then
    roundElem (slotElem sl) (slotRound sl) (Config.rho s.fresh (t % 32) 0).toNat (slotSat sl) (f32.decode lo)
  else ⟨(if e = 8 then lo + 2^32 * (s.readReg c.wg t (d + 1)).toNat else lo % 2^(8 * e)), 0, false⟩

/-- One lane of TST: sat_count (R54), then its store-queue entry, the trailer after the element where the counter changed (R136).
The counter counts when the instruction issues, and the trailer carries the value it then has: the rule gives no moment, the model's
choice (log entry 58). A trailer in the spill area that does not translate is the lane's fault. -/
def tstLane (s : State) (c : Issue) (w : Workgroup) (f : BitVec 1) (sl : Word64) (d k seq t : Nat) (x : Tile)
    (ps : List Spot) (l : Option Leaf) : State :=
  let r := tstBits s c f sl d (descSize x.desc) t
  let bs := toBytes (descSize x.desc) r.bits
  let old := ((s.tile? c.wg k).map (·.ovf)).getD 0
  let new := if r.sat then min (old + 1) 0xFFFF else old
  let spot := spotOf s w x (descBytes x.desc)
  let trailer : Except (Nat × Nat) (Option (Spot × Option Leaf × List Byte)) :=
    if new = old then .ok none else
    match s.spotLeaf w .write [spot] with
    | .error e => .error e
    | .ok k => .ok (some (spot, k, trailerBytes new))
  match trailer with
  | .error e => s.raise c t e.1 e.2
  | .ok tl =>
    let s := s.updTile c.wg k fun x => if r.sat then x.addOvf 1 s.clk else x
    let addr := (ps.filterMap Spot.winAddr).foldl min ((ps.filterMap Spot.winAddr).headD 0)
    let s := s.foldStore w t (2^63 + addr) bs
    if l.isSome then s.enqueue w t seq true (spotAct ps l bs tl) else s.enqueueLocal c.wg t seq (spotAct ps l bs tl)

/-- TST (R152). -/
def execTst (g : Guard) (f : BitVec 1) (d : RegCode) (a : RegCode) (b : RegCode) (x : Word) (s : State) :
    Host.Outcome State Fault Refusal :=
  s.issue fun c s =>
    match s.wg? c.wg with
    | none => s
    | some w =>
      let k := x.toNat % 64
      let sl := slotOf s c (x.toNat / 64 % 8)
      let fs := (active s c g).map fun t => (t, s.tileLane w t k d.toNat (s.readReg c.wg t a.toNat).toNat
        (s.readReg c.wg t b.toNat).toNat .write (f == 1) sl)
      let go := fs.filterMap fun f => f.2.tile.map fun x => (f.1, x)
      let ok := go.map (·.1)
      let spilled := go.any fun g => g.2.2.2.isSome
      let addrs := fun t => ((go.lookup t).map fun x => x.2.1.filterMap Spot.winAddr).getD []
      if s.counterFull c.wg ok .s || s.sqFull c.wg ok then s.reissue c
      else if spilled && s.containFull c.wg ok.length then (s.uncontain c.wg).reissue c
      else
        let seq := s.nextId
        let fit := w.slotTakes (if spilled then 1 else 0) addrs ok
        let go := go.filter fun g => fit.contains g.1
        let s := go.foldl (fun s g => match s.reachBlank w g.2.1 with
          | .ok s => s
          | .error _ => s) ((if go.isEmpty then s else s.seesReady c.wg [k]).bump.logSegments c.wg (fit.flatMap addrs))
        let s := go.foldl (fun s g => tstLane s c w f sl d.toNat k seq g.1 g.2.1 g.2.2.1 g.2.2.2) s
        (s.settleElems c k fs).blockSlot c (ok.filter (!fit.contains ·))

/-- LDTR (R153). -/
def execLdtr (g : Guard) (d : RegCode) (a : RegCode) (b : RegCode) (x : Word) (s : State) :
    Host.Outcome State Fault Refusal :=
  s.issue fun c s =>
    match s.wg? c.wg with
    | none => s
    | some w =>
      let k := x.toNat % 64
      let fs := (active s c g).map fun t =>
        let row := (s.readReg c.wg t a.toNat).toNat + t % 32
        let col := (s.readReg c.wg t b.toNat).toNat
        (t, s.elemFate w t k .read
          (fun x => decide (row < descRows x.desc) && decide (col < descPitch x.desc / descSize x.desc) &&
            col * descSize x.desc % 4 == 0) row (fun x => col * descSize x.desc) (fun _ => 4) (fun _ => []))
      elemLoad s c k [a.toNat, b.toNat] fs fun ok val => regWrites ok d.toNat (fun t => BitVec.ofNat 32 (leNat (val t).2)) noImg

/-- LSERRQ (R154): sampled at issue; fn 0 clears it. The result lands after 8 clk (R150). -/
def execLserrq (g : Guard) (f : BitVec 1) (d : RegCode) (s : State) : Host.Outcome State Fault Refusal :=
  s.issue fun c s =>
    let ts := active s c g
    match s.wg? c.wg with
    | none => s
    | some w =>
      let v := (s.lsErr w.ctx w.core).sample s.clk
      let s := fixed s c ts 8 (pairWrites ts d.toNat (fun _ => v) (uImg2 fun _ => v))
      if f = 0 ∧ !ts.isEmpty then s.clearLserr w.ctx w.core else s

end Sys2Proof.Machine
end

