-- ==== Sys2Proof/Machine/Place.lean ====
section
/-! DEFINITION. Room on cores (R17, R18, R20), the start of a workgroup (R70, R267, R280, R349, R357, R358), and its end
by being killed (R358, R376). -/

namespace Sys2Proof.Machine

/-! Room. -/

/-- What a workgroup draws on the pools of its core. -/
structure Need where
  threads : Nat
  regs : Nat
  ls : Nat
  slabs : Nat
  tiles : Nat
  views : Nat
  slot : Bool
  banks : Nat
  deriving DecidableEq, Repr

def LaunchRec.need (r : LaunchRec) : Need :=
  { threads := r.threads, regs := r.threads / 32 * r.regs * (if r.redun then 2 else 1), ls := r.lsbytes, slabs := r.slabs,
    tiles := r.tiles, views := r.views, slot := r.redun || r.contain, banks := 0 }

def Workgroup.need (w : Workgroup) : Need :=
  { threads := w.threads.length, regs := w.threads.length / 32 * w.regs * (if w.copied then 2 else 1), ls := w.lsbytes,
    slabs := w.slabs.length, tiles := w.tiles.length, views := w.nviews, slot := w.hasSlot,
    banks := (w.cr.filter (·.held)).length }

/-- Bytes of a view's storage (R296). -/
def viewBytes (d : Word64) : Nat := descBytes d + 4

/-- 4 KiB granules of a core held by blanks and by shadows of merges (R302, R307). -/
def State.granules (s : State) (core : Nat) : Nat :=
  sumNat (s.wgs.flatMap fun w => w.views.map fun v => match v.store with
    | .local_ k _ => if k = core then (viewBytes v.desc + 4095) / 4096 else 0
    | _ => 0) +
  sumNat (s.merges.map fun m => match m.shadow, m.off, s.wg? m.carrier.1 with
    | some b, none, some w => if w.core = core then (b.length + 4095) / 4096 else 0
    | _, _, _ => 0)

/-- Crucible banks of a core that are held, or are still in use by operations accepted before their release (R243). -/
def State.banksUsed (s : State) (core : Nat) : Nat :=
  sumNat ((s.wgs.filter (·.core == core)).map fun w => (w.cr.filter (·.held)).length) +
  (s.crBusy.filter fun b => ((s.wg? b.wg).map (·.core == core)).getD false).length +
  sumNat ((s.crReqs.filter fun r => r.core == core && r.due.isSome).map (·.n))

/-- Local-store bytes of a core that windows and granules leave. -/
def State.lsFree (s : State) (core : Nat) : Nat :=
  1048576 - sumNat ((s.wgs.filter (·.core == core)).map (·.lsbytes)) - 4096 * s.granules core

/-- A core has room for a workgroup. -/
def State.roomOn (s : State) (core : Nat) (n : Need) : Bool :=
  let ws := (s.wgs.filter (·.core == core)).map Workgroup.need
  s.dieLive (dieOf core) && decide (ws.length < 16) &&
  decide (sumNat (ws.map (·.threads)) + n.threads ≤ 2048) && decide (sumNat (ws.map (·.regs)) + n.regs ≤ 2048) &&
  decide (n.ls ≤ s.lsFree core) && decide (sumNat (ws.map (·.slabs)) + n.slabs ≤ 16) &&
  decide (sumNat (ws.map (·.tiles)) + n.tiles ≤ 64) && decide (sumNat (ws.map (·.views)) + n.views ≤ 128) &&
  (!n.slot || decide (s.slotsUsed (dieOf core) < 32)) && (n.banks == 0 || decide (s.banksUsed core + n.banks ≤ 16))

/-- The lowest free workgroup slot of a core. -/
def State.freeSlot (s : State) (core : Nat) : Nat :=
  ((List.range 16).find? fun i => !s.wgs.any fun w => w.core == core && w.slot == i).getD 0

/-! Rectangles (R266). -/

/-- Core `c` of a rectangle, as a core index (R11, R266). -/
def LaunchRec.coreAt (r : LaunchRec) (c : Nat) : Nat := 32 * (r.y0 + c / r.w) + (r.x0 + c % r.w)

def LaunchRec.cores (r : LaunchRec) : List Nat := (List.range (r.w * r.h)).map r.coreAt

def LaunchRec.total (r : LaunchRec) : Nat := r.gridx * r.gridy

/-- The partner core of R349. -/
def LaunchRec.partner (r : LaunchRec) (core : Nat) : Nat :=
  if 8 ≤ r.w then 32 * coreY core + (r.x0 + (coreX core - r.x0 + r.w / 2) % r.w)
  else 32 * (r.y0 + (coreY core - r.y0 + r.h / 2) % r.h) + coreX core

/-- Workgroup g of a SCREEN launch is screened (R357). -/
def LaunchRec.screened (r : LaunchRec) (ctx g : Nat) : Bool :=
  r.screen && (crc64 0 (toBytes 1 ctx ++ toBytes 4 g)).toNat % 2^(r.flags / 2^8 % 16) == 0

/-- Workgroup g runs as a pair of copies. -/
def LaunchRec.paired (r : LaunchRec) (ctx g : Nat) : Bool := r.redun || r.screened ctx g

/-- Copies of a launch on a core, for the WGPC limit (R267). -/
def State.copiesOn (s : State) (l : Nat) (core : Nat) : Nat := (s.wgs.filter fun w => w.launch == l && w.core == core).length

/-- A core takes workgroup `g` of a launch, with its partner for a pair. -/
def State.admits (s : State) (l : Launch) (g core : Nat) : Bool :=
  let pair := l.lr.paired l.ctx g
  let ok := fun c => s.roomOn c { l.lr.need with slot := l.lr.need.slot || pair } && decide (s.copiesOn l.id c < l.lr.wgpc)
  ok core && (!pair || ok (l.lr.partner core))

/-- The core that takes workgroup `g`: core g mod (W × H) at first, else the lowest-numbered one (R267); one killed on a
die goes to another die of the rectangle where there is one (R358). -/
def State.coreFor (s : State) (l : Launch) (g : Nat) (not_ : Option Nat) : Option Nat :=
  let cs := l.lr.cores
  let others := match not_ with
    | some d => if cs.any fun c => dieOf c != d then cs.filter fun c => dieOf c != d else cs
    | none => cs
  let first := l.lr.coreAt (g % (l.lr.w * l.lr.h))
  if not_.isNone && decide (g < l.lr.w * l.lr.h * l.lr.wgpc) && s.admits l g first then some first
  else others.find? (s.admits l g)

/-! Starting a workgroup. -/

/-- The queues of a mask. -/
def maskBits (m : Word64) : List Nat := (List.range 64).filter fun q => m.getLsbD q

/-- The seed task's entry (R280). -/
def seedEntry (r : LaunchRec) : TaskEntry :=
  { words := [BitVec.ofNat 32 r.entry, 0x80000000, 0, 0, 0, 0, 0], queue := ((maskBits r.qmask).head?).getD 0, spawn := 0, host := false }

def LaunchRec.isTask (r : LaunchRec) : Bool := r.qmask != 0

/-- Thread `t` of workgroup `g` as it starts. -/
def LaunchRec.thread (r : LaunchRec) (g t clk : Nat) : Thread :=
  let th := Thread.start (BitVec.ofNat 48 (r.code + r.entry)) clk
  if !r.isTask then th
  else if g = 0 ∧ t = 0 then { th with task := some (seedEntry r), seed := true }
  else { th with st := .idle }

/-- A workgroup of a launch as it becomes resident (R70). -/
def State.newWorkgroup (s : State) (l : Launch) (g core uid kills : Nat) : Workgroup :=
  let r := l.lr
  { uid := uid, launch := l.id, ctx := l.ctx, g := g, core := core, slot := s.freeSlot core, age := uid, served := 0,
    secure := r.secure, regs := r.regs, threads := (List.range r.threads).map fun t => r.thread g t s.clk,
    waves := List.replicate (r.threads / 32) (List.replicate r.regs (.u 0)), window := [], lsbytes := r.lsbytes, poison := [],
    flips := [], slabs := List.replicate r.slabs ⟨false, [], [], []⟩, slabQ := [], tiles := List.replicate r.tiles .free,
    views := [], nviews := r.views, barriers := List.replicate 16 ⟨0, 0, 0⟩, omaps := List.replicate 8 none,
    cr := List.replicate r.crbanks .free, leases := [.none, .none, .none], cq := 0, lserr := 0, ydeadline := 0, yreq := false,
    yielded := false, gparked := false, redun := none, contain := if r.contain then some ⟨true, []⟩ else none,
    kills := kills }

/-- What a copy saves at a commit point (R352). -/
def Workgroup.checkpoint (w : Workgroup) (point : Nat) : Checkpoint :=
  { point := point, threads := w.threads, waves := w.waves, barriers := w.barriers, tiles := w.tiles, window := w.window }

def Redun.start (trailing screen : Bool) (partner : Nat) (k : Checkpoint) : Redun :=
  { trailing := trailing, screen := screen, partner := partner, point := 0, matched := 0, sigs := [], checkpoints := [k],
    rollbacks := 0, everRolled := false, everFaulted := false, bad := [], screenHit := false, inject := false, reexec := false,
    final := false, buf := [], fwd := [], atoms := [], issued := [], segs := [], rel := [], injAt := [] }

/-- Workgroup `g` is placed and starts, as a pair where its launch asks for one; its start is an acquire at SYSTEM
(R273). A slot that it takes leaves its die's cache less room (R20). One of a SCREEN launch that is not screened runs once, with
signatures and commit points (R351, R357). -/
def State.startWg (s : State) (l : Launch) (g kills core : Nat) : State :=
  let u := s.nextId
  let w := s.newWorkgroup l g core u kills
  if l.lr.paired l.ctx g then
    let c := l.lr.partner core
    let v := { s.newWorkgroup l g c (u + 1) kills with contain := none }
    let s := (s.l1Acquire core).l1Acquire c
    (({ s with nextId := u + 2
               wgs := s.wgs ++ [{ w with redun := some (.start false l.lr.screen (u + 1) (w.checkpoint 0)) },
                                { v with redun := some (.start true l.lr.screen u (v.checkpoint 0)) }] } : State).dieTrim
      (dieOf core)).dieTrim (dieOf c)
  else
    let s := s.l1Acquire core
    ({ s with nextId := u + 1, wgs := s.wgs ++ [if l.lr.screen then { w with redun := some (.start false true 0 (w.checkpoint 0)) } else w] }
      : State).dieTrim (dieOf core)

/-! Killing (R358, R376). -/

/-- A workgroup leaves its core with all it holds. Commands of a copy queue that were accepted run on (R193). -/
def State.removeWg (s : State) (u : Nat) : State :=
  let gone := fun p : Nat × Nat => p.1 == u
  { s.dropFlight u with
    wgs := s.wgs.filter (·.uid != u)
    cmds := s.cmds.filter fun c => !(c.wg == u && !c.accepted)
    ops := s.ops.filter (·.wg != u)
    crReqs := s.crReqs.filter (·.wg != u)
    crBusy := s.crBusy.filter (·.wg != u)
    leaseReqs := s.leaseReqs.filter (·.wg != u)
    engines := s.engines.map fun e => if e.owner = some u then { e with owner := none } else e
    merges := s.merges.filter fun m => !gone m.carrier
    migrations := s.migrations.filter (·.wg != u)
    owned := s.owned.filter fun o => match o.2 with
      | .token w _ => w != u
      | _ => true
    launches := s.launches.map fun l =>
      { l with tokenHolder := if (l.tokenHolder.map gone).getD false then none else l.tokenHolder
               tokenQueue := l.tokenQueue.filter (!gone ·) } }

/-- A workgroup and its partner leave. -/
def State.removePair (s : State) (u : Nat) : State :=
  match (s.wg? u).bind (·.redun) with
  | some r => (s.removeWg u).removeWg r.partner
  | none => s.removeWg u

/-- The status byte of workgroup g (R359, R265). -/
def State.setStatus (s : State) (l g : Nat) (b : Byte) : State :=
  s.updLaunch l fun x => { x with status := x.status ++ [(g, b)], retired := x.retired + 1 }

/-- Killed without relaunch: the launch completes with KILLED. -/
def State.killHard (s : State) (u : Nat) : State :=
  match s.wg? u with
  | none => s
  | some w =>
    ((s.removePair u).updLaunch w.launch fun l => { l with killed := true }).setStatus w.launch w.g 3

/-- A contained workgroup is killed: its held stores are dropped, and it starts again on another die. At the fourth time
it is treated as uncontained (R358). -/
def State.killContained (s : State) (u : Nat) : State :=
  match s.wg? u with
  | none => s
  | some w =>
    if 3 ≤ w.kills then s.killHard u
    else (s.removePair u).updLaunch w.launch fun l => { l with again := l.again ++ [(w.g, w.kills + 1, dieOf w.core)] }

/-- A thread's result or operation consumed poisoned data (R348, R358): the record is written where the data was read.
A redundant copy's interval is undone at the comparison. -/
def State.consume (s : State) (u t : Nat) (addr : Word64) : State :=
  match s.wg? u with
  | none => s
  | some w =>
    if w.copied then s.updWg u (·.updRedun Redun.mark)
    else match w.contain with
      | some k => if k.on then s.killContained u else s.killHard u
      | none => s.updThread u t fun th => if th.st = .exited then th else { th with poison := some addr }

end Sys2Proof.Machine
end

