-- ==== Sys2Proof/Machine/Control.lean ====
section
/-! DEFINITION. The CONTROL class (R82 to R92) but for EXIT: branches, calls, meet registers, votes, shuffles, tags and
indexed moves. -/

namespace Sys2Proof.Machine

/-- target := address of this word + 4 × sext(off21, 21) (R32). -/
def relTarget (c : Issue) (o : BitVec 21) : CodeAddr := c.addr + (o.signExtend 48 <<< 2)

/-- New pcs; the threads are candidates at their next header at the earliest 4 clk after issue (R83). -/
def branch (s : State) (c : Issue) (f : Nat → Option CodeAddr) : State :=
  s.updThreads c.wg c.tids fun t th =>
    match f t with
    | some a => { th with pc := a, mid := none, notBefore := s.clk + 4 }
    | none => { th with notBefore := s.clk + 4 }

/-- A register branch: a misaligned target raises ALIGN with TRAPADDR := the target (R84, R36). -/
def regBranch (s : State) (c : Issue) (ts : List Nat) (f : Nat → CodeAddr) : State :=
  let bad := ts.filter fun t => (f t).toNat % 4 != 0
  let s := branch s c fun t => if ts.contains t && !bad.contains t then some (f t) else none
  bad.foldl (fun s t => s.raise c t ALIGN (f t).toNat) s

/-- NOP (R88). -/
def execNop (_g : Guard) (s : State) : Host.Outcome State Fault Refusal := s.issue fun _ s => s

/-- BRA (R83). -/
def execBra (_g : Guard) (o : BitVec 21) (s : State) : Host.Outcome State Fault Refusal :=
  s.issue fun c s => branch s c fun _ => some (relTarget c o)

/-- BRP (R83): pd is the condition. -/
def execBrp (g : Guard) (o : BitVec 21) (s : State) : Host.Outcome State Fault Refusal :=
  s.issue fun c s => branch s c fun t => if s.predOf c.wg t g.pd.toNat then some (relTarget c o) else none

/-- BRN (R83). -/
def execBrn (g : Guard) (o : BitVec 21) (s : State) : Host.Outcome State Fault Refusal :=
  s.issue fun c s => branch s c fun t => if s.predOf c.wg t g.pd.toNat then none else some (relTarget c o)

/-- BRX (R84). -/
def execBrx (g : Guard) (a : Src) (s : State) : Host.Outcome State Fault Refusal :=
  s.issue fun c s => regBranch s c (active s c g) fun t => c.addr + (src s c a t).signExtend 48

/-- JMP (R84): bits 63:48 of the pair are ignored. -/
def execJmp (g : Guard) (a : RegCode) (s : State) : Host.Outcome State Fault Refusal :=
  s.issue fun c s => regBranch s c (active s c g) fun t => (reg64 s c a t).setWidth 48

/-- CALL (R85). -/
def execCall (g : Guard) (o : BitVec 21) (s : State) : Host.Outcome State Fault Refusal :=
  s.issue fun c s =>
    let ts := active s c g
    (branch s c fun t => if ts.contains t then some (relTarget c o) else none).updThreads c.wg ts
      fun _ th => { th with link := c.next }

/-- CALLR (R85): the old link goes to the pair, with tag G; a thread whose target is misaligned changes nothing. -/
def execCallr (g : Guard) (d : RegCode) (a : RegCode) (s : State) : Host.Outcome State Fault Refusal :=
  s.issue fun c s =>
    let ts := active s c g
    let f := fun t => (reg64 s c a t).setWidth 48
    let ok := ts.filter fun t => (f t).toNat % 4 == 0
    let old := fun t => (((s.thread? c.wg t).map Thread.link).getD 0).setWidth 64
    let s1 := fixed s c ok 4 (pairWrites ok d.toNat old noImg2)
    (regBranch (s1.updThreads c.wg ok fun _ th => { th with link := c.next }) c ts f)

/-- RET (R85). -/
def execRet (g : Guard) (s : State) : Host.Outcome State Fault Refusal :=
  s.issue fun c s => regBranch s c (active s c g) fun t => ((s.thread? c.wg t).map Thread.link).getD 0

/-- MEET (R86). -/
def execMeet (g : Guard) (o : BitVec 21) (s : State) : Host.Outcome State Fault Refusal :=
  s.issue fun c s => s.updThreads c.wg (active s c g) fun _ th => { th with meet := some (relTarget c o) }

/-- UNMEET (R86). -/
def execUnmeet (g : Guard) (s : State) : Host.Outcome State Fault Refusal :=
  s.issue fun c s => s.updThreads c.wg (active s c g) fun _ th => { th with meet := none }

/-- q(l) of VOTE (R89). -/
def voteBit (s : State) (c : Issue) (a : PredCode) (inv : BitVec 1) (t : Nat) : Bool :=
  s.predOf c.wg t a.toNat != (inv == 1)

/-- VOTE.any (R89). -/
def execVoteAny (g : Guard) (d a : PredCode) (inv : BitVec 1) (s : State) : Host.Outcome State Fault Refusal :=
  s.issue fun c s => opPred 4 g d (fun _ => (active s c g).any (voteBit s c a inv)) c s

/-- VOTE.all (R89). -/
def execVoteAll (g : Guard) (d a : PredCode) (inv : BitVec 1) (s : State) : Host.Outcome State Fault Refusal :=
  s.issue fun c s => opPred 4 g d (fun _ => (active s c g).all (voteBit s c a inv)) c s

/-- VOTE.ballot (R89). -/
def execVoteBallot (g : Guard) (d : RegCode) (a : PredCode) (inv : BitVec 1) (s : State) : Host.Outcome State Fault Refusal :=
  s.issue fun c s =>
    let ts := active s c g
    let x : Word := BitVec.ofNat 32 (sumNat ((ts.filter (voteBit s c a inv)).map fun t => 2^(t % 32)))
    fixed s c ts 4 (regWrites ts d.toNat (fun _ => x) (uImg fun _ => x))

/-- SHFL (R90): `pick` gives the source lane from the reader's lane and the operand; outside 0 to 31, or a lane with no
active thread, the reader's own value. -/
def shuffle (g : Guard) (d : RegCode) (a b : Src) (pick : Int → Int → Int) (c : Issue) (s : State) : State :=
  let ts := active s c g
  let val := fun t =>
    let l := pick (t % 32 : Nat) ((src s c b t).toNat % 32 : Nat)
    match ts.find? fun q => ((q % 32 : Nat) : Int) == l with
    | some q => src s c a q
    | none => src s c a t
  fixed s c ts 6 (regWrites ts d.toNat val (uRule s c (srcRegs a) val))

def execShflIdx (g : Guard) (d : RegCode) (a b : Src) (s : State) : Host.Outcome State Fault Refusal :=
  s.issue (shuffle g d a b fun _ k => k)

def execShflUp (g : Guard) (d : RegCode) (a b : Src) (s : State) : Host.Outcome State Fault Refusal :=
  s.issue (shuffle g d a b fun l k => l - k)

def execShflDown (g : Guard) (d : RegCode) (a b : Src) (s : State) : Host.Outcome State Fault Refusal :=
  s.issue (shuffle g d a b fun l k => l + k)

def execShflXor (g : Guard) (d : RegCode) (a b : Src) (s : State) : Host.Outcome State Fault Refusal :=
  s.issue (shuffle g d a b fun l k => ((l.toNat ^^^ k.toNat : Nat) : Int))

/-- The image a source field reads, each outstanding write done whole or not at all (R79, R91). -/
def srcWhole (s : State) (c : Issue) (hw : Nat) : Src → RegImg
  | .reg r => s.wholeImg c.wg hw r.toNat
  | .imm x => .u x

/-- The image SHAPE forces, from lanes 0 and 1 of the source (R91). -/
def shapeImg (t : BitVec 6) (i : RegImg) : RegImg :=
  match t.toNat with
  | 0 => .u (i.lane 0)
  | 1 => .a (i.lane 0) (i.lane 1 - i.lane 0)
  | _ => .g i.expand

/-- SHAPE (R91). -/
def execShape (g : Guard) (d : RegCode) (a : Src) (t : BitVec 6) (s : State) : Host.Outcome State Fault Refusal :=
  s.issue fun c s =>
    let ts := active s c g
    fixed s c ts 4 (regWrites ts d.toNat (fun i => (shapeImg t (srcWhole s c (i / 32) a)).lane (i % 32))
      fun hw => some (shapeImg t (srcWhole s c hw a)))

/-- TAGQ (R91). -/
def execTagq (g : Guard) (d : RegCode) (a : Src) (s : State) : Host.Outcome State Fault Refusal :=
  s.issue fun c s =>
    let ts := active s c g
    let val := fun t => BitVec.ofNat 32 (srcWhole s c (t / 32) a).tag
    fixed s c ts 4 (regWrites ts d.toNat val (uImg val))

/-- A register index held in a register is within REGS and not 63 (R92). -/
def indexOk (s : State) (c : Issue) (n : Word) : Bool :=
  decide (n.toNat < ((s.wg? c.wg).map (·.regs)).getD 0) && n.toNat != 63

/-- MOVX (R92). -/
def execMovx (g : Guard) (d : RegCode) (a : Src) (s : State) : Host.Outcome State Fault Refusal :=
  s.issue fun c s =>
    let ts := active s c g
    let ok := ts.filter fun t => indexOk s c (src s c a t)
    let bad := ts.filter fun t => !indexOk s c (src s c a t)
    let val := fun t => s.readReg c.wg t (src s c a t).toNat
    let s1 := fixed s c ok 6 (regWrites ok d.toNat val fun hw =>
      if (srcImg s c hw a).isU then some (s.readImg c.wg hw (src s c a (32 * hw)).toNat) else none)
    bad.foldl (fun s1 t => s1.raise c t REGBOUND (src s c a t).toNat) s1

/-- MOVXW (R92). -/
def execMovxw (g : Guard) (a b : Src) (s : State) : Host.Outcome State Fault Refusal :=
  s.issue fun c s =>
    let ts := active s c g
    let ok := ts.filter fun t => indexOk s c (src s c a t)
    let bad := ts.filter fun t => !indexOk s c (src s c a t)
    let ns := (ok.map fun t => (src s c a t).toNat).eraseDups
    let s1 := fixed s c ok 6 (ns.flatMap fun n =>
      regWrites (ok.filter fun t => (src s c a t).toNat == n) n (src s c b) fun hw =>
        if (srcImg s c hw a).isU then some (srcImg s c hw b) else none)
    bad.foldl (fun s1 t => s1.raise c t REGBOUND (src s c a t).toNat) s1

end Sys2Proof.Machine
end

