-- ==== Sys2Proof/Machine/Sync.lean ====
section
/-! DEFINITION. Fences, acquire loads and release stores (R176, R177), waiting on a word (R178), workgroup barriers (R179),
arrival at the grid barrier (R180), and transactions (R169 to R173, R182 to R184). -/

namespace Sys2Proof.Machine

/-! FENCE. -/

/-- Commands and operations of a thread that are not finished. -/
def State.cmdsOf (s : State) (u t : Nat) : Bool := s.cmds.any fun q => q.wg == u && q.tidx == t
def State.opsOf (s : State) (u t : Nat) : Bool := s.ops.any fun o => o.wg == u && o.tidx == t

/-- Return-free atomics of a thread that are not performed, those at a hearth until it has applied them (R156, R181). -/
def State.anOf (s : State) (u t : Nat) : Bool :=
  (s.atoms.any fun a => a.wg == u && a.tidx == t && a.result.isNone) ||
  s.channels.any fun h => h.queue.any fun a => a.wg == u && a.tidx == t

def State.resultAtoms (s : State) (u t : Nat) : Bool := s.atoms.any fun a => a.wg == u && a.tidx == t && a.result.isSome

/-- Whether a thread's accesses of the kinds in the mask are performed at the scope's point (R156, R164, R176). Loads are
performed at issue; stores that a contained workgroup or a leading copy holds back are not waited for (R353, R358). -/
def State.fenceDone (s : State) (u scope pred succ t : Nat) : Bool :=
  let th := s.thread? u t
  let sqEmpty := (th.map (·.sq.isEmpty)).getD true
  let toEngine := pred.testBit 1 && (succ.testBit 2 || succ.testBit 4)
  (!(pred.testBit 1 || succ.testBit 1 || pred.testBit 7) || sqEmpty) &&
  (!(pred.testBit 0 || pred.testBit 1) || !s.resultAtoms u t) &&
  (!pred.testBit 1 || (s.scopeDone u scope t && !s.releasing u t)) && (!toEngine || s.seenDone u t) &&
  (!(pred.testBit 2 || pred.testBit 3) || !s.cmdsOf u t) &&
  (!(pred.testBit 4 || pred.testBit 5) || !s.opsOf u t) &&
  (!pred.testBit 6 || !s.anOf u t)

/-- FENCE (R176): the bundle goes on once every active thread's predecessors are performed. Below RECT, a fence of engine writes or reductions
before reads discards the copies that engines have written behind (R164). -/
def execFence (g : Guard) (k : BitVec 3) (x : Word) (s : State) : Host.Outcome State Fault Refusal :=
  s.issue fun c s =>
    let pred := x.toNat % 256
    let succ := x.toNat / 256 % 256
    let ts := active s c g
    if pred = 0 ∨ succ = 0 ∨ ts.isEmpty then s
    else if !(ts.all (s.fenceDone c.wg k.toNat pred succ)) then s.reissue c
    else
      let toEngine := pred.testBit 1 && (succ.testBit 2 || succ.testBit 4)
      let s := if ((pred.testBit 1 || succ.testBit 1) && decide (3 ≤ k.toNat)) || toEngine then s.l1Release c.core else s
      if !succ.testBit 0 then s
      else if 3 ≤ k.toNat then s.l1Acquire c.core
      else if pred.testBit 3 || pred.testBit 5 || pred.testBit 6 then s.l1Observe c.core
      else s

/-! LDA, STRL. -/

/-- A thread's queue holds bytes of an access: a read at a wider point waits for them (R161). -/
def Thread.queued (th : Thread) (pa n : Nat) : Bool :=
  th.sq.any fun e => e.act.cells.any fun x => decide (pa ≤ x.1 ∧ x.1 < pa + n)

/-- LDA (R177): an acquire at RECT or wider discards the core's copies and reads at the point. -/
def execLda (g : Guard) (k : BitVec 3) (d : RegCode) (a : RegCode) (off : Off) (s : State) :
    Host.Outcome State Fault Refusal :=
  s.issue fun c s =>
    let ts := active s c g
    let ea := eaGlobal s c a off 4
    let wide := decide (3 ≤ k.toNat)
    let stuck := wide && (match s.wg? c.wg with
      | none => false
      | some w => ts.any fun t => match s.access w .read (ea t) (.sized 4), w.threads[t]? with
        | .ok l, some th => th.queued l.pa 4 || s.sentTo w.core l.pa 4
        | _, _ => false)
    if stuck then s.reissue c
    else globalLoad (if wide && !ts.isEmpty then s.l1Acquire c.core else s) c ts 4 ea id (baseDep s c a) fun _ ok val =>
      loadRegs 4 d.toNat ok val false

/-- STRL (R177): at THREAD scope a plain store. -/
def execStrl (g : Guard) (k : BitVec 3) (d : RegCode) (a : RegCode) (off : Off) (s : State) :
    Host.Outcome State Fault Refusal :=
  s.issue fun c s =>
    let ea := eaGlobal s c a off 4
    let data := storeBytes s c 4 d
    globalStore s c (active s c g) 4 ea data fun t l =>
      if k = 0 then .memory (ea t).toNat l.pa l.c l.m (data t) else .release k.toNat (ea t).toNat l.pa l.c l.m (data t)

/-! WAITV. -/

/-- The conditions of R178. -/
def waitHolds (cond : Nat) (m v : Word) : Bool :=
  match cond with
  | 0 => m == v
  | 1 => m != v
  | 2 => decide (m.toNat ≥ v.toNat)
  | 3 => decide (m.toNat < v.toNat)
  | 4 => decide (m.toInt ≥ v.toInt)
  | _ => decide (m.toInt < v.toInt)

/-- A WAITV is external for the watchdog: host memory, another package, or an EXT range (R333). -/
def State.external (s : State) (n va pa : Nat) : Bool :=
  isHost pa || s.remote pa || (s.ctx n).desc.ext.any fun e => decide (e.1 ≤ va ∧ va < e.1 + e.2)

/-- The word at the SYSTEM point (R178), under what the workgroup holds back, which its own threads see (R353, R358). -/
def State.systemWord (s : State) (w : Workgroup) (pa : Nat) : Word :=
  BitVec.ofNat 32 (leNat (overlay pa ((s.l1Clean w.core (sectorOf pa)).pkgRead pa 4) w.bufCells))

/-- A satisfying read: an acquire at SYSTEM, forwarded to a trailing copy (R178, R350). -/
def State.waitMet (s : State) (w : Workgroup) (t : Nat) (ea : Word64) (m : Word) : State :=
  (s.l1Acquire w.core).forward w t ea (toBytes 4 m.toNat)

/-- A read that finds poison ends the wait: the record, and the consumption, which kills a workgroup with CONTAIN (R348, R358). -/
def State.waitPoison (s : State) (w : Workgroup) (t pa : Nat) (ea : Word64) : State :=
  ((s.recordPoison w pa).forward w t ea (toBytes 4 0)).consume w.uid t ea

/-- What WAITV finds in one lane. -/
inductive WaitFate where
  | fault (code : Nat)
  | again
  | met (m : Word)
  | poisoned (pa : Nat)
  | wait (pa : Nat)
  deriving DecidableEq, Repr

/-- A lane's read of its word. It waits for what its thread has stored, and its core has sent to another package, before (R159, R161). -/
def State.waitFate (s : State) (w : Workgroup) (t cond : Nat) (ea : Word64) (v : Word) : WaitFate :=
  match s.access w .read ea (.memory 4) with
  | .error e => .fault e
  | .ok l =>
    if w.trailing then
      match w.nextFwd t with
      | some x => .met (BitVec.ofNat 32 (leNat x.2))
      | none => .again
    else if ((w.threads[t]?).map (·.sq.isEmpty)).getD true && !s.ownAtom w.uid t l.pa 4 s.nextId && !s.sentTo w.core l.pa 4 then
      if s.ownedBy (dieOf w.core) l.pa 4 none then .wait l.pa
      else if s.readPoisoned w.core l.pa 4 false then .poisoned l.pa
      else
        let m := s.systemWord w l.pa
        if waitHolds cond m v then .met m else .wait l.pa
    else .again

/-- The lane has read a value, which goes onto a pair's forwarding path. -/
def WaitFate.reads : WaitFate → Bool
  | .met _ => true
  | .poisoned _ => true
  | _ => false

/-- WAITV (R178). -/
def execWaitv (g : Guard) (k : BitVec 3) (d : RegCode) (a : RegCode) (off : Off) (s : State) :
    Host.Outcome State Fault Refusal :=
  s.issue fun c s =>
    match s.wg? c.wg with
    | none => s
    | some w =>
      let ea := eaGlobal s c a off 4
      let fs := (active s c g).map fun t => (t, s.waitFate w t k.toNat (ea t) (s.readReg c.wg t d.toNat))
      if fs.any (·.2 == .again) || s.fwdStalls w ((fs.filter (·.2.reads)).map (·.1)) then s.reissue c
      else fs.foldl (fun s1 f => match f.2 with
        | .fault e => s1.raise c f.1 e ((ea f.1).toNat % 2^48)
        | .met m => s1.waitMet w f.1 (ea f.1) m
        | .poisoned pa => s1.waitPoison w f.1 pa (ea f.1)
        | .wait pa => s1.block c.wg f.1 (.waitv k.toNat (ea f.1).toNat (s.readReg c.wg f.1 d.toNat)
            (s.external w.ctx (ea f.1).toNat pa)) none
        | .again => s1) s

/-- What a waiting thread's word is now (R178). -/
def State.rereadFate (s : State) (w : Workgroup) (t : Nat) (th : Thread) : Option (Nat × WaitFate) :=
  match th.st with
  | .blocked (.waitv cond va v _) =>
    if !s.mayRun w t then none else
    match s.waitFate w t cond (BitVec.ofNat 64 va) v with
    | .wait _ => none
    | .again => none
    | f => if f.reads && s.fwdStalls w [t] then none else some (va, f)
  | _ => none

/-- WAITV_REREAD (R178): the word is read again; a satisfying read ends the wait. -/
def fireWaitvReread (s : State) : Option State :=
  s.wgs.findSome? fun w => w.threads.zipIdx.findSome? fun p =>
    (s.rereadFate w p.2 p.1).map fun f =>
      match f.2 with
      | .met m => (s.waitMet w p.2 (BitVec.ofNat 64 f.1) m).release w.uid p.2
      | .poisoned pa => (s.waitPoison w p.2 pa (BitVec.ofNat 64 f.1)).release w.uid p.2
      | .fault e => (s.updThread w.uid p.2 Thread.rewind).raiseAt w.uid p.2 e (f.1 % 2^48)
      | _ => s

def execWaitvReread (s : State) : Host.Outcome State Fault Refusal := .next ((fireWaitvReread s).getD s)

/-! Workgroup barriers (R179). -/

/-- Exited threads and idle slots count towards a barrier of all the threads (R179, R280). -/
def Workgroup.exitCount (w : Workgroup) (b : Barrier) : Nat :=
  if b.expected = w.threads.length then (w.threads.filter fun th => !th.unexited).length else 0

/-- Waiters of a completed phase are released 8 clk later. -/
def Workgroup.wakeBarrier (w : Workgroup) (k clk : Nat) : Workgroup :=
  { w with threads := w.threads.map fun th =>
      let mine := match th.st with
        | .blocked (.bar j _) => j == k
        | .blocked (.awaitb j _) => j == k
        | _ => false
      if mine && th.wake.isNone then { th with wake := some (clk + 8) } else th }

/-- A phase completes when its arrivals and exits suffice (R179). -/
def Workgroup.completeBarrier (w : Workgroup) (k clk : Nat) : Workgroup :=
  match w.barriers[k]? with
  | none => w
  | some b =>
    if b.expected ≠ 0 ∧ b.arrived ≥ b.expected - w.exitCount b then
      { w with barriers := w.barriers.set k ⟨0, 0, (b.phase + 1) % 256⟩ }.wakeBarrier k clk
    else w

/-- One arrival at barrier `k` with count `n`. -/
def Workgroup.arrive (w : Workgroup) (k n clk : Nat) : Workgroup :=
  ({ w with barriers := w.barriers.modify k fun b =>
      { b with expected := if b.expected = 0 then n else b.expected, arrived := b.arrived + 1 } }).completeBarrier k clk

def Workgroup.phase (w : Workgroup) (k : Nat) : Nat := ((w.barriers[k]?).map (·.phase)).getD 0

/-- An exit may complete phases that count exits (R179). -/
def Workgroup.exitBarriers (w : Workgroup) (clk : Nat) : Workgroup :=
  (List.range 16).foldl (fun w k => w.completeBarrier k clk) w

/-- The threads' store queues are empty (R169). -/
def State.queuesEmpty (s : State) (u : Nat) (ts : List Nat) : Bool := ts.all fun t => ((s.thread? u t).map (·.sq.isEmpty)).getD true

/-- A release at GROUP: the threads' earlier accesses of kinds R and W have been performed at the core (R156, R179). -/
def State.groupReleased (s : State) (u : Nat) (ts : List Nat) : Bool := s.queuesEmpty u ts && ts.all fun t => !s.resultAtoms u t

/-- BAR and BARX: the arrivals and the waits, lane by lane. -/
def barWait (s : State) (c : Issue) (ts : List Nat) (k : Nat) (n : Nat → Nat) : State :=
  if !s.groupReleased c.wg ts then s.reissue c
  else ts.foldl (fun s t =>
    let ph := ((s.wg? c.wg).map (·.phase k)).getD 0
    (s.block c.wg t (.bar k ph) none).updWg c.wg (·.arrive k (n t) s.clk)) s

def State.threadsOf (s : State) (c : Issue) : Nat := ((s.wg? c.wg).map (·.threads.length)).getD 0

/-- BAR (R179). -/
def execBar (g : Guard) (k : BitVec 4) (s : State) : Host.Outcome State Fault Refusal :=
  s.issue fun c s => barWait s c (active s c g) k.toNat fun _ => s.threadsOf c

/-- A barrier count within 1 to THREADS (R179). -/
def countOk (s : State) (c : Issue) (n : Word) : Bool := decide (1 ≤ n.toNat ∧ n.toNat ≤ s.threadsOf c)

/-- BARX (R179): a count out of range raises ILLOP and makes no arrival. -/
def execBarx (g : Guard) (a : Src) (k : BitVec 4) (s : State) : Host.Outcome State Fault Refusal :=
  s.issue fun c s =>
    let ts := active s c g
    let s1 := barWait s c (ts.filter fun t => countOk s c (src s c a t)) k.toNat fun t => (src s c a t).toNat
    if s1.cur.isNone then s1 else s1.raiseAll c (ts.filter fun t => !countOk s c (src s c a t)) ILLOP 0

/-- ARRIVE (R179): the phase before each arrival, 8 clk later, tag G. -/
def execArrive (g : Guard) (f : BitVec 1) (d : RegCode) (a : Src) (k : BitVec 4) (s : State) :
    Host.Outcome State Fault Refusal :=
  s.issue fun c s =>
    let ts := active s c g
    let ok := ts.filter fun t => f == 0 || countOk s c (src s c a t)
    let bad := ts.filter fun t => !(f == 0 || countOk s c (src s c a t))
    if !s.groupReleased c.wg ok then s.reissue c
    else
      let n := fun t => if f = 0 then s.threadsOf c else (src s c a t).toNat
      let r := ok.foldl (fun (r : State × List (Nat × Nat)) t =>
        (r.1.updWg c.wg (·.arrive k.toNat (n t) s.clk), r.2 ++ [(t, ((r.1.wg? c.wg).map (·.phase k.toNat)).getD 0)])) (s, [])
      (fixed r.1 c ok 8 (regWrites ok d.toNat (fun t => BitVec.ofNat 32 ((r.2.lookup t).getD 0)) noImg)).raiseAll c bad ILLOP 0

/-- AWAITB (R179). -/
def execAwaitb (g : Guard) (a : Src) (k : BitVec 4) (s : State) : Host.Outcome State Fault Refusal :=
  s.issue fun c s =>
    let ph := ((s.wg? c.wg).map (·.phase k.toNat)).getD 0
    ((active s c g).filter fun t => (src s c a t).toNat % 256 == ph).foldl
      (fun s t => s.block c.wg t (.awaitb k.toNat ph) none) s

/-- BARRIER_RELEASE (R179): the waiters of a completed phase go on, all those of a workgroup and clk together. -/
def barrierDue (s : State) (th : Thread) : Bool :=
  match th.st, th.wake with
  | .blocked (.bar ..), some d => decide (d ≤ s.clk)
  | .blocked (.awaitb ..), some d => decide (d ≤ s.clk)
  | _, _ => false

def fireBarrierRelease (s : State) : Option State :=
  match s.wgs.find? fun w => s.wgRuns w && w.threads.any (barrierDue s) with
  | none => none
  | some w => some (s.updWg w.uid fun w =>
      { w with threads := w.threads.map fun th => if barrierDue s th then th.release s.clk else th })

def execBarrierRelease (s : State) : Host.Outcome State Fault Refusal := .next ((fireBarrierRelease s).getD s)

/-- GSYNC (R180): ILLOP without COOP; an arrival is a release at PACKAGE. GSYNC_COMPLETE ends the wait. -/
def execGsync (g : Guard) (s : State) : Host.Outcome State Fault Refusal :=
  s.issue fun c s =>
    match s.wg? c.wg with
    | none => s
    | some w =>
      let ts := active s c g
      if !(s.lrOf w).coop then s.raiseAll c ts ILLOP 0
      else if !(ts.all fun t => s.groupReleased c.wg [t] && s.seenDone c.wg t && !s.releasing c.wg t) then s.reissue c
      else ts.foldl (fun s t => s.block c.wg t .gsync none) (if ts.isEmpty then s else s.l1Release c.core)

/-! Transactions. -/

/-- A transaction opened (R182). -/
def Thread.openTx (th : Thread) (target : CodeAddr) (token : Bool) : Thread :=
  { th with tx := { th.tx with active := true, target := target, reads := [], wsecs := [], writes := [], msecs := [], token := token } }

/-- TBEGIN (R169, R172, R182): it waits for the store queue; after 8 aborts a thread waits there for the token. -/
def execTbegin (g : Guard) (o : BitVec 21) (s : State) : Host.Outcome State Fault Refusal :=
  s.issue fun c s =>
    match s.wg? c.wg with
    | none => s
    | some w =>
      let ts := active s c g
      if !s.queuesEmpty c.wg ts then s.reissue c
      else
        let tgt := relTarget c o
        let many := fun t => ((w.threads[t]?).map fun th => decide (8 ≤ th.tx.aborts)).getD false
        ts.foldl (fun s t =>
          if many t then
            let s := s.updThread c.wg t fun th => { th with tx := { th.tx with target := tgt } }
            (s.block c.wg t .token none).updLaunch w.launch fun l => { l with tokenQueue := l.tokenQueue ++ [(c.wg, t)] }
          else s.updThread c.wg t (·.openTx tgt false)) s

/-- TOKEN_GRANT (R172): the first waiter takes the free token and its TBEGIN completes. -/
def fireTokenGrant (s : State) : Option State :=
  s.launches.findSome? fun l =>
    match l.tokenHolder, l.tokenQueue with
    | none, (u, t) :: q =>
      match s.wg? u with
      | none => some (s.updLaunch l.id fun l => { l with tokenQueue := q })
      | some w =>
        if !s.wgRuns w then none else
        match w.threads[t]? with
        | some th =>
          if th.st = .blocked .token then
            some ((s.updThread u t fun th => (th.openTx th.tx.target true).release s.clk).updLaunch l.id fun l =>
              { l with tokenHolder := some (u, t), tokenQueue := q })
          else some (s.updLaunch l.id fun l => { l with tokenQueue := q })
        | none => some (s.updLaunch l.id fun l => { l with tokenQueue := q })
    | _, _ => none

def execTokenGrant (s : State) : Host.Outcome State Fault Refusal := .next ((fireTokenGrant s).getD s)

/-- Conflicts inside the bundle (R171): against a lower lane's sets that has not aborted. -/
def Tx.overlaps (x low : Tx) : Bool :=
  (x.wsecs.any fun k => low.readSecs.contains k || low.wsecs.contains k) || x.readSecs.any fun k => low.wsecs.contains k

/-- Lanes that abort with CONFLICT inside the bundle, taken in ascending home lane order; the token's holder does not, and lanes
that overlap it do (R172). `low` are the lanes that have not aborted. -/
def laneConflicts : List (Nat × Tx) → List (Nat × Tx) → List Nat
  | _, [] => []
  | low, x :: xs =>
    if !x.2.token && low.any fun y => x.2.overlaps y.2 then x.1 :: laneConflicts low xs else laneConflicts (low ++ [x]) xs

/-- Validation (R171): every read-set sector still holds what was read, and no other token holder owns a sector. The token's holder
owns its sectors, so it never fails here (R172). -/
def State.txValid (s : State) (u t : Nat) (x : Tx) : Bool :=
  x.token || (x.reads.all fun r => s.pkgRead (128 * r.1) r.2.length == r.2) &&
  (x.readSecs ++ x.wsecs).all fun k => !s.owned.any fun o => o.1 == k && match o.2 with
    | .token u' t' => !(u' == u && t' == t)
    | _ => false

/-- An engine still owns a sector of the sets: TEND waits for it (R163). -/
def State.txOwned (s : State) (x : Tx) : Bool :=
  (x.readSecs ++ x.wsecs).any fun k => s.owned.any fun o => o.1 == k && match o.2 with
    | .token .. => false
    | _ => true

/-- The write set performed as one step, at the PACKAGE point, or held by a contained workgroup; the transaction ends
(R171, R358). -/
def State.commitTx (s : State) (w : Workgroup) (t : Nat) (x : Tx) : State :=
  let s := x.writes.foldl (fun s y =>
    if ((s.wg? w.uid).map (·.contained)).getD false then
      s.enqueue w t 0 false (.memory 0 y.1 true (x.msecs.contains (sectorOf y.1)) y.2)
    else s.mirrorWrite w.uid t y.1 (x.msecs.contains (sectorOf y.1)) y.2) s
  (s.dropToken w.uid t).updThread w.uid t fun th =>
    { th with tx := { th.tx with active := false, reads := [], wsecs := [], writes := [], msecs := [], aborts := 0, token := false } }

/-- TEND (R171, R183); write sets that a contained workgroup's slot has no room for end containment first (R358). -/
def execTend (g : Guard) (s : State) : Host.Outcome State Fault Refusal :=
  s.issue fun c s =>
    match s.wg? c.wg with
    | none => s
    | some w =>
      let ts := active s c g
      let txs := ts.filterMap fun t => (w.threads[t]?).map fun th => (t, th.tx)
      let opened := txs.filter (·.2.active)
      let outside := (txs.filter (!·.2.active)).map (·.1)
      if opened.any fun x => s.txOwned x.2 || w.releasing x.1 then s.reissue c
      else if s.containFull c.wg (sumNat (opened.map (·.2.writes.length))) then (s.uncontain c.wg).reissue c
      else
        let lost := laneConflicts (opened.filter (·.2.token)) opened
        let secs := opened.flatMap fun x => x.2.readSecs ++ x.2.wsecs
        let s := secs.foldl (fun s k => s.l1Drop w.core k) s
        let s := opened.foldl (fun s x =>
          if lost.contains x.1 || !s.txValid w.uid x.1 x.2 then s.abortTx w.uid x.1 1 0 0
          else s.commitTx w x.1 x.2) s
        s.raiseAll c outside TXFAULT 0

/-- TABORT (R184). -/
def execTabort (g : Guard) (b : Src) (s : State) : Host.Outcome State Fault Refusal :=
  s.issue fun c s =>
    let ts := active s c g
    ts.foldl (fun s1 t =>
      if ((s.thread? c.wg t).map (·.tx.active)).getD false then s1.abortTx c.wg t 6 0 ((src s c b t).toNat % 256)
      else s1.raise c t TXFAULT 0) s

/-- The transaction status word (R173). -/
def Tx.word (x : Tx) : Nat :=
  (if x.active then 2^31 else 0) + (if x.token then 2^30 else 0) + x.aborts * 2^24 + x.fcode * 2^16 + x.cause * 2^8 + x.code

/-- TSTAT (R184): tag G, 4 clk. -/
def execTstat (g : Guard) (d : RegCode) (s : State) : Host.Outcome State Fault Refusal :=
  s.issue fun c s =>
    let ts := active s c g
    fixed s c ts 4 (regWrites ts d.toNat (fun t =>
      BitVec.ofNat 32 (((s.thread? c.wg t).map fun th => th.tx.word).getD 0)) noImg)

end Sys2Proof.Machine
end

