-- ==== Sys2Proof/Machine/Device.lean ====
section
/-! DEFINITION. Records in memory: blocks that an instruction reads in its thread's world at issue (R190, R288), and the
device's own accesses to a context's structures (R398). -/

namespace Sys2Proof.Machine

/-- A run of bytes cut at 128-byte boundaries: the address and length of each piece. -/
def chunks (a n : Nat) : List (Nat × Nat) :=
  if n = 0 then [] else
  (List.range ((a % 128 + n + 127) / 128)).map fun i =>
    let lo := max a ((a / 128 + i) * 128)
    (lo, min (a + n) ((a / 128 + i + 1) * 128) - lo)

/-- A block as a thread's instruction reads it at issue (R190, R288): the fault of it (code, address), or its bytes and
the first poisoned physical address. -/
def State.blockRead (s : State) (w : Workgroup) (t va n : Nat) : Except (Nat × Nat) (List Byte × Option Nat) :=
  let rs := (chunks va n).map fun c => (c, s.access w .read (BitVec.ofNat 64 c.1) .any)
  let faults := rs.filterMap fun r => match r.2 with
    | .error e => some (e, r.1.1 % 2^48)
    | .ok l => if isIo l.pa then some (PERMISSION, r.1.1 % 2^48) else none
  match lowestFault faults with
  | some f => .error f
  | none =>
    let ls := rs.filterMap fun r => match r.2 with
      | .ok l => some (l, r.1.2)
      | .error _ => none
    .ok (ls.flatMap fun x => s.threadBytes w t x.1.pa x.2 x.1.c,
         (ls.find? fun x => s.readPoisoned w.core x.1.pa x.2 x.1.c).map (·.1.pa))

/-- A read of bytes by a thread waits: an earlier atomic of its own to them is to be performed, or someone else owns a sector of them and the
L1 holds no copy (R161, R163, R172, R212). -/
def State.readWaits (s : State) (w : Workgroup) (t : Nat) (l : Leaf) (n : Nat) : Bool :=
  let tx := ((w.threads[t]?).map (·.tx)).getD .none
  s.ownAtom w.uid t l.pa n s.nextId ||
  (s.ownedBy (dieOf w.core) l.pa n (if tx.token then some (.token w.uid t) else none) &&
    !(l.c && !tx.token && (s.l1Find w.core (sectorOf l.pa)).isSome))

/-- A block's read at issue waits as a load does (R163, R212). -/
def State.blockWaits (s : State) (w : Workgroup) (t va n : Nat) : Bool :=
  (chunks va n).any fun c => match s.access w .read (BitVec.ofNat 64 c.1) .any with
    | .ok l => s.readWaits w t l c.2
    | .error _ => false

/-- The device reads bytes of a structure of context `n` in a world: the fault code and address, or the bytes and whether
they were poisoned (R398). -/
def State.devRead (s : State) (n : Nat) (secure : Bool) (va len : Nat) : Except (Nat × Nat) (List Byte × Option Nat) :=
  let rs := (chunks va len).map fun c => (c, s.translate none n secure .read c.1)
  match rs.find? fun r => match r.2 with | .error _ => true | .ok _ => false with
  | some (c, .error e) => .error (e, c.1)
  | _ =>
    let ls := rs.filterMap fun r => match r.2 with
      | .ok l => some (l.pa, r.1.2)
      | .error _ => none
    .ok (ls.flatMap fun x => s.pkgRead x.1 x.2, (ls.find? fun x => s.poisoned x.1 x.2).map (·.1))

/-- The device writes bytes of a structure, or none of them. -/
def State.devWrite (s : State) (n : Nat) (secure : Bool) (va : Nat) (bs : List Byte) : Except (Nat × Nat) State :=
  let rs := (chunks va bs.length).map fun c => (c, s.translate none n secure .write c.1)
  match rs.find? fun r => match r.2 with | .error _ => true | .ok _ => false with
  | some (c, .error e) => .error (e, c.1)
  | _ => .ok (rs.foldl (fun s r => match r.2 with
      | .ok l => s.pkgWrite l.pa ((bs.drop (r.1.1 - va)).take r.1.2)
      | .error _ => s) s)

/-- The device writes bytes page by page (R265, R398): a part whose translation or check fails is not written and leaves a
record. -/
def State.devPut (s : State) (n : Nat) (secure : Bool) (va : Nat) (bs : List Byte) : State :=
  (spillPages (va / 4096 * 4096) (va % 4096 + bs.length)).foldl (fun s p =>
    let lo := max va p
    match s.devWrite n secure lo ((bs.drop (lo - va)).take (p + 4096 - lo)) with
    | .ok s => s
    | .error e => s.recordStruct n e.2) s

/-- Poisoned data that the device read at a physical address: the record of its home (R348, R361). -/
def State.recordDev (s : State) (n pa : Nat) : State :=
  s.recordErr (homeDie pa) { ue := true, inj := !s.lost.contains (sectorOf pa), unit := 0x09, ctx := some n, w1 := 128 * sectorOf pa + 2^63 }

/-- A release at PACKAGE by threads of a workgroup: their stores are performed there (R161, R273, R278). -/
def State.pkgReleased (s : State) (u : Nat) (ts : List Nat) : Bool :=
  s.groupReleased u ts && ts.all fun t => s.seenDone u t && !s.releasing u t

end Sys2Proof.Machine
end

