-- ==== Sys2Proof/Machine/Launch.lean ====
section
/-! DEFINITION. Launches (R261 to R273, R286 to R290): the record and its checks, placement, retirement, completion, the
grid barrier, the launch ring, LAUNCH, LWAIT and MIGRATE. -/

namespace Sys2Proof.Machine

/-! The record (R261, R262). -/

def parseLaunch (bs : List Byte) : LaunchRec :=
  { raw := bs, code := field bs 0 8, entry := field bs 8 4, regs := field bs 0x0C 1, prio := field bs 0x0D 1,
    flags := field bs 0x0E 2, x0 := field bs 0x10 1, y0 := field bs 0x11 1, w := field bs 0x12 1, h := field bs 0x13 1,
    wgpc := field bs 0x14 1, threads := field bs 0x16 2, lsbytes := field bs 0x18 4, slabs := field bs 0x1C 1,
    crbanks := field bs 0x1D 1, tiles := field bs 0x1E 1, views := field bs 0x1F 1, gridx := field bs 0x20 4,
    gridy := field bs 0x24 4, param := BitVec.ofNat 64 (field bs 0x28 8),
    fmt := (List.range 8).map fun i => BitVec.ofNat 64 (field bs (0x30 + 8 * i) 8), qmask := BitVec.ofNat 64 (field bs 0x70 8),
    stencil := BitVec.ofNat 64 (field bs 0x80 8), done := field bs 0x88 8 }

def LaunchRec.screenlog (r : LaunchRec) : Nat := r.flags / 2^8 % 16

/-- Step 1 of R263: the fields within R261 and R262. -/
def LaunchRec.fieldsOk (r : LaunchRec) : Bool :=
  decide (r.code < 2^48) && r.code % 256 == 0 && decide (8 ≤ r.regs ∧ r.regs ≤ 64) && r.regs % 8 == 0 && decide (r.prio ≤ 7) &&
  r.flags / 2^12 == 0 && r.flags / 2^6 % 4 == 0 && decide (r.x0 ≤ 31) && decide (r.y0 ≤ 31) && [1, 2, 4, 8, 16, 32].contains r.w &&
  [1, 2, 4, 8, 16, 32].contains r.h && decide (1 ≤ r.wgpc ∧ r.wgpc ≤ 16) && zeroAt r.raw 0x15 1 &&
  decide (32 ≤ r.threads ∧ r.threads ≤ 1024) && r.threads % 32 == 0 && r.lsbytes % 4096 == 0 &&
  decide (r.lsbytes ≤ 1048576 ∧ 65536 * r.slabs ≤ r.lsbytes) && decide (r.slabs ≤ 16) && decide (r.crbanks ≤ 16) &&
  decide (r.tiles ≤ 64) && decide (r.views ≤ 128) && decide (1 ≤ r.gridx) && decide (1 ≤ r.gridy) && decide (r.total < 2^32) &&
  zeroAt r.raw 0x78 8 && decide (r.done < 2^48) && r.done % 8 == 0 && zeroAt r.raw 0x90 112 &&
  !(r.redun && r.screen) && !(r.redun && r.coop) && !(r.coop && r.isTask) && (r.screen || r.screenlog == 0)

/-! Acceptance (R263). -/

/-- Status codes (R264). -/
def stOK : Nat := 0
def stHASHMISMATCH : Nat := 1
def stBADRECORD : Nat := 2
def stBADCODE : Nat := 3
def stBADRECT : Nat := 4
def stHOLE : Nat := 5
def stNORESOURCE : Nat := 6
def stWORLD : Nat := 7
def stTASKGRID : Nat := 8
def stFULL : Nat := 9
def stKILLED : Nat := 10
def stNOHANDLE : Nat := 11
def stQBUSY : Nat := 12

/-- The code object header (R24) as the dispatcher reads it. -/
def State.objHeader (s : State) (n : Nat) (secure : Bool) (code : Nat) : Option (List Byte) :=
  match s.devRead n secure code 64 with
  | .ok (bs, none) => if field bs 0 4 = 0x51484F43 ∧ field bs 4 2 = 1 ∧ zeroAt bs 6 2 ∧ zeroAt bs 0x20 32 then some bs else none
  | _ => none

/-- Step 4 of R263. -/
def State.entryOk (s : State) (n : Nat) (secure : Bool) (r : LaunchRec) (h : List Byte) : Bool :=
  let off := field h 0x10 4
  let size := field h 0x14 4
  let va := r.code + r.entry
  off % 64 == 0 && field h 0x18 4 % 64 == 0 && size % 4 == 0 && r.entry % 4 == 0 && decide (off ≤ r.entry ∧ r.entry + 4 ≤ off + size) &&
  match s.translate none n secure .exec (va % 2^48) with
  | .error _ => false
  | .ok l => !s.poisoned l.pa 4 && hdrValid (leNat (s.pkgRead l.pa 4))

/-- Copies of a launch that a core holds at once (R17, R18, R263 step 9). -/
def LaunchRec.perCore (r : LaunchRec) : Nat :=
  let lim := fun pool n : Nat => if n = 0 then 16 else pool / n
  let n := r.need
  [r.wgpc, 16, lim 2048 n.threads, lim 2048 n.regs, lim 1048576 n.ls, lim 16 n.slabs, lim 64 n.tiles, lim 128 n.views].foldl min 16

/-- Workgroups of a grid that run as a pair. -/
def LaunchRec.pairs (r : LaunchRec) (ctx : Nat) : Nat := ((List.range r.total).filter (r.paired ctx)).length

/-- Copies that the workgroups of a grid run as. -/
def LaunchRec.copies (r : LaunchRec) (ctx : Nat) : Nat := r.total + r.pairs ctx

/-- Copies that take a store-buffer slot (R20, R349, R357, R358). -/
def LaunchRec.slotted (r : LaunchRec) (ctx : Nat) : Nat := if r.contain then r.copies ctx else 2 * r.pairs ctx

/-- Slots that the dies of a rectangle offer to the copies that their cores hold at once (R20, R263 step 9). -/
def LaunchRec.slotRoom (r : LaunchRec) : Nat :=
  let cores := min r.w 4 * min r.h 4
  r.w * r.h / cores * min 32 (cores * r.perCore)

/-- The first check of R263 that fails, or OK. -/
def State.launchStatus (s : State) (q : LaunchReq) (r : LaunchRec) : Nat :=
  if !r.fieldsOk then stBADRECORD else
  match s.objHeader q.ctx q.secure r.code with
  | none => stBADCODE
  | some h =>
    if field h 8 8 ≠ Config.encodingHash then stHASHMISMATCH
    else if !s.entryOk q.ctx q.secure r h then stBADCODE
    else if r.x0 % r.w ≠ 0 ∨ r.y0 % r.h ≠ 0 ∨ r.x0 + r.w > 32 ∨ r.y0 + r.h > 32 ∨ ((r.redun || r.screen) ∧ r.w ≤ 4 ∧ r.h ≤ 4) then
      stBADRECT
    else if r.cores.any fun c => !s.dieLive (dieOf c) then stHOLE
    else if r.need.regs > 2048 then stNORESOURCE
    else if r.secure && !q.secure then stWORLD
    else if r.isTask && (decide (r.total > r.w * r.h * r.perCore) || decide (r.copies q.ctx > r.w * r.h * r.perCore) ||
        decide (r.slotted q.ctx > r.slotRoom)) then stTASKGRID
    else if (maskBits r.qmask).any fun k => (((s.ctx q.ctx).tqs[k]?).bind (·.claim)).isSome then stQBUSY
    else if !q.host && decide (64 ≤ (s.ctx q.ctx).handles.length) then stFULL
    else stOK

/-! Completion (R265). -/

/-- The completion word. -/
def doneWord (handle status : Nat) : List Byte := toBytes 8 (handle * 2^32 + 2^31 + status)

/-- A free handle, non-zero and unique among the context's valid ones (R271); which one is left open. -/
def State.newHandle (s : State) (n : Nat) : Nat :=
  let used := ((s.ctx n).handles).map (·.1)
  let c := Config.choice s.fresh
  (((List.range 65).map fun i => (c + i) % (2^24 - 1) + 1).find? (!used.contains ·)).getD 1

/-- A refused launch: its completion word, and vector 2 for a host record (R265, R272). -/
def State.refuse (s : State) (q : LaunchReq) (r : LaunchRec) (status : Nat) (readable : Bool) : State :=
  let s := if readable && r.done != 0 then s.devPut q.ctx (r.secure && q.secure) r.done (doneWord 0 status) else s
  if q.host then s.irq 2 else s

/-- The launch is accepted: it claims its queues (R280). -/
def State.accept (s : State) (q : LaunchReq) (r : LaunchRec) (handle : Nat) : State :=
  let id := s.nextId
  let l : Launch :=
    { id := id, ctx := q.ctx, handle := handle, lr := r, next := 0, again := [], retired := 0, killed := false, status := [],
      tokenHolder := none, tokenQueue := [], complete := false, rr := 0, rrq := 0 }
  let s := { s with nextId := id + 1, launches := s.launches ++ [l] }
  s.updCtx q.ctx fun c =>
    { c with
      handles := if handle = 0 then c.handles else c.handles ++ [(handle, id)]
      tqs := (maskBits r.qmask).foldl (fun ts k => ts.modify k fun x => { x with claim := some id, stencil := r.stencil }) c.tqs }

/-- HEAD of a launch ring advances, and the device writes it (R272). -/
def State.ringAdvance (s : State) (n : Nat) : State :=
  let c := s.ctx n
  let head := c.ring.head + 1
  (s.updCtx n fun c => { c with ring := { c.ring with head := head }, rung := c.rung.filter fun x => x.1 != head }).pkgWrite
    (c.ring.headerPa + 0x10) (toBytes 4 head.toNat)

/-- A record is checked, and accepted or refused; a device launch's result lands, and a host launch is taken from its ring (R263,
R272, R288). -/
def State.acceptance (s : State) (q : LaunchReq) : State :=
  let r := parseLaunch q.raw
  let st := s.launchStatus q r
  let s := s.tickFree
  let handle := if st = stOK ∧ !q.host then s.newHandle q.ctx else 0
  let s := if st = stOK then s.accept q r handle else s.refuse q r st true
  if q.host then s.ringAdvance q.ctx
  else s.addPend 0 { Pend.none_ q.wg [q.tidx] with
    seq := q.id, ctr := some .v, regs := regWrites [q.tidx] q.d (fun _ => BitVec.ofNat 32 (st * 2^24 + handle)) noImg }

/-- LAUNCH_ACCEPTANCE (R263): launches are checked in the order in which the dispatcher reads them (R273). -/
def fireLaunchAcceptance (s : State) : Option State :=
  match s.launchReqs with
  | [] => none
  | q :: qs => if q.due ≤ s.clk then some ({ s with launchReqs := qs }.acceptance q) else none

def execLaunchAcceptance (s : State) : Host.Outcome State Fault Refusal := .next ((fireLaunchAcceptance s).getD s)

/-- LAUNCH (R288): a release at PACKAGE, which ends containment first (R358); each lane submits the record it reads at issue. -/
def execLaunch (g : Guard) (d : RegCode) (a : RegCode) (s : State) : Host.Outcome State Fault Refusal :=
  s.issue fun c s =>
    match s.wg? c.wg with
    | none => s
    | some w =>
      let ts := active s c g
      if s.counterFull c.wg ts .v || ts.any fun t => s.blockWaits w t (reg64 s c a t).toNat 256 then s.reissue c
      else if !ts.isEmpty && w.holding then (s.uncontain c.wg).reissue c
      else if !s.pkgReleased c.wg ts then s.reissue c
      else
        let s := if ts.isEmpty then s else s.l1Release c.core
        ts.foldl (fun s t =>
          let va := (reg64 s c a t).toNat
          match s.blockRead w t va 256 with
          | .error e => s.raise c t e.1 e.2
          | .ok (bs, bad) =>
            if va % 64 ≠ 0 then s.raise c t ALIGN va else
            let s := s.countUp c.wg [t] .v
            match bad with
            | some pa => (s.recordPoison w pa).addPend 1 { Pend.none_ c.wg [t] with
                ctr := some .v, load := true, regs := regWrites [t] d.toNat (fun _ => 0) noImg,
                poison := [(t, BitVec.ofNat 64 va)] }
            | none =>
              let s := s.tickFree
              { s with nextId := s.nextId + 1
                       launchReqs := s.launchReqs ++ [⟨s.nextId, w.ctx, c.wg, t, d.toNat, bs, w.secure, false, s.later⟩] }) s

/-! Placement (R267). -/

/-- The workgroup of a launch that starts next: one killed and to be started again, else the next in ascending g. -/
def Launch.pending (l : Launch) : Option (Nat × Nat × Option Nat) :=
  match l.again with
  | (g, k, d) :: _ => some (g, k, some d)
  | [] => if l.next < l.lr.total then some (l.next, 0, none) else none

/-- A context in which the dispatcher starts work (R327, R336). -/
def State.dispatches (s : State) (n : Nat) : Bool :=
  (s.ctx n).state == .running && (s.ctx n).saving.isNone && !s.halted n

/-- `x` before `y`: higher PRIO, accepted first (R267). -/
def launchBefore (x y : Launch) : Bool := if x.lr.prio ≠ y.lr.prio then decide (x.lr.prio > y.lr.prio) else decide (x.id < y.id)

def sortLaunches : List Launch → List Launch
  | [] => []
  | x :: xs =>
    let r := sortLaunches xs
    (r.takeWhile fun y => launchBefore y x) ++ [x] ++ r.dropWhile fun y => launchBefore y x

/-- The launch after one of its pending workgroups has started. -/
def Launch.started (l : Launch) : Launch :=
  match l.again with
  | _ :: r => { l with again := r }
  | [] => { l with next := l.next + 1 }

/-- The state with a launch's pending workgroup placed, where a core takes it. -/
def State.placeNext (s : State) (l : Launch) : Option State :=
  l.pending.bind fun p => (s.coreFor l p.1 p.2.2).map fun c => (s.startWg l p.1 p.2.1 c).updLaunch l.id Launch.started

/-- All workgroups of a task launch made resident at once (R280), where the rectangle has room for them. -/
def State.placeAll (s : State) (l : Launch) : Option State :=
  ((List.range l.lr.total).foldlM (fun (r : State × Launch) _ => (r.1.placeNext r.2).map fun s => (s, r.2.started)) (s, l)).map (·.1)

/-- A launch's next workgroup is placed, or those of a task launch. -/
def State.place (s : State) (l : Launch) : Option State :=
  if l.complete || !s.dispatches l.ctx then none
  else if l.lr.isTask && l.next == 0 then s.placeAll l
  else s.placeNext l

/-- WORKGROUP_PLACEMENT (R267, R280). -/
def fireWorkgroupPlacement (s : State) : Option State := (sortLaunches s.launches).findSome? s.place

def execWorkgroupPlacement (s : State) : Host.Outcome State Fault Refusal := .next ((fireWorkgroupPlacement s).getD s)

/-! Retirement (R269, R193, R232, R338). -/

/-- All that a workgroup has released is performed (R353, R358). -/
def Workgroup.allReleased (w : Workgroup) : Bool :=
  !((w.contain.map fun k => !k.on && !k.buf.isEmpty).getD false) && ((w.redun.map (·.rel.isEmpty)).getD true)

/-- Nothing of a workgroup is left in flight. -/
def State.drained (s : State) (u : Nat) (w : Workgroup) : Bool :=
  (w.threads.all fun th => th.sq.isEmpty) && !(s.pend.any (·.wg == u)) && !(s.atoms.any (·.wg == u)) &&
  !(s.cmds.any fun c => c.wg == u || c.rwg == u) && !(s.ops.any (·.wg == u)) && !(s.puts.any fun p => p.wg == u && !p.host) &&
  !(s.launchReqs.any fun q => q.wg == u && !q.host) && !(s.merges.any fun m => m.src.1 == u || m.tgt.1 == u) &&
  !(s.ralpex.any (·.wg == u)) && !(s.mirrors.any (·.1 == u)) &&
  w.allReleased

/-- A copy's last point is matched. -/
def Workgroup.matchedAll (w : Workgroup) : Bool :=
  match w.redun with
  | none => true
  | some r => r.final && r.matched == r.point

/-- A workgroup can retire: every thread has exited, or its task launch is complete; nothing of it is in flight. -/
def State.retires (s : State) (w : Workgroup) : Bool :=
  let l := s.launch? w.launch
  let task := (l.map (·.lr.isTask)).getD false
  let past := (l.map (·.complete)).getD true
  (w.threads.all fun th => !th.unexited) && (!task || past) && s.drained w.uid w && (task || w.matchedAll) &&
  match w.redun with
  | none => true
  | some r => !r.trailing && match s.wg? r.partner with
    | none => true
    | some v => (v.threads.all fun th => !th.unexited) && s.drained v.uid v && (task || v.matchedAll)

/-- The status byte of a workgroup that retires (R359). -/
def Workgroup.statusByte (w : Workgroup) : Byte :=
  match w.redun with
  | some r => if r.everFaulted then 5 else if r.everRolled then 6 else if r.screenHit then 4 else if w.kills = 0 then 1 else 2
  | none => if w.kills = 0 then 1 else 2

/-- WORKGROUP_RETIRE: a contained workgroup's stores are released first, and are all performed before it leaves (R358). -/
def fireWorkgroupRetire (s : State) : Option State :=
  (s.wgs.find? s.retires).map fun w =>
    if w.contained then s.uncontain w.uid else (s.removePair w.uid).setStatus w.launch w.g w.statusByte

def execWorkgroupRetire (s : State) : Host.Outcome State Fault Refusal := .next ((fireWorkgroupRetire s).getD s)

/-! Completion (R265, R269, R281). -/

/-- An idle slot: its last task has ended and no register write of it is outstanding (R280). -/
def State.idleSlot (s : State) (w : Workgroup) (t : Nat) (th : Thread) : Bool :=
  th.st == .idle || (th.st == .exited && !s.outstanding w.uid t)

/-- A task launch's condition (R281); its workgroups and the engines they started have written all that they write (R265). -/
def State.tasksOver (s : State) (l : Launch) : Bool :=
  ((maskBits l.lr.qmask).all fun k => match (s.ctx l.ctx).tqs[k]? with
    | some q => q.die.isEmpty && q.rhead == q.rtail
    | none => true) &&
  l.next == l.lr.total && l.again.isEmpty &&
  ((s.wgs.filter (·.launch == l.id)).all fun w => s.drained w.uid w && w.matchedAll && w.threads.zipIdx.all fun p => s.idleSlot w p.2 p.1) &&
  !((s.ctx l.ctx).saved.any (·.launch == l.id)) &&
  !(s.puts.any fun p => !p.host && ((s.wg? p.wg).map (·.launch == l.id)).getD false)

/-- Some core of the rectangle is no hole: a launch all of whose cores are holes does not complete (R268). -/
def State.rectLive (s : State) (r : LaunchRec) : Bool := r.cores.any fun c => s.dieLive (dieOf c)

def State.completes (s : State) (l : Launch) : Bool :=
  !l.complete && s.dispatches l.ctx && s.rectLive l.lr && if l.lr.isTask then s.tasksOver l else l.retired == l.lr.total

/-- Every dirty byte of the rectangle's cores is written back before the completion word (R265). -/
def State.rectRelease (s : State) (r : LaunchRec) : State := r.cores.foldl (fun s c => s.l1Release c) s

/-- A launch whose status bytes the completion area holds (R265). -/
def LaunchRec.hasStatus (r : LaunchRec) : Bool := r.redun || r.screen || r.contain

/-- Status bytes by workgroup (R359): those of a task launch retire as it completes. -/
def State.statusBytes (s : State) (l : Launch) : List Byte :=
  (List.range l.lr.total).map fun g => (l.status.lookup g).getD
    (((s.wgs.find? fun w => w.launch == l.id && w.g == g && !w.trailing).map Workgroup.statusByte).getD 1)

/-- The completion area is written (R265). -/
def State.writeDone (s : State) (l : Launch) : State :=
  if l.lr.done = 0 then s else
  let s := if l.lr.hasStatus then s.devPut l.ctx l.lr.secure (l.lr.done + 8) (s.statusBytes l) else s
  s.devPut l.ctx l.lr.secure l.lr.done (doneWord l.handle (if l.killed then stKILLED else stOK))

def Launch.final (l : Launch) : Nat := if l.killed then stKILLED else stOK

/-- LWAIT returns in a thread: an acquire at SYSTEM, and the status in d (R289). -/
def State.lwaitReturn (s : State) (u t d status core : Nat) : State :=
  ((s.l1Acquire core).release u t).addPend 0
    { Pend.none_ u [t] with regs := regWrites [t] d (fun _ => BitVec.ofNat 32 status) noImg }

/-- LAUNCH_COMPLETION (R265, R281): queues are unclaimed, waiting LWAITs return and the handle then ends. -/
def State.completeLaunch (s : State) (l : Launch) : State :=
  let s := (s.rectRelease l.lr).writeDone l
  let s := s.updCtx l.ctx fun c =>
    { c with tqs := c.tqs.map fun q => if q.claim = some l.id then { q with claim := none } else q }
  let waiters := (s.wgs.filter (·.ctx == l.ctx)).flatMap fun w => w.threads.zipIdx.filterMap fun p => match p.1.st with
    | .blocked (.lwait h d) => if h = l.handle ∧ l.handle ≠ 0 then some (w.uid, p.2, d, w.core) else none
    | _ => none
  let s := waiters.foldl (fun s x => s.lwaitReturn x.1 x.2.1 x.2.2.1 l.final x.2.2.2) s
  let s := s.updLaunch l.id fun l => { l with complete := true }
  if waiters.isEmpty then s
  else s.updCtx l.ctx fun c => { c with handles := c.handles.filter (·.1 != l.handle) }

/-- LAUNCH_COMPLETION: the contained workgroups of a task launch release their stores first, and these are all performed before the launch
completes (R265, R358). -/
def fireLaunchCompletion (s : State) : Option State :=
  (s.launches.find? s.completes).map fun l =>
    match s.wgs.find? fun w => w.launch == l.id && w.contained with
    | some w => s.uncontain w.uid
    | none => s.completeLaunch l

def execLaunchCompletion (s : State) : Host.Outcome State Fault Refusal := .next ((fireLaunchCompletion s).getD s)

/-- LWAIT (R289). -/
def execLwait (g : Guard) (d : RegCode) (a : Src) (s : State) : Host.Outcome State Fault Refusal :=
  s.issue fun c s =>
    match s.wg? c.wg with
    | none => s
    | some w =>
      let ts := active s c g
      let hs := ts.map fun t => (t, (src s c a t).toNat % 2^24)
      let find := fun h => ((s.ctx w.ctx).handles.lookup h).bind s.launch?
      let done := fun h => ((find h).map (·.complete)).getD false
      let s1 := hs.foldl (fun s1 x => match find x.2 with
        | none => fixed s1 c [x.1] 4 (regWrites [x.1] d.toNat (fun _ => BitVec.ofNat 32 stNOHANDLE) noImg)
        | some l =>
          if l.complete then fixed (s1.l1Acquire c.core) c [x.1] 4 (regWrites [x.1] d.toNat (fun _ => BitVec.ofNat 32 l.final) noImg)
          else s1.block c.wg x.1 (.lwait x.2 d.toNat) none) s
      s1.updCtx w.ctx fun k => { k with handles := k.handles.filter fun h => !(done h.1 && hs.any (·.2 == h.1)) }

/-! The grid barrier (R180, R270). -/

/-- A thread counts as arrived at GSYNC: it waits there, was interrupted there, or has exited. -/
def Thread.atGsync (th : Thread) : Bool :=
  !th.unexited || th.st == .blocked .gsync || ((th.wd.map (·.wait == .gsync)).getD false)

def Workgroup.atGsync (w : Workgroup) : Bool := w.threads.all Thread.atGsync

/-- Some thread waits at GSYNC and nothing of the workgroup is in flight, so it can be saved. -/
def State.swappable (s : State) (w : Workgroup) : Bool :=
  (w.threads.all fun th => !th.unexited || th.st == .blocked .gsync) && (w.threads.any Thread.unexited) && s.drained w.uid w

/-- Workgroups of a launch, resident and saved. -/
def State.wgsOf (s : State) (l : Launch) : List Workgroup :=
  s.wgs.filter (·.launch == l.id) ++ (s.ctx l.ctx).saved.filter (·.launch == l.id)

/-- A grid's threads have all arrived, and some thread waits. -/
def State.gridArrived (s : State) (l : Launch) : Bool :=
  l.lr.coop && !l.complete && s.dispatches l.ctx && l.next == l.lr.total && l.again.isEmpty &&
  ((s.wgsOf l).all Workgroup.atGsync) && ((s.wgsOf l).any fun w => w.threads.any fun th => th.st == .blocked .gsync ||
    ((th.wd.map (·.wait == .gsync)).getD false))

/-- A thread goes on from the grid barrier. -/
def Thread.passGsync (th : Thread) (clk : Nat) : Thread :=
  let th := { th with wd := th.wd.map fun i => if i.wait = .gsync then { i with wait := .sleep 0 } else i }
  if th.st = .blocked .gsync then th.release clk else th

def Workgroup.passGsync (clk : Nat) (w : Workgroup) : Workgroup :=
  { w with gparked := false, threads := w.threads.map (·.passGsync clk) }

/-- GSYNC_COMPLETE (R180, R270): resident waiters go on, with an acquire at PACKAGE; saved workgroups are restored as
WORKGROUP_RESTORE finds room for them. -/
def fireGsyncComplete (s : State) : Option State :=
  (s.launches.find? s.gridArrived).map fun l =>
    let s := ((s.wgs.filter (·.launch == l.id)).map (·.core)).foldl (fun s c => s.l1Acquire c) s
    let pass := fun w : Workgroup => if w.launch = l.id then w.passGsync s.clk else w
    let s := { s with wgs := s.wgs.map pass }
    s.updCtx l.ctx fun c => { c with saved := c.saved.map pass }

def execGsyncComplete (s : State) : Host.Outcome State Fault Refusal := .next ((fireGsyncComplete s).getD s)

/-! The launch ring (R272). -/

/-- The world of the agent that rang for the record at an index of the ring (R263, R385). -/
def Context.rungWorld (c : Context) (i : Word) : Bool :=
  ((c.rung.find? fun x => decide (1 ≤ (x.1 - i).toNat ∧ (x.1 - i).toNat ≤ 2^c.ring.size)).map (·.2)).getD false

/-- LAUNCH_RING_READ: the record at HEAD is read and submitted. A poisoned one is refused with nothing but its interrupt, and
HEAD advances past it. -/
def State.ringRead (s : State) (n : Nat) : State :=
  let c := s.ctx n
  let i := c.ring.head.toNat % 2^c.ring.size
  let pa := (c.ring.pages.getD (i / 16) 0) + 256 * (i % 16)
  let world := c.rungWorld c.ring.head
  if s.poisoned pa 256 then ((s.recordDev n pa).irq 2).ringAdvance n
  else
    let s := s.tickFree
    { s with nextId := s.nextId + 1
             launchReqs := s.launchReqs ++ [⟨s.nextId, n, 0, 0, 0, s.pkgRead pa 256, world, true, s.later⟩] }

/-- A context whose ring holds a record, while none that was read before it waits to be checked. -/
def State.ringReady (s : State) (n : Nat) : Bool :=
  s.dispatches n && (s.ctx n).ring.present && (s.ctx n).ring.head != (s.ctx n).ring.tail &&
  !(s.launchReqs.any fun q => q.host && q.ctx == n)

def fireLaunchRingRead (s : State) : Option State := ((List.range 64).find? s.ringReady).map s.ringRead

def execLaunchRingRead (s : State) : Host.Outcome State Fault Refusal := .next ((fireLaunchRingRead s).getD s)

/-- A new TAIL of a ring that is present, rung by an agent of a world; one more than a ring ahead of HEAD is ignored. -/
def State.ringTail (s : State) (n : Nat) (tail : Word64) (secure : Bool) : State :=
  let c := s.ctx n
  let t : Word := tail.setWidth 32
  if (t - c.ring.head).toNat > 2^c.ring.size then s
  else (s.updCtx n fun c => { c with ring := { c.ring with tail := t }, rung := c.rung ++ [(t, secure)] }).pkgWrite
    (c.ring.headerPa + 0x14) (toBytes 4 t.toNat)

/-- A doorbell write (R272). While the ring is absent the value is kept. -/
def State.ringDoorbell (s : State) (n : Nat) (secure : Bool) (tail : Word64) : State :=
  let s := s.updCtx n fun c => { c with doorbell := tail }
  if (s.ctx n).ring.present then s.ringTail n tail secure else s.updCtx n fun c => { c with kept := some (tail, secure) }

/-! Migration (R286, R290). -/

/-- MIGRATE: each active thread arrives and blocks. -/
def execMigrate (g : Guard) (d : PredCode) (a : Src) (s : State) : Host.Outcome State Fault Refusal :=
  s.issue fun c s =>
    (active s c g).foldl (fun s1 t => s1.block c.wg t (.migrate (src s c a t) d.toNat) none) s

/-- What a thread arrived with. -/
def Thread.migrating (th : Thread) : Option (Word × Nat) :=
  match th.st with
  | .blocked (.migrate x d) => some (x, d)
  | _ => none

/-- Every unexited thread has arrived and no message is under way. -/
def State.migrates (s : State) (w : Workgroup) : Bool :=
  s.wgRuns w && (w.threads.any fun th => th.migrating.isSome) && (w.threads.all fun th => !th.unexited || th.migrating.isSome) &&
  (w.threads.all fun th => th.sq.isEmpty) && !(s.pend.any (·.wg == w.uid)) && !(s.atoms.any (·.wg == w.uid)) &&
  !(s.migrations.any (·.wg == w.uid)) && !(s.ralpex.any (·.wg == w.uid)) && !(s.mirrors.any (·.1 == w.uid)) && w.allReleased

/-- What R286 refuses. -/
def State.migrateBad (s : State) (w : Workgroup) (x y : Nat) : Bool :=
  let r := s.lrOf w
  !(decide (r.x0 ≤ x ∧ x < r.x0 + r.w ∧ r.y0 ≤ y ∧ y < r.y0 + r.h)) || 32 * y + x == w.core || r.isTask ||
  (w.tiles.any (·.st != .free)) || (w.slabs.any (·.anvil)) || (w.cr.any (·.held)) || (!w.views.isEmpty) ||
  (w.threads.any (·.tx.active))

/-- Leases are surrendered (R230, R286). -/
def State.surrender (s : State) (u : Nat) : State :=
  { s with
    engines := s.engines.map fun e => if e.owner = some u then { e with owner := none } else e
    leaseReqs := s.leaseReqs.filter (·.wg != u) }

/-- HELD leases are requested again for what remained of them (R231). -/
def State.rerequest (s : State) (w : Workgroup) : State :=
  { s with leaseReqs := s.leaseReqs ++ w.leases.zipIdx.filterMap fun l => match l.1 with
      | .held r _ => some ⟨w.core, l.2, w.uid, r, []⟩
      | _ => none }

/-- The predicate that each thread of a migrating workgroup receives; it continues after MIGRATE. -/
def State.migrateAnswer (s : State) (u : Nat) (b : Bool) : State :=
  let ths := ((s.wg? u).map (·.threads)).getD []
  ths.zipIdx.foldl (fun s p => match p.1.migrating with
    | some (_, d) => (s.release u p.2).addPend 0 { Pend.none_ u [p.2] with preds := if d = 0 then [] else [(p.2, d, b)] }
    | none => s) s

/-- What a moving workgroup needs of a core: its store-buffer slot stays with it within a die (R20). -/
def Workgroup.needAt (w : Workgroup) (core : Nat) : Need := if dieOf core = dieOf w.core then { w.need with slot := false } else w.need

/-- MIGRATE_MOVE (R286). -/
def State.migrateMove (s : State) (w : Workgroup) : State :=
  let x := ((w.threads.findSome? Thread.migrating).map (·.1)).getD 0
  let tx := x.toNat % 32
  let ty := x.toNat / 2^16 % 32
  let core := 32 * ty + tx
  if s.migrateBad w tx ty then
    w.threads.zipIdx.foldl (fun s p => if p.1.migrating.isSome then
      (s.updThread w.uid p.2 Thread.rewind).raiseAt w.uid p.2 MIGRATEBAD x.toNat else s) s
  else if !s.roomOn core (w.needAt core) then s.migrateAnswer w.uid false
  else
    let s := (s.l1Release w.core).surrender w.uid
    let src := s.lserr w.ctx w.core
    let s := if src.getLsbD 63 && !(s.lserr w.ctx core).getLsbD 63 then s.setLserr w.ctx core src else s
    let slot := s.freeSlot core
    let s := s.tickFree
    ({ s.updWg w.uid (fun w => { w with core := core, slot := slot }) with
       migrations := s.migrations ++ [⟨w.uid, core, s.later⟩] } : State).dieTrim (dieOf core)

def fireMigrateMove (s : State) : Option State := (s.wgs.find? s.migrates).map s.migrateMove

def execMigrateMove (s : State) : Host.Outcome State Fault Refusal := .next ((fireMigrateMove s).getD s)

/-- MIGRATE_ARRIVAL (R286): the workgroup's new age, its leases requested again, true in each thread. Its threads read nothing
older than what they have written (R159), so the copies in the target core's L1 are discarded. -/
def fireMigrateArrival (s : State) : Option State :=
  match s.migrations.find? fun m => decide (m.due ≤ s.clk) with
  | none => none
  | some m =>
    let s := { s with migrations := s.migrations.erase m }
    match s.wg? m.wg with
    | none => some s
    | some w =>
      let age := s.nextId
      let s := s.l1Acquire w.core
      some (((s.bump.updWg m.wg fun w => { w with age := age }).rerequest w).migrateAnswer m.wg true)

def execMigrateArrival (s : State) : Host.Outcome State Fault Refusal := .next ((fireMigrateArrival s).getD s)

end Sys2Proof.Machine
end

