-- ==== Sys2Proof/Machine/Tasks.lean ====
section
/-! DEFINITION. Task queues (R274 to R285, R291 to R295): puts, spill and refill, dispatch, the stencil scoreboard, and the
spill area and spawn records of views (R301, R302). -/

namespace Sys2Proof.Machine

def State.tq? (s : State) (n q : Nat) : Option TaskQueue := (s.ctx n).tqs[q]?

def State.updTq (s : State) (n q : Nat) (f : TaskQueue → TaskQueue) : State :=
  s.updCtx n fun c => { c with tqs := c.tqs.modify q f }

def State.tqEnabled (s : State) (n q : Nat) : Bool := ((s.tq? n q).map (·.enabled)).getD false

/-- A workgroup of a launch by its linear index, resident or saved. -/
def State.wgOfG (s : State) (l g : Nat) : Option Workgroup :=
  let saved := ((s.launch? l).map fun x => (s.ctx x.ctx).saved).getD []
  (s.wgs ++ saved).find? fun w => w.launch == l && w.g == g && !w.trailing

/-- Table entries of a workgroup that VDECL and VTILE have still to make, each with its thread (R312, R314). -/
def State.makesOf (s : State) (u : Nat) : List (Nat × Make) := (s.pend.filter (·.wg == u)).flatMap (·.makes)

/-! The spill area (R301). A run is its offset, its length and the record it is reserved for, 0 once a blank or a shadow
holds it. -/

def runFree (runs : List (Nat × Nat × Nat)) (off len : Nat) : Bool :=
  runs.all fun r => decide (off + len ≤ r.1 ∨ r.1 + r.2.1 ≤ off)

/-- The lowest free run of a length (log entry 13). -/
def Context.spillFind (c : Context) (len align : Nat) : Option Nat :=
  (sortNat (0 :: c.spill.map fun r => roundUp (r.1 + r.2.1) align)).find? fun o =>
    decide (o + len ≤ c.desc.vspillsz) && runFree c.spill o len

def Context.spillTake (c : Context) (tag len align : Nat) : Option (Nat × Context) :=
  (c.spillFind len align).map fun o => (o, { c with spill := c.spill ++ [(o, len, tag)] })

def Context.spillFree (c : Context) (off : Nat) : Context := { c with spill := c.spill.filter (·.1 != off) }

/-- The room a SPAWN reserves: its record, then whole pages for each blank; all or nothing. -/
def Context.reserve (c : Context) (tag : Nat) : List Nat → Option Context
  | [] => some c
  | n :: ns => match c.spillTake tag n (if n = 64 then 64 else 4096) with
    | none => none
    | some x => x.2.reserve tag ns

/-- The record's bytes (log entry 13). -/
def recordBytes (es : List (Nat × Nat × Nat × Nat)) : List Byte :=
  (List.range 8).flatMap fun i => match es.lookup i with
    | some (g, e, k) => toBytes 8 (2^63 + k * 2^32 + g * 2^7 + e)
    | none => toBytes 8 0

/-- A spawn-record number that is not in use (R301). -/
def Context.newRecord (c : Context) : Nat :=
  let used := c.spill.map (·.2.2) ++ c.records.map (·.1)
  (((List.range (used.length + 1)).map (· + 1)).find? (!used.contains ·)).getD 0

def Context.recordOff (c : Context) (n : Nat) : Nat := ((c.spill.find? fun r => r.2.2 == n && r.2.1 == 64).map (·.1)).getD 0

/-- The record and its reservation are released. -/
def Context.dropRecord (c : Context) (n : Nat) : Context :=
  { c with spill := c.spill.filter (·.2.2 != n), records := c.records.filter (·.1 != n) }

/-! Placing a put (R276, R277). -/

/-- Entries on the queue SRAM of a die (R276). -/
def State.sramUsed (s : State) (die : Nat) : Nat :=
  sumNat (s.contexts.flatMap fun c => c.tqs.map fun q => if q.enabled && q.home == die then q.die.length else 0)

def State.dieRoom (s : State) (q : TaskQueue) : Bool := decide (q.die.length < q.ondie) && decide (s.sramUsed q.home < 4096)

def TaskQueue.ringCount (q : TaskQueue) : Nat := (q.rtail - q.rhead).toNat

def TaskQueue.slotVa (q : TaskQueue) (i : Word) : Nat := q.ring + 32 * (i.toNat % 2^q.size)

def entryBytes (e : TaskEntry) : List Byte := e.words.flatMap (fun w => toBytes 4 w.toNat) ++ toBytes 4 e.spawn

/-- A task as it stands on the die: released at once with NOST or without a scoreboard (R282). -/
def TaskQueue.qtask (q : TaskQueue) (e : TaskEntry) : QTask := ⟨e, (e.words.getD 1 0).getLsbD 31 || q.sbaddr == 0, 0, false⟩

/-- Whether a put would find a place, its ring write apart. -/
def State.hasPlace (s : State) (n k : Nat) : Bool :=
  match s.tq? n k with
  | none => false
  | some q => ((s.ctx n).state == .running && q.rhead == q.rtail && s.dieRoom q) || (decide (q.ringCount < 2^q.size) && q.err == 0)

/-- While a context does not run, its counts stand in the table in memory (R386). -/
def State.backTq (s : State) (n k : Nat) : State :=
  match s.tq? n k with
  | none => s
  | some q =>
    if (s.ctx n).state == .running || q.entryPa == 0 then s
    else s.pkgWrite (q.entryPa + 0x18) (toBytes 4 q.rhead.toNat ++ toBytes 4 q.rtail.toNat ++ toBytes 4 q.puts.toNat ++
      toBytes 4 q.taken.toNat ++ toBytes 4 q.refused.toNat ++ toBytes 4 q.err)

/-- R276: the entry goes on-die, to the ring, or nowhere. -/
def State.placeEntry (s : State) (n k : Nat) (e : TaskEntry) : Bool × State :=
  match s.tq? n k with
  | none => (false, s)
  | some q =>
    if (s.ctx n).state == .running && q.rhead == q.rtail && s.dieRoom q then
      (true, s.updTq n k fun q => { q with die := q.die ++ [q.qtask e], puts := q.puts + 1 })
    else if decide (q.ringCount < 2^q.size) && q.err == 0 then
      match s.devWrite n (s.devWorld n) (q.slotVa q.rtail) (entryBytes e) with
      | .ok s => (true, (s.updTq n k fun q => { q with rtail := q.rtail + 1, puts := q.puts + 1 }).backTq n k)
      | .error x => (false, ((s.recordStruct n x.2).updTq n k fun q => { q with err := x.1 }).backTq n k)
    else (false, s)

def State.countRefused (s : State) (n k : Nat) : State := (s.updTq n k fun q => { q with refused := q.refused + 1 }).backTq n k

/-! SPAWN's part of a put (R300, R301, R313). -/

/-- The view that a slot of a thread names. -/
def Workgroup.slotView (w : Workgroup) (t slot : Nat) : Option View :=
  ((w.threads[t]?).bind fun th => (th.vs.getD slot none)).bind w.view?

/-- No view of the mask has reached its limit of children. -/
def Workgroup.familyRoom (w : Workgroup) (t : Nat) (mask : List Nat) : Bool :=
  mask.all fun i => ((w.slotView t i).map fun v => decide (v.counter < 65535)).getD false

/-- The child takes its indices, the counters rise, and the record is written (R300); a write that fails leaves a record (R398). -/
def State.assignIndices (s : State) (p : Put) : State :=
  match s.wg? p.wg with
  | none => s
  | some w =>
    let es := p.mask.filterMap fun i => (w.slotView p.tidx i).map fun v => (i, w.g, v.entry, v.counter)
    let s := s.updWg p.wg fun w => es.foldl (fun w e => w.updView e.2.2.1 fun v => { v with counter := v.counter + 1 }) w
    let s := s.updCtx p.ctx fun c => { c with records := c.records.filter (·.1 != p.entry.spawn) ++ [(p.entry.spawn, es)] }
    match s.devWrite p.ctx (s.devWorld p.ctx) ((s.ctx p.ctx).desc.vspill + (s.ctx p.ctx).recordOff p.entry.spawn) (recordBytes es) with
    | .ok s => s
    | .error e => s.recordStruct p.ctx e.2

/-! Answers. -/

/-- A thread that waits in QPUTW for a put (R291). -/
def State.waitsPut (s : State) (p : Put) : Bool :=
  ((s.thread? p.wg p.tidx).map fun th => th.st == .blocked (.qputw p.id)).getD false

def State.dropPut (s : State) (p : Put) : State := { s with puts := s.puts.filter (·.id != p.id) }

/-- A request to the home die of a queue has a way there (R375). -/
def State.queueRouted (s : State) (d n k : Nat) : Bool :=
  match s.tq? n k with
  | none => true
  | some q => s.dieLive q.home && s.routed d q.home

/-- The die that a put comes from: its thread's, or IOD0 for a host's. -/
def State.putDie (s : State) (p : Put) : Nat := if p.host then 64 else ((s.wg? p.wg).map fun w => dieOf w.core).getD 64

/-- A put that finds no way to its home die (R375). -/
def State.putLost (s : State) (p : Put) : Bool := !s.queueRouted (s.putDie p) p.ctx p.queue

/-- The answer of the home die: the predicate, or the window's RESULT (R291, R386); or a poisoned one, which reads false (R348, R375). -/
def State.answerPutAs (s : State) (p : Put) (b bad : Bool) : State :=
  let s := s.dropPut p
  if p.host then
    { s with windows := s.windows.modify p.ctx fun w => { w with result := if b then 0x80000001 else 0x80000000, busy := false } }
  else
    let s := if p.isSpawn && !b then s.updCtx p.ctx fun c => c.dropRecord p.entry.spawn else s
    let s := if p.till.isSome then s.release p.wg p.tidx else s
    s.addPend 0 { Pend.none_ p.wg [p.tidx] with
      seq := p.id, ctr := some .v, preds := if p.d = 0 then [] else [(p.tidx, p.d, b)], poison := if bad then [(p.tidx, 0)] else [] }

def State.answerPut (s : State) (p : Put) (b : Bool) : State := s.answerPutAs p b false

/-- A put in flight to a home die that is lost, or that has no way to it: its answer is poisoned, with a record of unit 0x08 in the home's
bank (R375, R376; log entry 68). -/
def State.losePut (s : State) (p : Put) : State :=
  let s := s.recordErr (((s.tq? p.ctx p.queue).map (·.home)).getD 64) { ue := true, unit := 0x08, ctx := some p.ctx }
  s.answerPutAs p false true

/-- Puts are taken in a thread's order for a queue, an instruction's in lane order, and a thread's SPAWNs one after another
(R278, R313). -/
def State.putFirst (s : State) (p : Put) : Bool :=
  !s.puts.any fun q => decide (q.id < p.id) && q.host == p.host && q.ctx == p.ctx &&
    ((p.host && true) || (q.wg == p.wg && ((q.tidx == p.tidx && (q.queue == p.queue || (q.isSpawn && p.isSpawn))) ||
      (q.seq == p.seq && q.queue == p.queue))))

/-- A put that can be answered now: its time has come, no link on its way holds it (R374), and in QPUTW there is a place. -/
def State.putReady (s : State) (p : Put) : Bool :=
  decide (p.due ≤ s.clk) && s.putFirst p && !s.linkHeld (s.putDie p) (((s.tq? p.ctx p.queue).map (·.home)).getD 64) &&
  (p.till.isNone || !s.waitsPut p || s.hasPlace p.ctx p.queue || s.putLost p)

/-- One put placed or refused. -/
def State.placePut (s : State) (p : Put) : State :=
  if p.till.isSome && !s.waitsPut p then (s.dropPut p).countDown p.wg [p.tidx] .v p.id
  else if s.putLost p then s.losePut p
  else if p.isSpawn && !(((s.wg? p.wg).map (·.familyRoom p.tidx p.mask)).getD false) then s.answerPut p false
  else
    let r := s.placeEntry p.ctx p.queue p.entry
    if r.1 then ((if p.isSpawn then r.2.assignIndices p else r.2)).answerPut p true
    else if p.till.isSome then r.2
    else (r.2.countRefused p.ctx p.queue).answerPut p false

/-- TASK_PUT_PLACEMENT (R276). -/
def fireTaskPutPlacement (s : State) : Option State := (s.puts.find? s.putReady).map s.placePut

def execTaskPutPlacement (s : State) : Host.Outcome State Fault Refusal := .next ((fireTaskPutPlacement s).getD s)

/-- QPUTW_TIMEOUT (R291): false, and REFUSED counts once, where the put has reached the home die and found no place by the end of its bound. -/
def fireQputwTimeout (s : State) : Option State :=
  (s.puts.find? fun p => match p.till with | some t => decide (t ≤ s.clk ∧ p.due ≤ s.clk) && s.waitsPut p | none => false).map fun p =>
    (s.countRefused p.ctx p.queue).answerPut p false

def execQputwTimeout (s : State) : Host.Outcome State Fault Refusal := .next ((fireQputwTimeout s).getD s)

/-! QPUT, QPUTW (R291). -/

/-- The entry a lane offers: words 0 to 6, TX, TY and the flags kept (R275, R291). -/
def laneEntry (s : State) (c : Issue) (a : RegCode) (t q : Nat) : TaskEntry :=
  let ws := (List.range 7).map fun i => s.readReg c.wg t (a.toNat + i)
  { words := ws.modify 1 (· &&& 0xC3FF03FF), queue := q, spawn := 0, host := false }

/-- Puts of the active lanes, in ascending home lane: `bound` gives QPUTW's clk, `mask` a SPAWN's slots and record. -/
def State.offer (s : State) (c : Issue) (w : Workgroup) (d : PredCode) (a : RegCode) (q t seq : Nat) (bound : Nat)
    (mask : List Nat) (rec_ : Nat) : State :=
  let s := s.tickFree
  let id := s.nextId
  let p : Put :=
    { id := id, seq := seq, ctx := w.ctx, queue := q, entry := { laneEntry s c a t q with spawn := rec_ }, wg := c.wg, tidx := t,
      d := d.toNat, due := s.later, till := if bound = 0 then none else some (s.clk + bound), mask := mask, isSpawn := rec_ != 0,
      host := false }
  let s := ({ s with nextId := id + 1, puts := s.puts ++ [p] }).countUp c.wg [t] .v
  if bound = 0 then s else s.block c.wg t (.qputw id) none

/-- QPUT and QPUTW: a release at PACKAGE, which ends containment first (R278, R358). -/
def qput (g : Guard) (d : PredCode) (a : RegCode) (q : BitVec 6) (wait : Bool) (s : State) :
    Host.Outcome State Fault Refusal :=
  s.issue fun c s =>
    match s.wg? c.wg with
    | none => s
    | some w =>
      let ts := active s c g
      if !s.tqEnabled w.ctx q.toNat then s.raiseAll c ts PERMISSION 0
      else if s.counterFull c.wg ts .v then s.reissue c
      else if !ts.isEmpty && w.holding then (s.uncontain c.wg).reissue c
      else if !s.pkgReleased c.wg ts then s.reissue c
      else
        let bounds := ts.map fun t => (t, if wait then (s.readReg c.wg t (a.toNat + 7)).toNat else 0)
        let seq := s.nextId
        let s := if ts.isEmpty then s else (s.l1Release c.core).bump
        bounds.foldl (fun s b => s.offer c w d a q.toNat b.1 seq b.2 [] 0) s

def execQput (g : Guard) (d : PredCode) (a : RegCode) (q : BitVec 6) (s : State) : Host.Outcome State Fault Refusal :=
  qput g d a q false s

def execQputw (g : Guard) (d : PredCode) (a : RegCode) (q : BitVec 6) (s : State) : Host.Outcome State Fault Refusal :=
  qput g d a q true s

/-! Refill (R277). -/

def entryOf (bs : List Byte) (q : Nat) : TaskEntry :=
  { words := (List.range 7).map fun i => BitVec.ofNat 32 (field bs (4 * i) 4), queue := q, spawn := field bs 28 4, host := false }

def State.refillable (s : State) (n k : Nat) : Bool :=
  (s.ctx n).state == .running && (s.ctx n).saving.isNone && match s.tq? n k with
    | some q => q.enabled && q.err == 0 && q.rhead != q.rtail && s.dieRoom q
    | none => false

/-- One entry of the ring comes on-die; a failed or poisoned read sets ERR. -/
def State.refill (s : State) (n k : Nat) : State :=
  match s.tq? n k with
  | none => s
  | some q =>
    match s.devRead n (s.devWorld n) (q.slotVa q.rhead) 32 with
    | .error e => (s.recordStruct n e.2).updTq n k fun q => { q with err := e.1 }
    | .ok (_, some pa) => (s.recordDev n pa).updTq n k fun q => { q with err := UNCORRECTABLE }
    | .ok (bs, none) => s.updTq n k fun q => { q with rhead := q.rhead + 1, die := q.die ++ [q.qtask (entryOf bs k)] }

def State.firstQueue (s : State) (p : Nat → Nat → Bool) : Option (Nat × Nat) :=
  (List.range 64).findSome? fun n => if (s.ctx n).state == .running then ((List.range 64).find? (p n)).map fun k => (n, k) else none

/-- TASK_REFILL. -/
def fireTaskRefill (s : State) : Option State := (s.firstQueue s.refillable).map fun x => s.refill x.1 x.2

def execTaskRefill (s : State) : Host.Outcome State Fault Refusal := .next ((fireTaskRefill s).getD s)

/-! The stencil (R284, R285). -/

/-- A bitmap bit: whether it is set, or why its byte cannot be read. -/
def State.tileBit (s : State) (n sb i : Nat) : Bool × State :=
  match s.devRead n (s.devWorld n) (sb + i / 8) 1 with
  | .error e => (false, s.recordStruct n e.2)
  | .ok (_, some pa) => (false, s.recordDev n pa)
  | .ok (bs, none) => ((leNat bs).testBit (i % 8), s)

/-- The tiles a task at (x, y) depends on under a mask, those out of range apart. -/
def stencilTiles (mask : Word64) (x y : Nat) : List Nat :=
  ((List.range 64).filter fun i => mask.getLsbD i && i != 36).filterMap fun i =>
    let px : Int := (x : Int) + (i % 8 : Nat) - 4
    let py : Int := (y : Int) + (i / 8 : Nat) - 4
    if 0 ≤ px ∧ px < 1024 ∧ 0 ≤ py ∧ py < 1024 then some (py.toNat * 1024 + px.toNat) else none

/-- One task evaluated. -/
def State.evalTask (s : State) (n : Nat) (q : TaskQueue) (x : QTask) : QTask × State :=
  if x.released || (x.stuck && q.err != 0) then (x, s) else
  let w1 := (x.entry.words.getD 1 0).toNat
  let r := (stencilTiles q.stencil (w1 % 1024) (w1 / 2^16 % 1024)).foldl (fun (r : Bool × State) i =>
    let b := r.2.tileBit n q.sbaddr i
    (r.1 && b.1, b.2)) (true, s)
  ({ x with released := r.1 }, r.2)

def evalQueue (s : State) (n : Nat) (q : TaskQueue) : List QTask → List QTask × State
  | [] => ([], s)
  | x :: xs =>
    let a := s.evalTask n q x
    let b := evalQueue a.2 n q xs
    (a.1 :: b.1, b.2)

/-- An evaluation is due: after a TDONE, and every 4,096 clk while a task waits. -/
def State.evalReady (s : State) (n k : Nat) : Bool :=
  match s.tq? n k with
  | some q => q.enabled && q.sbaddr != 0 && (q.evalDue || decide (q.evalAt + 4096 ≤ s.clk)) && q.die.any (!·.released)
  | none => false

/-- STENCIL_EVALUATION (R285). -/
def fireStencilEvaluation (s : State) : Option State :=
  (s.firstQueue s.evalReady).bind fun x => (s.tq? x.1 x.2).map fun q =>
    let r := evalQueue s x.1 q q.die
    r.2.updTq x.1 x.2 fun q => { q with die := r.1, evalDue := false, evalAt := s.clk }

def execStencilEvaluation (s : State) : Host.Outcome State Fault Refusal := .next ((fireStencilEvaluation s).getD s)

/-! Dispatch (R282, R283, R302). -/

/-- A copy's partner in a pair (R349, R357). -/
def State.partnerOf (s : State) (w : Workgroup) : Option Workgroup := w.redun.bind fun r => s.wg? r.partner

/-- A slot of a REDUN copy was idle at every point that the copy may be rolled back to, so that no rollback undoes the end of a task
before the start of the next (R355). -/
def Workgroup.slotKept (w : Workgroup) (t : Nat) : Bool :=
  match w.redun with
  | none => true
  | some r => r.screen || r.checkpoints.all fun k => ((k.threads[t]?).map fun th => !th.unexited).getD true

/-- The copies of a pair stand at one commit point. -/
def State.pairLevel (s : State) (w : Workgroup) : Bool :=
  match w.redun, (s.partnerOf w).bind (·.redun) with
  | some r, some q => r.point == q.point
  | _, _ => true

/-- A slot is idle (R280); of a pair, in both copies, which stand at one commit point, and so at every point that they may be rolled
back to (R349, R355; log entry 37). -/
def State.slotIdle (s : State) (w : Workgroup) (t : Nat) : Bool :=
  let idle := fun x : Workgroup => ((x.threads[t]?).map (s.idleSlot x t)).getD false && x.slotKept t
  idle w && ((s.partnerOf w).map idle).getD true && s.pairLevel w

/-- The idle slots that a group can take: one for each home lane, from the oldest home wave. -/
def State.slotsOf (s : State) (w : Workgroup) : List Nat :=
  (List.range 32).filterMap fun j => (List.range w.threads.length).find? fun t => t % 32 == j && s.slotIdle w t

/-- View entries that a task's blanks need. -/
def State.blanksOf (s : State) (n : Nat) (e : TaskEntry) : Nat :=
  if e.spawn = 0 then 0 else (((s.ctx n).records.lookup e.spawn).map List.length).getD 0

/-- The first released tasks of a list that fit slots and view entries, in order. -/
def State.fitting (s : State) (n : Nat) (room : Nat) : List QTask → Nat → List QTask
  | [], _ => []
  | _, 0 => []
  | x :: xs, k + 1 =>
    let b := s.blanksOf n x.entry
    if b ≤ room then x :: s.fitting n (room - b) xs k else s.fitting n room xs (k + 1)

/-- A choice of the dispatcher: the queue, the place of the task it starts first and whether that is a bypass. -/
structure Chosen where
  queue : Nat
  at_ : Nat
  bypass : Bool
  deriving DecidableEq, Repr

/-- A task that may start: released, and its spawn record not found bad while ERR stands (R282, R301). -/
def TaskQueue.startable (q : TaskQueue) (x : QTask) : Bool := x.released && !(x.stuck && q.err != 0)

/-- What the dispatcher starts next from a queue (R282): the oldest released task, or a probe hit among the 64 after it. -/
def State.chooseTask (s : State) (q : TaskQueue) (k : Nat) : Option Chosen :=
  (q.die.zipIdx.find? (q.startable ·.1)).map fun o =>
    let more := ((q.die.zipIdx.drop (o.2 + 1)).take 64).filter fun p => q.startable p.1 && (p.1.entry.words.getD 1 0).getLsbD 30
    let pick := Config.choice s.fresh % (more.length + 1)
    if o.1.bypass < 16 ∧ pick ≠ 0 then ⟨k, ((more.map (·.2)).getD (pick - 1) o.2), true⟩ else ⟨k, o.2, false⟩

/-- View entries of a workgroup in use or being made. -/
def State.viewsUsed (s : State) (w : Workgroup) : Nat :=
  w.views.length + (s.makesOf w.uid).countP fun m => match m.2 with
    | .root .. => true
    | .bind .. => false

/-- A core has accepted no group in the last 4 clk (R283). -/
def State.groupFree (s : State) (core : Nat) : Bool :=
  match s.groupAt.lookup core with
  | none => true
  | some k => decide (k + 4 ≤ s.clk)

/-- The workgroup that takes a task on a core: the oldest with an idle slot and entries for its blanks; a pair through its
leading copy. -/
def State.taskWg (s : State) (l : Launch) (core : Nat) (e : TaskEntry) : Option Workgroup :=
  if !s.groupFree core then none else
  s.wgs.find? fun w => w.launch == l.id && w.core == core && !w.trailing && !(s.slotsOf w).isEmpty &&
    decide (s.viewsUsed w + s.blanksOf l.ctx e ≤ w.nviews)

/-- The core that takes it, round-robin in core order. -/
def State.taskCore (s : State) (l : Launch) (e : TaskEntry) : Option (Nat × Workgroup) :=
  let n := l.lr.w * l.lr.h
  (List.range n).findSome? fun i => (s.taskWg l (l.lr.coreAt ((l.rr + i) % n)) e).map fun w => ((l.rr + i) % n, w)

/-- A launch's next task: its queue, task, core and workgroup; queues are served round-robin by number. -/
def State.nextTask (s : State) (l : Launch) : Option (Chosen × Nat × Workgroup) :=
  if l.complete || !l.lr.isTask || !s.dispatches l.ctx then none else
  let qs := maskBits l.lr.qmask
  (qs.filter (l.rrq ≤ ·) ++ qs.filter (· < l.rrq)).findSome? fun k =>
    (s.tq? l.ctx k).bind fun q => (s.chooseTask q k).bind fun ch =>
      (q.die[ch.at_]?).bind fun x => (s.taskCore l x.entry).map fun c => (ch, c.1, c.2)

/-- The lowest free entry number of a workgroup's view table. -/
def Workgroup.freeEntry (w : Workgroup) : Nat := ((List.range 128).find? fun e => !w.views.any (·.entry == e)).getD 0

/-- One blank of a child (R302): held in granules where the core has them, else in the space reserved for it. -/
def State.makeBlank (s : State) (u t : Nat) (l : Nat) (e : Nat × Nat × Nat × Nat) (off : Nat) : State :=
  match s.wg? u, (s.wgOfG l e.2.1).bind (·.view? e.2.2.1) with
  | some w, some p =>
    let n := viewBytes p.desc
    let local_ := decide (roundUp n 4096 ≤ s.lsFree w.core)
    let v : View :=
      { entry := w.freeEntry, owner := t, slot := e.1, root := false, op := p.op, desc := p.desc,
        store := if local_ then .local_ w.core (Mem.write [] 0 (identityBytes p.op p.desc)) else .spill off false, st := .live,
        parent := some (e.2.1, e.2.2.1), index := e.2.2.2, counter := 0, closed := false, recv := 0 }
    let s := s.updWg u fun w =>
      { w with views := w.views ++ [v] }.updThread t fun th => { th with vs := th.vs.set e.1 (some v.entry) }
    if local_ then s
    else s.updCtx w.ctx fun c => { c with spill := c.spill.map fun r => if r.1 = off then (r.1, r.2.1, 0) else r }
  | _, _ => s

/-- The blanks of a task that starts, from its record; the record is then released. -/
def State.startBlanks (s : State) (u t l n rec_ : Nat) : State :=
  if rec_ = 0 then s else
  let c := s.ctx n
  let es := (c.records.lookup rec_).getD []
  let offs := (c.spill.filter fun r => r.2.2 == rec_ && r.2.1 != 64).map (·.1)
  ((es.zip offs).foldl (fun s e => s.makeBlank u t l e.1 e.2) s).updCtx n (·.dropRecord rec_)

/-- A thread as a task starts in it (R283): what its last task still has in flight counts for it no more. -/
def Thread.startTask (th : Thread) (pc : CodeAddr) (e : TaskEntry) (born clk : Nat) : Thread :=
  { th with
    pc := pc, mid := none, meet := none, link := 0, preds := 1, ctr := .zero, fell := [], born := born,
    vs := List.replicate 8 none, mergeFault := 0, task := some e, seed := false, st := .ready, since := clk, notBefore := clk,
    wake := none }

/-- A rollback starts the task of a slot anew: the copy's checkpoints hold the thread as it started, and the copy goes on to further points
(R280, R352, R355). -/
def Workgroup.keepTask (w : Workgroup) (t : Nat) : Workgroup :=
  match w.threads[t]? with
  | none => w
  | some th => w.updRedun fun r =>
    { r with final := false, checkpoints := r.checkpoints.map fun k => { k with threads := k.threads.set t th } }

/-- A task starts in a slot, of a pair in both copies (R283, R349); it is an acquire at PACKAGE. -/
def State.startTask (s : State) (l : Launch) (w : Workgroup) (t : Nat) (x : QTask) : State :=
  let pc := BitVec.ofNat 48 (l.lr.code + (x.entry.words.getD 0 0).toNat)
  let s := (w :: (s.partnerOf w).toList).foldl (fun s w =>
    ((s.l1Acquire w.core).updThread w.uid t (·.startTask pc x.entry s.nextId s.clk)).updWg w.uid (·.keepTask t)) s
  s.startBlanks w.uid t l.id l.ctx x.entry.spawn

/-- Why a spawn record cannot be used: the fault code for ERR, and where uncorrectable data stands (R301). -/
def State.recordBad (s : State) (n rec_ : Nat) : Option (Nat × Option Nat) :=
  if rec_ = 0 then none else
  match s.devRead n (s.devWorld n) ((s.ctx n).desc.vspill + (s.ctx n).recordOff rec_) 64 with
  | .error e => some (e.1, none)
  | .ok (_, some pa) => some (UNCORRECTABLE, some pa)
  | .ok (bs, none) => if (s.ctx n).records.any (fun r => r.1 == rec_ && recordBytes r.2 == bs) then none else some (MERGEFAULT, none)

/-- A group starts (R283). -/
def State.dispatch (s : State) (l : Launch) (ch : Chosen) (core : Nat) (w : Workgroup) : State :=
  match s.tq? l.ctx ch.queue with
  | none => s
  | some q =>
    match q.die[ch.at_]? with
    | none => s
    | some x =>
      match s.recordBad l.ctx x.entry.spawn with
      | some (code, pa) =>
        (match pa with
          | some a => s.recordDev l.ctx a
          | none => s.recordStruct l.ctx ((s.ctx l.ctx).desc.vspill + (s.ctx l.ctx).recordOff x.entry.spawn)).updTq l.ctx ch.queue
          fun q => { q with err := code, die := q.die.modify ch.at_ fun x => { x with stuck := true } }
      | none =>
        let slots := s.slotsOf w
        let after := ((q.die.drop (ch.at_ + 1)).take 64).filter fun y => q.startable y &&
          y.entry.words.getD 0 0 == x.entry.words.getD 0 0 && (s.recordBad l.ctx y.entry.spawn).isNone
        let grp := x :: s.fitting l.ctx (w.nviews - s.viewsUsed w - s.blanksOf l.ctx x.entry) after (min 32 slots.length - 1)
        let s := s.updTq l.ctx ch.queue fun q =>
          { q with
            die := grp.foldl (fun d y => d.erase y)
              (if ch.bypass then (q.die.modify ((q.die.zipIdx.find? (q.startable ·.1)).map (·.2) |>.getD 0) fun o =>
                { o with bypass := o.bypass + 1 }) else q.die)
            taken := q.taken + BitVec.ofNat 32 grp.length }
        let s := s.updLaunch l.id fun l => { l with rr := core + 1, rrq := (ch.queue + 1) % 64 }
        let s := { s with groupAt := (w.core, s.clk) :: s.groupAt.filter (·.1 != w.core) }
        (grp.zip slots).foldl (fun s g => s.startTask l w g.2 g.1) s

/-- TASK_DISPATCH (R282, R283). -/
def fireTaskDispatch (s : State) : Option State :=
  s.launches.findSome? fun l => (s.nextTask l).map fun x => (s.tickFree).dispatch l x.1 x.2.1 x.2.2

def execTaskDispatch (s : State) : Host.Outcome State Fault Refusal := .next ((fireTaskDispatch s).getD s)

/-! QSTAT, TARG, TDONE, STNC (R292 to R295). -/

/-- The state word of a queue, as it is sampled (R292). -/
def State.qstatWord (s : State) (n k : Nat) : Word :=
  match s.tq? n k with
  | none => 0
  | some q => BitVec.ofNat 32 ((if q.enabled then 2^31 else 0) + (if q.rhead != q.rtail then 2^30 else 0) +
      (if q.err != 0 then 2^29 else 0) + (if q.claim.isSome then 2^28 else 0) + (q.die.length + q.ringCount) % 2^17)

/-- QSTAT (R292): sampled when it lands. -/
def execQstat (g : Guard) (d : RegCode) (q : BitVec 6) (s : State) : Host.Outcome State Fault Refusal :=
  s.issue fun c s =>
    match s.wg? c.wg with
    | none => s
    | some w =>
      let ts := active s c g
      if s.counterFull c.wg ts .v then s.reissue c
      else if ts.isEmpty then s
      else (s.countUp c.wg ts .v).addPend (1 + Config.latency s.fresh) { Pend.none_ c.wg ts with
        ctr := some .v, regs := regWrites ts d.toNat (fun _ => 0) noImg, late := some (.qstat w.ctx q.toNat, d.toNat) }

/-- The words of a thread's task (R293). -/
def TaskEntry.word (e : TaskEntry) (k : Nat) : Word :=
  match k with
  | 5 => e.words.getD 1 0
  | 6 => e.words.getD 0 0
  | 7 => BitVec.ofNat 32 e.queue
  | k => e.words.getD (k + 2) 0

def State.taskOf (s : State) (u t : Nat) : Option TaskEntry := (s.thread? u t).bind (·.task)

/-- TARG (R293). -/
def execTarg (g : Guard) (d : RegCode) (k : BitVec 3) (s : State) : Host.Outcome State Fault Refusal :=
  s.issue fun c s =>
    let ts := active s c g
    let ok := ts.filter fun t => (s.taskOf c.wg t).isSome
    (fixed s c ok 4 (regWrites ok d.toNat (fun t => ((s.taskOf c.wg t).map (·.word k.toNat)).getD 0) noImg)).raiseAll c
      (ts.filter fun t => (s.taskOf c.wg t).isNone) ILLOP 0

/-- One tile retired (R294): its byte is translated at issue; the OR stands in the thread's store queue behind its earlier stores,
and the bundle goes on. -/
def State.retireTile (s : State) (c : Issue) (w : Workgroup) (t seq : Nat) (q : Nat) (x y : Nat) : State :=
  match s.tq? w.ctx q with
  | none => s
  | some tq =>
    if tq.sbaddr = 0 then s else
    let i := y * 1024 + x
    let va := tq.sbaddr + i / 8
    match s.access w .atomic (BitVec.ofNat 64 va) .any with
    | .error e => s.raise c t e (va % 2^48)
    | .ok l => s.updThread w.uid t fun th => { th with sq := th.sq ++ [⟨s.clk + 1, seq, .retire q l.pa l.m (i % 8)⟩] }

/-- The queue of a thread's task has a scoreboard, so that TDONE has an effect (R284, R294). -/
def State.hasBoard (s : State) (w : Workgroup) (t : Nat) : Bool :=
  (((s.taskOf w.uid t).bind fun e => s.tq? w.ctx e.queue).map (·.sbaddr != 0)).getD false

/-- TDONE (R294). It is a release at PACKAGE of stores that a contained workgroup holds, and so ends containment first: the model's
choice (log entry 59). -/
def execTdone (g : Guard) (a : Src) (k : BitVec 1) (s : State) : Host.Outcome State Fault Refusal :=
  s.issue fun c s =>
    match s.wg? c.wg with
    | none => s
    | some w =>
      let ts := active s c g
      let bad := ts.filter fun t => match s.taskOf c.wg t with
        | none => true
        | some e => k == 0 && (e.words.getD 1 0).getLsbD 31
      let ok := ts.filter (!bad.contains ·)
      if s.sqFull c.wg ok then s.reissue c
      else if w.holding && ok.any (s.hasBoard w) then (s.uncontain c.wg).reissue c
      else
        let at_ := fun t => if k = 0 then ((s.taskOf c.wg t).map (·.word 5)).getD 0 else src s c a t
        let s1 := ok.foldl (fun s1 t =>
          let v := (at_ t).toNat
          s1.retireTile c w t s.nextId (((s.taskOf c.wg t).map (·.queue)).getD 0) (v % 1024) (v / 2^16 % 1024)) s.bump
        s1.raiseAll c bad ILLOP 0

/-- STNC (R295). -/
def execStnc (g : Guard) (a : RegCode) (q : BitVec 6) (s : State) : Host.Outcome State Fault Refusal :=
  s.issue fun c s =>
    match s.wg? c.wg with
    | none => s
    | some w =>
      let ts := active s c g
      if ts.isEmpty then s
      else if !s.tqEnabled w.ctx q.toNat then s.raiseAll c ts PERMISSION 0
      else s.updTq w.ctx q.toNat fun x => { x with stencil := reg64 s c a (elect ts) }

/-! The host's puts (R386). -/

/-- TASK_PUT: a write to PUT offers the window's entry. -/
def execTaskPut (ctx : BitVec 6) (queue : BitVec 6) (s : State) : Host.Outcome State Fault Refusal :=
  let n := ctx.toNat
  let w := s.windows.getD n .reset
  if w.busy then .next s
  else
    let s := s.tickFree
    if !s.tqEnabled n queue.toNat then
      .next { s with windows := s.windows.modify n fun w => { w with result := 0x80000000 } }
    else
      let e : TaskEntry := { words := w.words.modify 1 (· &&& 0xC3FF03FF), queue := queue.toNat, spawn := 0, host := true }
      let p : Put :=
        { id := s.nextId, seq := s.nextId, ctx := n, queue := queue.toNat, entry := e, wg := 0, tidx := 0, d := 0, due := s.later,
          till := none, mask := [], isSpawn := false, host := true }
      .next { s with nextId := s.nextId + 1, puts := s.puts ++ [p], windows := s.windows.modify n fun w => { w with busy := true } }

end Sys2Proof.Machine
end

