-- ==== Sys2Proof/Machine/Views.lean ====
section
/-! DEFINITION. Views and blanks (R296 to R317): declaring and binding them, SPAWN, the merge tree and its carriers, merges
and their faults, VSYNC, SOLDER, and EXIT (R87). -/

namespace Sys2Proof.Machine

/-! Merge operators (R298). -/

/-- t ⊕ s of one element, and whether NV was raised. -/
def mergeElem (op t s : Nat) : Nat × Bool :=
  let env : FpEnv := ⟨f32, 0, false, 0, 0⟩
  let fp := fun r : Nat × Nat => (r.1, r.2.testBit 0)
  match op with
  | 0 => ((t + s) % 2^32, false)
  | 1 => ((t + s) % 2^64, false)
  | 2 =>
    let r := addV false (f32.decode t) (f32.decode s)
    ((f32.round 0 0 false false r.1).bits, r.2.testBit 0)
  | 3 => (if toInt 32 s < toInt 32 t then s else t, false)
  | 4 => fp (minMax1 false env t s)
  | 5 => (if toInt 32 t < toInt 32 s then s else t, false)
  | 6 => fp (minMax1 true env t s)
  | 7 => (t ||| s, false)
  | 8 => (t &&& s, false)
  | _ => (t ^^^ s, false)

/-- The target's storage with every element merged (R298), and whether NV was raised. -/
def mergeBytes (op : Nat) (d : Word64) (t s : List Byte) : List Byte × Bool :=
  let e := (opIdentity op).1
  (List.range (descRows d)).foldl (fun r row => (List.range (descPitch d / e)).foldl (fun r col =>
    let os := descOffs d row (col * e) e
    let rd := fun bs : List Byte => leNat (os.map fun o => bs.getD o 0)
    let x := mergeElem op (rd r.1) (rd s)
    ((os.zip (toBytes e x.1)).foldl (fun bs p => bs.set p.1 p.2) r.1, r.2 || x.2)) r) (t, false)

/-! The views of a thread and of a launch. -/

/-- The views that a thread's slots name. -/
def Workgroup.viewsOf (w : Workgroup) (t : Nat) : List View :=
  ((w.threads[t]?).map (·.vs.filterMap id)).getD [] |>.filterMap w.view?

def Workgroup.ownsViews (w : Workgroup) (t : Nat) : Bool := !(w.viewsOf t).isEmpty

/-- Every view of a launch with its workgroup, saved ones included. -/
def State.viewsIn (s : State) (l : Launch) : List (Workgroup × View) :=
  (s.wgsOf l).flatMap fun w => w.views.map fun v => (w, v)

/-- A view by its holder's index and its entry (R296). -/
def viewAt (vs : List (Workgroup × View)) (id : Nat × Nat) : Option (Workgroup × View) :=
  vs.find? fun x => x.1.g == id.1 && x.2.entry == id.2

/-- A view's ID (R296). -/
def viewId (g e : Nat) : Nat := 128 * g + e

def View.soldered (v : View) : Bool := v.st == .soldering || v.st == .faulted

/-! The merge tree (R304, R305). -/

/-- Trailing zero bits of a positive number. -/
def trailingZeros : Nat → Nat → Nat
  | 0, _ => 0
  | n + 1, i => if i % 2 = 1 then 0 else 1 + trailingZeros n (i / 2)

/-- The owner of a view is blocked in VSYNC, SOLDER or EXIT. -/
def ownerWaits (w : Workgroup) (v : View) : Bool :=
  match w.threads[v.owner]? with
  | some th => th.vs.getD v.slot none == some v.entry && (th.st == .blocked .vsync || th.st == .blocked .solder)
  | none => false

/-- Every sibling merge into child `v` of family `p` is committed, and no further one can come (R304, R305). -/
def siblingsDone (p v : View) : Bool :=
  let z := trailingZeros 17 v.index
  (v.index != 0 && decide (z ≤ v.recv)) || (p.closed && decide (p.counter ≤ v.index + 2^v.recv))

/-- The merge of a view that is ready, as its source and target; the conditions of R305. -/
def readyMerge (vs : List (Workgroup × View)) (x : Workgroup × View) : Option ((Nat × Nat) × (Nat × Nat)) :=
  let v := x.2
  match v.parent.bind (viewAt vs) with
  | none => none
  | some p =>
    let complete := v.soldered && v.counter == 0 && siblingsDone p.2 v
    if !complete then none
    else if v.index = 0 then
      (if p.2.closed && ownerWaits p.1 p.2 then some ((x.1.uid, v.entry), (p.1.uid, p.2.entry)) else none)
    else
      let z := trailingZeros 17 v.index
      match vs.find? fun y => y.2.parent == v.parent && y.2.index == v.index - 2^z with
      | some y => if y.2.soldered && y.2.recv == z then some ((x.1.uid, v.entry), (y.1.uid, y.2.entry)) else none
      | none => none

/-- A SOLDER, EXIT or VSYNC of a thread reaches the views it owns (R306). -/
def State.noteOwner (s : State) (u t : Nat) : State :=
  let vs := ((s.wg? u).map (·.viewsOf t)).getD []
  { s with mergeEvents := s.mergeEvents ++ vs.map fun v => ⟨s.clk, (u, t), (u, v.entry)⟩ }

/-- The place of an event among those of its clk: core, home wave, home lane (R306). -/
def State.eventKey (s : State) (e : MergeEvent) : Nat × Nat × Nat :=
  (((s.wg? e.thread.1).map (·.core)).getD 0, e.thread.2 / 32, e.thread.2 % 32)

/-- The thread of the last of the events that reach one of the views (R306). -/
def State.lastEvent (s : State) (es : List MergeEvent) (vs : List (Nat × Nat)) : Option (Nat × Nat) :=
  ((es.filter fun e => vs.contains e.view).foldl (fun (b : Option MergeEvent) e => match b with
    | none => some e
    | some x => if keyBefore (s.eventKey x) (s.eventKey e) then some e else b) none).map (·.thread)

/-- The carrier of a merge that a clk's events have made ready: of those of its source or target the last; where there is none,
the VSYNC, SOLDER or EXIT that closed the family (R305, R306). -/
def State.carrierOf (s : State) (es : List MergeEvent) (src tgt : Nat × Nat) (parent : Option (Nat × Nat)) : Option (Nat × Nat) :=
  match s.lastEvent es [src, tgt] with
  | some c => some c
  | none => s.lastEvent es parent.toList

/-- The merges that the events of a past clk have made ready find their carriers (R306). -/
def State.assignMerges (s : State) : State :=
  let es := s.mergeEvents.filter fun e => decide (e.at_ < s.clk)
  if es.isEmpty then s else
  let s := { s with mergeEvents := s.mergeEvents.filter fun e => !decide (e.at_ < s.clk) }
  s.launches.foldl (fun s l =>
    let vs := s.viewsIn l
    vs.foldl (fun s x => match readyMerge vs x with
      | some (src, tgt) =>
        let parent := (x.2.parent.bind (viewAt vs)).map fun p => (p.1.uid, p.2.entry)
        match (if s.merges.any fun m => m.src == src then none else s.carrierOf es src tgt parent) with
        | some c => { s with nextId := s.nextId + 1, merges := s.merges ++ [⟨s.nextId, c, src, tgt, none, none, 0⟩] }
        | none => s
      | none => s) s) s

def State.carries (s : State) (u t : Nat) : Bool := s.merges.any fun m => m.carrier == (u, t)

/-- A thread carries a merge, or an event of it may still make it carry one. -/
def State.mayCarry (s : State) (u t : Nat) : Bool := s.carries u t || s.mergeEvents.any fun e => e.thread == (u, t)

def State.updView (s : State) (u e : Nat) (f : View → View) : State := s.updWg u (·.updView e f)

/-- A merge's shadow is discarded; a later start begins anew (R307, R309). -/
def State.dropShadow (s : State) (m : MergeJob) : State :=
  let s := match m.off, s.wg? m.carrier.1 with
    | some o, some w => s.updCtx w.ctx fun c => c.spillFree o
    | _, _ => s
  { s with merges := s.merges.map fun k => if k.id = m.id then { k with shadow := none, off := none, due := 0 } else k }

/-- A carrying instruction is executed again: its faulted sources are SOLDERING, its merges start anew (R309, R310). -/
def State.restartJobs (s : State) (u t : Nat) : State :=
  (s.merges.filter fun m => m.carrier == (u, t)).foldl (fun s m =>
    (s.dropShadow m).updView m.src.1 m.src.2 fun v => { v with st := if v.st = .faulted then .soldering else v.st }) s

/-- Merges in progress of a workgroup that is saved are abandoned as a fault would abandon them (R310). -/
def State.abandonMerges (s : State) (u : Nat) : State :=
  (s.merges.filter fun m => m.carrier.1 == u && m.shadow.isSome).foldl (fun s m =>
    (s.dropShadow m).updView m.src.1 m.src.2 fun v => { v with st := .faulted }) s

/-! The end of a thread (R87, R315). -/

/-- A thread ends; exits may complete barrier phases (R179). -/
def State.endThread (s : State) (u t : Nat) : State :=
  ((s.leaveBundle u t).updThread u t fun th =>
    { th with st := .exited, meet := none, mid := none, task := none, seed := false, wake := none, wd := none }).updWg u
    (·.exitBarriers s.clk)

/-- A view leaves its table and its owner's slot; its storage is freed (R297, R299). -/
def State.freeView (s : State) (u e : Nat) : State :=
  match s.wg? u with
  | none => s
  | some w =>
    match w.view? e with
    | none => s
    | some v =>
      let s := match v.store with
        | .spill off _ => s.updCtx w.ctx fun c => c.spillFree off
        | _ => s
      s.updWg u fun w =>
        { (w.updThread v.owner fun th => if th.vs.getD v.slot none = some e then { th with vs := th.vs.set v.slot none } else th) with
          views := w.views.filter (·.entry != e)
          tiles := w.tiles.zipIdx.map fun x => match v.store with
            | .tile k => if x.2 = k then { x.1 with bound := false } else x.1
            | _ => x.1 }

/-- Steps 4 to 6 of SOLDER once a thread's families are complete (R315). -/
def State.finishSolder (s : State) (u t : Nat) : State :=
  match s.wg? u with
  | none => s
  | some w =>
    let vs := w.viewsOf t
    if !vs.all (·.counter == 0) then s else
    let live := vs.filter (·.st == .live)
    let s := live.foldl (fun s v =>
      if v.root then s.freeView u v.entry else s.updView u v.entry fun v => { v with st := .soldering }) s
    let s := if live.isEmpty then s else s.noteOwner u t
    if s.mayCarry u t then s else s.endThread u t

/-- The return of a VSYNC whose families are complete: an acquire at PACKAGE (R308, R316). -/
def State.finishVsync (s : State) (u t : Nat) (th : Thread) : State :=
  match s.wg? u with
  | none => s
  | some w =>
    if (w.viewsOf t).all (fun v => v.counter == 0 || !v.closed) && !s.mayCarry u t && (th.wake.getD 0 ≤ s.clk) then
      (s.l1Acquire w.core).release u t
    else s

/-- Merges find their carriers, and threads blocked in SOLDER, EXIT or VSYNC go on as far as they can. -/
def State.settleViews (s : State) : State :=
  let s := s.assignMerges
  s.wgs.foldl (fun s w => if !s.wgRuns w then s else w.threads.zipIdx.foldl (fun s p => match p.1.st with
    | .blocked .solder => s.finishSolder w.uid p.2
    | .blocked .vsync => s.finishVsync w.uid p.2 p.1
    | _ => s) s) s

/-! Instructions. -/

/-- Threads of a bundle that run no task (R311). -/
def State.taskless (s : State) (u : Nat) (ts : List Nat) : List Nat := ts.filter fun t => (s.taskOf u t).isNone

def Make.declares : Make → Option (Nat × Nat)
  | .root t _ k _ => some (t, k)
  | .bind .. => none

def Make.binds : Make → Option Nat
  | .bind t _ => some t
  | .root .. => none

/-- The checks of VDECL beside its tile's state: the first that fails names its address (R312). Entries that are still being made
count (log entry 38). -/
def State.vdeclFault (s : State) (w : Workgroup) (t k op slot : Nat) (x : Tile) : Option Nat :=
  let ms := (s.makesOf w.uid).filterMap fun m => m.2.declares.map fun d => (m.1, d)
  firstFail [(!x.bound && !(ms.any (·.2.1 == k)) && descSize x.desc == (opIdentity op).1, k),
    (((w.threads[t]?).map fun th => th.vs.getD slot none == none).getD false && !(ms.any fun m => m.1 == t && m.2.2 == slot), 64 + slot),
    (decide (s.viewsUsed w < w.nviews), 128)]

/-- VDECL (R312). -/
def execVdecl (g : Guard) (t : BitVec 6) (o : BitVec 6) (k : BitVec 3) (s : State) : Host.Outcome State Fault Refusal :=
  s.issue fun c s =>
    match s.wg? c.wg with
    | none => s
    | some w =>
      let ts := active s c g
      let no := s.taskless c.wg ts
      let ok := ts.filter (!no.contains ·)
      if ok.isEmpty then s.raiseAll c no ILLOP 0 else
      let l := elect ok
      match w.tiles[t.toNat]? with
      | none => (s.raise c l TILEBAD t.toNat).raiseAll c no ILLOP 0
      | some x =>
        if x.st = .free ∨ x.view.isSome then (s.raise c l TILEBAD t.toNat).raiseAll c no ILLOP 0
        else if x.st ≠ .ready then (ok.foldl (fun s t' => s.park c.wg t' (.ready t.toNat)) s).raiseAll c no ILLOP 0
        else if s.counterFull c.wg [l] .v then s.reissue c
        else match s.vdeclFault w l t.toNat o.toNat k.toNat x with
          | some a => (s.raise c l TILEBAD a).raiseAll c no ILLOP 0
          | none =>
            ((s.countUp c.wg [l] .v).addPend 8 { Pend.none_ c.wg [l] with
              ctr := some .v, makes := [(l, .root t.toNat o.toNat k.toNat x.desc)] }).raiseAll c no ILLOP 0

/-- An entry that is made (R312, R314): a root view over its tile, or a tile bound to a blank. -/
def Workgroup.make (w : Workgroup) (m : Nat × Make) : Workgroup :=
  match m.2 with
  | .root t op k desc =>
    let v : View :=
      { entry := w.freeEntry, owner := m.1, slot := k, root := true, op := op, desc := desc, store := .tile t, st := .live,
        parent := none, index := 0, counter := 0, closed := false, recv := 0 }
    { (w.updTile t fun x => { x with bound := true }).updThread m.1 (fun th => { th with vs := th.vs.set k (some v.entry) })
      with views := w.views ++ [v] }
  | .bind t e =>
    match w.view? e with
    | none => w
    | some v => w.updTile t fun x =>
        { x.freed with st := .ready, desc := v.desc, expected := descBytes v.desc, arrived := descBytes v.desc, view := some e }

/-- What becomes of one lane of SPAWN at issue. -/
inductive SpawnFate where
  | fault (code addr : Nat)
  | noRoom
  | go (s : State)

/-- The record of a lane and its reservation, where the spill area has room; and the fault of the record's write, which is
the device's own (R301, R398). -/
def State.spawnRoom (s : State) (w : Workgroup) (t : Nat) (mask : List Nat) : Option Context × List (Nat × Nat) :=
  let n := (s.ctx w.ctx).newRecord
  let sizes := mask.map fun i => roundUp (((w.slotView t i).map fun v => viewBytes v.desc).getD 0) 4096
  match (s.ctx w.ctx).reserve n (64 :: sizes) with
  | none => (none, [])
  | some k =>
    let va := k.desc.vspill + k.recordOff n
    match s.devTranslate w.ctx .write va with
    | .error e => (some k, [(e, va)])
    | .ok _ => (some k, [])

/-- A lane's checks, the lowest fault code first (R31), its record number and reservation (R301, R313). -/
def State.spawnLane (s : State) (w : Workgroup) (q t : Nat) (mask : List Nat) : SpawnFate :=
  let closed := if s.tqEnabled w.ctx q && (s.lrOf w).qmask.getLsbD q then [] else [(PERMISSION, 0)]
  let bad := (mask.filter fun i => ((w.slotView t i).map (·.st != .live)).getD true).map fun i => (TILEBAD, 64 + i)
  let room := if mask.isEmpty then (some (s.ctx w.ctx), []) else s.spawnRoom w t mask
  match lowestFault (closed ++ bad ++ room.2) with
  | some f => .fault f.1 f.2
  | none =>
    if mask.isEmpty then .go s else
    match room.1 with
    | none => .noRoom
    | some k => .go (s.updCtx w.ctx fun _ => k)

/-- One lane of SPAWN (R313). -/
def spawnLanes (c : Issue) (w : Workgroup) (d : PredCode) (a : RegCode) (q seq : Nat) (mask : Nat → List Nat) (s : State) (t : Nat) :
    State :=
  match s.spawnLane w q t (mask t) with
  | .fault code addr => s.raise c t code addr
  | .noRoom => (s.countUp c.wg [t] .v).addPend 1 { Pend.none_ c.wg [t] with
      ctr := some .v, preds := if d.toNat = 0 then [] else [(t, d.toNat, false)] }
  | .go s1 => s1.offer c w d a q t seq 0 (mask t)
      (if (mask t).isEmpty then 0 else (s.ctx w.ctx).newRecord)

/-- SPAWN (R313): lanes in ascending home lane order. It ends containment first (R358). -/
def execSpawn (g : Guard) (d : PredCode) (a : RegCode) (q : BitVec 6) (s : State) : Host.Outcome State Fault Refusal :=
  s.issue fun c s =>
    match s.wg? c.wg with
    | none => s
    | some w =>
      let ts := active s c g
      let no := s.taskless c.wg ts
      let ok := byLane (ts.filter (!no.contains ·))
      if s.counterFull c.wg ok .v then s.reissue c
      else if !ok.isEmpty && w.holding then (s.uncontain c.wg).reissue c
      else if !s.pkgReleased c.wg ok then s.reissue c
      else
        let masks := ok.map fun t => (t, (List.range 8).filter fun i => (s.readReg c.wg t (a.toNat + 7)).getLsbD i)
        let seq := s.nextId
        let s1 := if ok.isEmpty then s else (s.l1Release c.core).bump
        (ok.foldl (spawnLanes c w d a q.toNat seq fun t => (masks.lookup t).getD []) s1).raiseAll c no ILLOP 0

/-- VTILE (R314), lane by lane: TILEBAD where an earlier lane, or an earlier VTILE whose entry is still being made (log entry 38),
has bound the tile. -/
def execVtile (g : Guard) (t : BitVec 6) (k : BitVec 3) (s : State) : Host.Outcome State Fault Refusal :=
  s.issue fun c s =>
    let ts := active s c g
    let no := s.taskless c.wg ts
    let ok := byLane (ts.filter (!no.contains ·))
    if s.counterFull c.wg ok .v then s.reissue c else
    (ok.foldl (fun s l =>
      match s.wg? c.wg with
      | none => s
      | some w =>
        if !((w.tiles[t.toNat]?).map (·.st == .free)).getD false || (s.makesOf c.wg).any (·.2.binds == some t.toNat) then
          s.raise c l TILEBAD t.toNat
        else match w.slotView l k.toNat with
          | none => s.raise c l TILEBAD (64 + k.toNat)
          | some v =>
            if v.root then s.raise c l TILEBAD (64 + k.toNat)
            else (s.countUp c.wg [l] .v).addPend 8
              { Pend.none_ c.wg [l] with ctr := some .v, makes := [(l, .bind t.toNat v.entry)] }) s).raiseAll c no ILLOP 0

/-- A thread's view tiles (R303). -/
def Workgroup.viewTiles (w : Workgroup) (t : Nat) : List Tile :=
  w.tiles.filter fun x => match x.view.bind w.view? with
    | some v => v.owner == t
    | none => false

def Tile.moving (x : Tile) : Bool := x.st == .filling || x.st == .draining

/-- The release of SOLDER, EXIT and VSYNC (R300, R308): stores performed and every earlier SPAWN answered. -/
def State.viewsReleased (s : State) (u : Nat) (ts : List Nat) : Bool :=
  s.pkgReleased u ts && ts.all fun t => !s.puts.any fun p => p.wg == u && p.tidx == t && p.isSpawn && !p.host

/-- Open families of a thread close (R300). -/
def Workgroup.closeFamilies (w : Workgroup) (t : Nat) : Workgroup :=
  let ids := (w.viewsOf t).map (·.entry)
  { w with views := w.views.map fun v => if ids.contains v.entry && v.counter != 0 then { v with closed := true } else v }

/-- Whether a thread has an open family. -/
def Workgroup.familyOpen (w : Workgroup) (t : Nat) : Bool := (w.viewsOf t).any fun v => v.counter != 0

/-- SOLDER in one thread whose release is done and whose view tiles are still (R315). -/
def State.solder (s : State) (u t : Nat) : State :=
  let s := s.updWg u fun w =>
    { w with tiles := w.tiles.map fun x => match x.view.bind w.view? with
        | some v => if v.owner = t then x.freed else x
        | none => x }
  let s := (s.updWg u (·.closeFamilies t)).block u t .solder none
  ((s.restartJobs u t).noteOwner u t).finishSolder u t

/-- SOLDER in the threads `ts`, each ending its task; entries that are being made for them come first (log entry 38). -/
def solderAll (s : State) (c : Issue) (ts : List Nat) : State :=
  match s.wg? c.wg with
  | none => s
  | some w =>
    let stuck := ts.filter fun t => (w.viewTiles t).any Tile.moving
    let go := ts.filter (!stuck.contains ·)
    let s := stuck.foldl (fun s t => s.park c.wg t .views) s
    if !s.viewsReleased c.wg go || (s.makesOf c.wg).any (go.contains ·.1) then s.reissue c
    else go.foldl (fun s t => s.solder c.wg t) (if go.isEmpty then s else s.l1Release c.core)

/-- SOLDER (R315). -/
def execSolder (g : Guard) (s : State) : Host.Outcome State Fault Refusal :=
  s.issue fun c s =>
    let ts := active s c g
    let no := s.taskless c.wg ts
    let s1 := solderAll s c (ts.filter (!no.contains ·))
    if s1.cur.isNone then s1 else s1.raiseAll c no ILLOP 0

/-- EXIT (R87, R315): a thread that owns a view solders; one with an open transaction aborts it and takes TXFAULT. -/
def execExit (g : Guard) (s : State) : Host.Outcome State Fault Refusal :=
  s.issue fun c s =>
    match s.wg? c.wg with
    | none => s
    | some w =>
      let ts := active s c g
      let tx := ts.filter fun t => ((w.threads[t]?).map (·.tx.active)).getD false
      let vs := ts.filter fun t => !tx.contains t && (w.ownsViews t || s.mayCarry c.wg t || (s.makesOf c.wg).any (·.1 == t))
      let plain := ts.filter fun t => !tx.contains t && !vs.contains t
      let s1 := if vs.isEmpty then s else solderAll s c vs
      if s1.cur.isNone then s1
      else tx.foldl (fun s t => (s.abortTx c.wg t 5 TXFAULT 0).raise c t TXFAULT 0)
        (plain.foldl (fun s t => s.endThread c.wg t) s1)

/-- VSYNC in one thread (R316). -/
def State.vsync (s : State) (u t : Nat) : State :=
  let none_ := !(((s.wg? u).map (·.familyOpen t)).getD false)
  let s := (s.updWg u (·.closeFamilies t)).block u t .vsync (if none_ then some (s.clk + 8) else none)
  (s.restartJobs u t).noteOwner u t

/-- VSYNC (R316). -/
def execVsync (g : Guard) (s : State) : Host.Outcome State Fault Refusal :=
  s.issue fun c s =>
    let ts := active s c g
    let no := s.taskless c.wg ts
    let ok := ts.filter (!no.contains ·)
    if !s.viewsReleased c.wg ok then s.reissue c
    else (ok.foldl (fun s t => s.vsync c.wg t) (if ok.isEmpty then s else s.l1Release c.core)).raiseAll c no ILLOP 0

def ViewState.code : ViewState → Nat
  | .live => 0 | .soldering => 1 | .merged => 2 | .faulted => 3

/-- The tile bound to a view: the one it is declared over, or the lowest VTILE binding. -/
def Workgroup.tileOf (w : Workgroup) (v : View) : Option Nat :=
  match v.store with
  | .tile k => some k
  | _ => (w.tiles.zipIdx.find? fun x => x.1.view == some v.entry).map (·.2)

/-- The state word of a view (R317). -/
def Workgroup.viewWord (w : Workgroup) (v : View) : Nat :=
  2^31 + (if v.root then 2^30 else 0) + v.st.code * 2^28 + (match v.store with | .spill .. => 2^27 | _ => 0) +
    (match w.tileOf v with | some k => 2^26 + k * 2^20 | none => 0) + v.op * 2^16 + v.counter % 2^16

/-- The words of VQRY (R317). -/
def Workgroup.vqry (w : Workgroup) (t sel slot : Nat) : Nat :=
  if sel = 4 then ((w.threads[t]?).map (·.mergeFault.toNat)).getD 0
  else match w.slotView t slot with
    | none => 0
    | some v => match sel with
      | 0 => w.viewWord v
      | 1 => viewId w.g v.entry
      | 2 => (match v.parent with | some p => 2^31 + viewId p.1 p.2 | none => 0)
      | _ => if v.root then 0 else v.index

/-- VQRY (R317): tag G, counted on V. -/
def execVqry (g : Guard) (d : RegCode) (e : BitVec 6) (s : State) : Host.Outcome State Fault Refusal :=
  s.issue fun c s =>
    match s.wg? c.wg with
    | none => s
    | some w =>
      let ts := active s c g
      let no := s.taskless c.wg ts
      let ok := ts.filter (!no.contains ·)
      if s.counterFull c.wg ok .v then s.reissue c
      else
        let s1 := if ok.isEmpty then s else (s.countUp c.wg ok .v).addPend 8 { Pend.none_ c.wg ok with
          ctr := some .v, regs := regWrites ok d.toNat (fun t => BitVec.ofNat 32 (w.vqry t (e.toNat / 8) (e.toNat % 8))) noImg }
        s1.raiseAll c no ILLOP 0

/-! Merges (R307, R309). -/

/-- Why a merge faults: the code, TRAPADDR, and the poisoned data that it has read: a physical address, or a window's. -/
structure MergeErr where
  code : Nat
  addr : Nat
  pa : Option Nat
  win : Option Nat
  deriving DecidableEq, Repr

/-- Bytes of the spill area, read by the merge unit of the carrier's core in the context's world (R309, R398). -/
def State.spillRead (s : State) (w : Workgroup) (va n : Nat) : Except MergeErr (List Byte) :=
  let rs := (chunks va n).map fun c => (c, s.devTranslate w.ctx .read c.1)
  match rs.findSome? fun r => match r.2 with
      | .error e => some (MergeErr.mk e r.1.1 none none)
      | .ok l => if s.readPoisoned w.core l.pa r.1.2 true then some ⟨UNCORRECTABLE, r.1.1, some l.pa, none⟩ else none with
  | some e => .error e
  | none => .ok (rs.flatMap fun r => match r.2 with
      | .ok l => s.coreRead w.core l.pa r.1.2 true
      | .error _ => [])

/-- The storage of a view as a merge reads it whole; an unreached spilled blank holds the identity (R302). -/
def State.viewRead (s : State) (w x : Workgroup) (v : View) : Except MergeErr (List Byte) :=
  match v.store with
  | .local_ _ m => .ok (m.read 0 (viewBytes v.desc))
  | .spill off reached =>
    if reached then s.spillRead w ((s.ctx w.ctx).desc.vspill + off) (viewBytes v.desc) else .ok (identityBytes v.op v.desc)
  | .tile _ =>
    let as := (List.range (viewBytes v.desc)).map (descBase v.desc + ·)
    match x.poisonAt as with
    | some a => .error ⟨UNCORRECTABLE, 0, none, some a⟩
    | none => .ok (as.map x.winByte)

/-- A merge's faults are its carrier's (R309); poisoned data that a carrier with CONTAIN consumes kills its workgroup (R348, R358). `x` is the
workgroup whose view was read. -/
def State.mergeFails (s : State) (m : MergeJob) (w x : Workgroup) (e : MergeErr) : State :=
  let s := match e.pa, e.win with
    | some pa, _ => s.recordPoisonAs w pa MERGEFAULT
    | none, some a => s.recordWindow x a MERGEFAULT
    | none, none => s
  if w.contain.isSome && (e.pa.isSome || e.win.isSome) then s.consume w.uid m.carrier.2 (BitVec.ofNat 64 e.addr) else
  let g := ((s.wg? m.src.1).map (·.g)).getD 0
  let s := (s.dropShadow m).updView m.src.1 m.src.2 fun v => { v with st := .faulted }
  let s := s.updThread m.carrier.1 m.carrier.2 fun th =>
    { th.rewind with mergeFault := BitVec.ofNat 32 (2^31 + e.code * 2^21 + viewId g m.src.2) }
  s.raiseAt m.carrier.1 m.carrier.2 MERGEFAULT e.addr

/-- The carrier of a merge waits for it. -/
def State.carrierWaits (s : State) (m : MergeJob) : Bool :=
  match s.wg? m.carrier.1, s.thread? m.carrier.1 m.carrier.2 with
  | some w, some th => s.wgRuns w && (th.st == .blocked .solder || th.st == .blocked .vsync)
  | _, _ => false

/-- The core of a merge's carrier, whose merge unit performs it (R306). -/
def State.mergeCore (s : State) (m : MergeJob) : Option Nat := (s.wg? m.carrier.1).map (·.core)

/-- A merge that can start: its carrier waits for it and carries none that came earlier, the merge unit of the carrier's core is
free (R16), and its views are on cores. -/
def State.mergeStarts (s : State) (m : MergeJob) : Bool :=
  m.shadow.isNone && s.carrierWaits m && !(s.merges.any fun k => k.carrier == m.carrier && decide (k.id < m.id)) &&
  !(s.merges.any fun k => k.shadow.isSome && s.mergeCore k == s.mergeCore m && s.carrierWaits k) &&
  (s.wg? m.src.1).isSome && (s.wg? m.tgt.1).isSome

/-- Where the shadow goes: granules of the carrier's core, a run of the spill area, or nowhere yet. -/
def State.shadowRoom (s : State) (w : Workgroup) (n : Nat) : Option (Option Nat × State) :=
  if roundUp n 4096 ≤ s.lsFree w.core then some (none, s)
  else ((s.ctx w.ctx).spillTake 0 (roundUp n 4096) 4096).map fun x => (some x.1, s.updCtx w.ctx fun _ => x.2)

def View.spilled (v : View) : Bool := match v.store with | .spill _ r => r | _ => false

/-- One merge computed into its shadow. -/
def State.runMerge (s : State) (m : MergeJob) : Option State :=
  match s.wg? m.carrier.1, s.wg? m.src.1, s.wg? m.tgt.1 with
  | some w, some x, some y =>
    match x.view? m.src.2, y.view? m.tgt.2 with
    | some a, some b =>
      match s.viewRead w x a, s.viewRead w y b with
      | .error e, _ => some (s.mergeFails m w x e)
      | .ok _, .error e => some (s.mergeFails m w y e)
      | .ok sb, .ok tb =>
        let r := mergeBytes b.op b.desc tb sb
        let ctl := s.fpctl m.carrier.1 m.carrier.2
        if r.2 && fpTraps ctl NV then some (s.mergeFails m w x ⟨FPTRAP, 0, none, none⟩)
        else (s.shadowRoom w (viewBytes b.desc)).map fun z =>
          let va := (s.ctx w.ctx).desc.vspill + z.1.getD 0
          match (if z.1.isSome then z.2.spillFault w.ctx .write va (viewBytes b.desc) else none) with
          | some f => s.mergeFails m w x ⟨f.1, f.2, none, none⟩
          | none =>
            let s := if z.1.isSome then z.2.spillWrite w.ctx va r.1 else z.2
            let s := if r.2 then s.updThread m.carrier.1 m.carrier.2 fun th => { th with fpctl := fpMerge th.fpctl NV } else s
            let k := (viewBytes b.desc + 127) / 128
            let far := a.spilled || b.spilled || z.1.isSome
            let s := s.tickFree
            { s with merges := s.merges.map fun j => if j.id = m.id then
                { j with shadow := some r.1, off := z.1
                         due := s.clk + 24 + 2 * k + (if b.root then k else 0) + (if far then Config.latency s.fresh else 0) } else j }
    | _, _ => none
  | _, _, _ => none

/-- MERGE (R307). -/
def fireMerge (s : State) : Option State := s.merges.findSome? fun m => if s.mergeStarts m then s.runMerge m else none

def execMerge (s : State) : Host.Outcome State Fault Refusal := .next ((fireMerge s).getD s)

/-- A merge whose shadow can become its target: a root's tile is neither FILLING nor DRAINING. -/
def State.mergeCommits (s : State) (m : MergeJob) : Bool :=
  m.shadow.isSome && decide (m.due ≤ s.clk) && s.carrierWaits m && match (s.wg? m.tgt.1), (s.wg? m.tgt.1).bind (·.view? m.tgt.2) with
    | some y, some v => (match v.store with
        | .tile k => !(((y.tiles[k]?).map Tile.moving).getD false)
        | _ => true)
    | _, _ => false

/-- The target's storage becomes the shadow (R307). -/
def State.takeShadow (s : State) (m : MergeJob) (v : View) (bs : List Byte) : State :=
  match s.wg? m.tgt.1, s.wg? m.carrier.1 with
  | some y, some w =>
    match v.store with
    | .tile _ =>
      let n := descBytes v.desc
      let s := s.localWrite m.tgt.1 v.owner (cellsAt (descBase v.desc) (bs.take n))
      (match m.off with | some o => s.updCtx w.ctx fun c => c.spillFree o | none => s)
    | old =>
      let s := match old with
        | .spill off _ => s.updCtx y.ctx fun c => c.spillFree off
        | _ => s
      s.updView m.tgt.1 m.tgt.2 fun v =>
        { v with store := match m.off with
            | some o => .spill o true
            | none => .local_ w.core (Mem.write [] 0 bs) }
  | _, _ => s

/-- A merge commits: the source is freed, the target has received it, and the commit counts as an event of its carrier
(R305, R306). The commit of a family's last merge completes it (R300). -/
def State.commitMerge (s : State) (m : MergeJob) : State :=
  match m.shadow, (s.wg? m.tgt.1).bind (·.view? m.tgt.2), (s.wg? m.src.1).bind (·.view? m.src.2) with
  | some bs, some v, some a =>
    let g := ((s.wg? m.src.1).map (·.g)).getD 0
    let s := (s.takeShadow m v bs).freeView m.src.1 m.src.2
    let s := s.updView m.tgt.1 m.tgt.2 fun v =>
      if a.index = 0 then { v with counter := 0, closed := false } else { v with recv := v.recv + 1 }
    let s := s.updThread m.carrier.1 m.carrier.2 fun th =>
      if th.mergeFault.getLsbD 31 && th.mergeFault.toNat % 2^21 == viewId g m.src.2 then { th with mergeFault := 0 } else th
    let s := { s with merges := s.merges.filter (·.id != m.id) }
    let s := { s with mergeEvents := s.mergeEvents ++ [MergeEvent.mk s.clk m.carrier m.tgt] }
    s.settleViews
  | _, _, _ => { s with merges := s.merges.filter (·.id != m.id) }

/-- MERGE_COMMIT (R307). -/
def fireMergeCommit (s : State) : Option State := (s.merges.find? s.mergeCommits).map s.commitMerge

def execMergeCommit (s : State) : Host.Outcome State Fault Refusal := .next ((fireMergeCommit s).getD s)

end Sys2Proof.Machine
end

