-- ==== Sys2Proof/Machine/Copy.lean ====
section
/-! DEFINITION. Copy queues and commands (R185 to R204): parameter blocks and their checks, acceptance, and the engines that
move one segment at a time. -/

namespace Sys2Proof.Machine

/-! Parameter blocks (R189). -/

def bGaddr (b : List Byte) : Nat := field b 0 8
def bGstride (b : List Byte) : Nat := field b 8 4
def bRowb (b : List Byte) : Nat := field b 0x0C 4
def bNrows (b : List Byte) : Nat := field b 0x10 2
def bTile (b : List Byte) : Nat := field b 0x12 1
def bDir (b : List Byte) : Nat := field b 0x13 1
def bTrow (b : List Byte) : Nat := field b 0x14 2
def bFlags (b : List Byte) : Nat := field b 0x16 2
def bCwaddr (b : List Byte) : Nat := field b 0x18 8
def bCwval (b : List Byte) : Nat := field b 0x20 8
def bIdx (b : List Byte) : Nat := field b 0x28 8
def bXform (b : List Byte) : Nat := field b 0x30 8
def bRtile (b : List Byte) : Nat := field b 0x39 1
def bRtrow (b : List Byte) : Nat := field b 0x3A 2
def bRwg (b : List Byte) : Nat := field b 0x3C 4

def bCwe (b : List Byte) : Bool := (bFlags b).testBit 0
def bOrdan (b : List Byte) : Bool := (bFlags b).testBit 1
def bSrcacc (b : List Byte) : Bool := (bFlags b).testBit 2
def bItile (b : List Byte) : Bool := (bFlags b).testBit 3

def xOp (b : List Byte) : Nat := bXform b % 8
def xSslot (b : List Byte) : Nat := bXform b / 2^3 % 8
def xDslot (b : List Byte) : Nat := bXform b / 2^6 % 8
def xScale (b : List Byte) : Nat := bXform b / 2^32

/-- A command fills its tile (R191). -/
def fillsTile (k : CmdKind) (b : List Byte) : Bool :=
  match k with
  | .cpy => bDir b == 0
  | .cpyg => true
  | .cpyx => true
  | _ => false

/-- A CPY from tile to tile (R197). -/
def twoTiles (k : CmdKind) (b : List Byte) : Bool := k == .cpy && bDir b == 2

def emptiesTile (k : CmdKind) (b : List Byte) : Bool := k == .cpys || (k == .cpy && bDir b == 1)

/-- Destination rows of a command with `n` indices. -/
def destRows (k : CmdKind) (b : List Byte) (n : Nat) : Nat :=
  match k with
  | .cpyg => n
  | .cpys => n
  | .cpyx => if xOp b = 3 then 1 else bNrows b
  | _ => bNrows b

/-- The global address of row `i` (R196, R198). -/
def rowVa (k : CmdKind) (b : List Byte) (idx : List Nat) (i : Nat) : Nat :=
  match k with
  | .cpyg => (bGaddr b + idx.getD i 0 * bGstride b) % 2^64
  | .cpys => (bGaddr b + idx.getD i 0 * bGstride b) % 2^64
  | _ => (bGaddr b + i * bGstride b) % 2^64

/-- Where a copy out of a tile writes the trailer. -/
def trailerVa (k : CmdKind) (b : List Byte) : Nat :=
  if k = .cpys then (bGaddr b + 2^64 - 4) % 2^64 else (bGaddr b + bNrows b * bGstride b) % 2^64

/-! Checks at issue (R190). -/

/-- The rows that a command moves, as far as its fields and its index tile's words say (R191, R198). -/
def rowsOf (k : CmdKind) (b : List Byte) (ix : Option (List Nat)) : Nat :=
  match k with
  | .cpyx => if xOp b = 3 then 1 else bNrows b
  | .cpy => bNrows b
  | _ => if bItile b && bNrows b == 0xFFFF then ((ix.map fun l => l.headD 0).getD 0) else bNrows b

/-- The counts of an index tile's words hold (R198): from the tile itself, and from NROWS. -/
def countInTile (b : List Byte) (ix : Option (List Nat)) : Bool := (ix.map fun l => decide (l.headD 0 ≤ l.length - 1)).getD true || bNrows b != 0xFFFF

def countInRows (b : List Byte) (ix : Option (List Nat)) : Bool := (ix.map fun l => decide (bNrows b ≤ l.length)).getD true || bNrows b == 0xFFFF

/-- Values and geometry of the fields in the order of their offsets (R189, R190, R197, R198, R210): `x` is the tile and `y` the
target tile of DIR 2 where there is one, `ix` the words of the index tile, `there` whether the target workgroup is resident. -/
def fieldFault (k : CmdKind) (b : List Byte) (x y : Option Tile) (ix : Option (List Nat)) (there : Bool) (grid : Nat) : Option Nat :=
  let gather := k == .cpyg || k == .cpys
  let two := twoTiles k b
  let cpy := k == .cpy
  let acc := bSrcacc b
  let lastAcc := bGaddr b / 2^16 % 2^15 + (bNrows b - 1) * (bGstride b / 4) + bRowb b / 4
  let within := fun (z : Option Tile) (f : Tile → Nat) (n : Nat) => (z.map fun t => decide (n ≤ f t)).getD true
  firstFail [
    (!two || bGaddr b == 0, 0),
    (!acc || (bGaddr b / 2^31 == 0 && bGaddr b / 2^13 % 8 == 0 && bGaddr b / 2^3 % 32 == 0 && decide (lastAcc ≤ 32768)), 0),
    (!two || bGstride b == 0, 8),
    (!(cpy && bDir b == 1) || decide (bRowb b ≤ bGstride b), 8),
    (bRowb b % 4 == 0 && decide (4 ≤ bRowb b) && within x (descPitch ·.desc) (bRowb b) && (!two || within y (descPitch ·.desc) (bRowb b)), 0x0C),
    (decide (1 ≤ bNrows b ∧ bNrows b ≤ 4096) || (gather && bItile b && bNrows b == 0xFFFF), 0x10),
    (!(gather && bItile b) || countInRows b ix, 0x10),
    (decide (bTile b < 64), 0x12),
    (within x (descRows ·.desc) (bTrow b + rowsOf k b ix), 0x14),
    (bFlags b / 16 == 0 && (!acc || (cpy && bDir b == 0)) && (!bItile b || gather) && (!two || bFlags b / 4 == 0), 0x16),
    (if gather then !bItile b || decide (bIdx b < 64) else if k == .cpyx && xOp b == 1 then true else bIdx b == 0, 0x28),
    (!(gather && bItile b) || countInTile b ix, 0x28),
    (if k == .cpyx then bXform b / 2^9 % 2^23 == 0 && (xOp b == 0 || xScale b == 0) else bXform b == 0, 0x30),
    (field b 0x38 1 == 0, 0x38),
    (if two then decide (bRtile b < 64) else bRtile b == 0, 0x39),
    (if two then within y (descRows ·.desc) (bRtrow b + bNrows b) else bRtrow b == 0, 0x3A),
    (if two then decide (bRwg b < grid) && there else bRwg b == 0, 0x3C)]

/-- Element bytes of a format code of CPYX. -/
def xBytes (sl : Word64) : Nat := elemWidth (slotElem sl) / 8

/-- The formats of CPYX (R50, R199). -/
def xSlotOk (sl : Word64) : Bool :=
  [0x01, 0x03, 0x04, 0x10, 0x11, 0x40, 0x41, 0x42].contains (slotElem sl) && slotScale sl == 0 && slotResOk sl

def xformOk (b : List Byte) (dsl ssl : Word64) : Bool := decide (xOp b < 4) && xSlotOk dsl && xSlotOk ssl && slotRoundOk dsl

/-- The first address that is not aligned as stated, in the order of R190: GADDR, the row that GSTRIDE leads to, IDX, CWADDR
(R190, R199, log entry 54). -/
def copyMisaligned (k : CmdKind) (b : List Byte) (ssl : Word64) : Option Nat :=
  let gather := k == .cpyg || k == .cpys
  let x := k == .cpyx
  firstFail [
    (bSrcacc b || (bGaddr b % 4 == 0 && (!x || bGaddr b % xBytes ssl == 0)), bGaddr b),
    (bGstride b % 4 == 0, bGaddr b + bGstride b),
    ((!(gather && !bItile b) || bIdx b % 4 == 0) && (!(x && xOp b == 1) || bIdx b % xBytes ssl == 0), bIdx b),
    (!bCwe b || bCwaddr b % 8 == 0, bCwaddr b)]

/-- Ranges of global memory that a command touches: address, length and whether it is written. -/
def copyRanges (k : CmdKind) (b : List Byte) (idx : List Nat) (dsl ssl : Word64) : List (Nat × Nat × Bool) :=
  let rows := destRows k b idx.length
  let cw := if bCwe b then [(bCwaddr b, 8, true)] else []
  let each := fun (n len : Nat) (w : Bool) => (List.range n).map fun i => (rowVa k b idx i, len, w)
  match k with
  | .cpy => (if bDir b = 0 ∧ !bSrcacc b then each rows (bRowb b) false
      else if bDir b = 1 then each rows (bRowb b) true ++ [(trailerVa k b, 4, true)] else []) ++ cw
  | .cpyg => each rows (bRowb b) false ++ cw
  | .cpys => each rows (bRowb b) true ++ [(trailerVa k b, 4, true)] ++ cw
  | .cpyx =>
    let len := bRowb b / xBytes dsl * xBytes ssl
    each (bNrows b) len false ++
      (if xOp b = 1 then (List.range (bNrows b)).map fun i => ((bIdx b + i * bGstride b) % 2^64, len, false) else []) ++ cw
  | _ => cw

/-- The first byte of a range on each page it touches. -/
def pagesOf (va n : Nat) : List Nat :=
  if n = 0 then [] else (List.range ((va % 4096 + n + 4095) / 4096)).map fun i => max va ((va / 4096 + i) * 4096)

/-- A page's translation as a command holds it: its number, and its physical base with the mirror bit and the size of the page table's
leaf, as the exponent of 2 (R190). -/
def heldLeaf (va : Nat) (l : Leaf) : Nat × Nat := (va / 4096, l.pa / 4096 * 4096 + 2 * Nat.log2 l.size + (if l.m then 1 else 0))

/-- All pages of ranges translated: the faults, or the pages held. -/
def State.holdPages (s : State) (w : Workgroup) (rs : List (Nat × Nat × Bool)) : List (Nat × Nat) × List (Nat × Nat) :=
  rs.foldl (fun acc r => (pagesOf r.1 r.2.1).foldl (fun (acc : List (Nat × Nat) × List (Nat × Nat)) va =>
    match s.access w (if r.2.2 then .write else .read) (BitVec.ofNat 64 va) .any with
    | .error e => (acc.1 ++ [(e, va % 2^48)], acc.2)
    | .ok l =>
      if isIo l.pa then (acc.1 ++ [(PERMISSION, va % 2^48)], acc.2)
      else (acc.1, if acc.2.any fun x => x.1 == va / 4096 then acc.2 else heldLeaf va l :: acc.2)) acc) ([], [])

/-- The logical words of a tile in row-major order (R198). -/
def State.tileWords (s : State) (w : Workgroup) (t : Nat) (x : Tile) : List Nat :=
  let per := descPitch x.desc / 4
  (List.range (descRows x.desc * per)).map fun i =>
    leNat ((descOffs x.desc (i / per) (4 * (i % per)) 4).map fun o => s.spotByte w t (spotOf s w x o) id true)

/-- What becomes of a lane of a submitting instruction: `poisoned` and `badWord` name the bad data that it read, in memory or in the
window. -/
inductive LaneCmd where
  | fault (code addr : Nat)
  | park (p : Park)
  | poisoned (pa : Nat)
  | badWord (a : Nat)
  /-- indices, held pages, the slots' words, the target workgroup -/
  | go (idx : List Nat) (pages : List (Nat × Nat)) (dsl ssl : Word64) (rwg : Nat)
  deriving DecidableEq, Repr

/-- A workgroup of a launch that is on a core. -/
def State.residentG (s : State) (w : Workgroup) (g : Nat) : Option Workgroup :=
  s.wgs.find? fun v => v.launch == w.launch && v.g == g && !v.trailing

/-- The index tile of a CPYG or CPYS with ITILE, where it is one of the workgroup's and not FREE or a view tile (R198, R303). -/
def indexTile (w : Workgroup) (k : CmdKind) (b : List Byte) : Option Tile :=
  if (k == .cpyg || k == .cpys) && bItile b then
    (w.tiles[bIdx b]?).bind fun y => if y.st = .free ∨ y.view.isSome then none else some y
  else none

/-- The target of a CPY with DIR 2 (R197): its workgroup and tile. -/
def targetTile (s : State) (w : Workgroup) (k : CmdKind) (b : List Byte) : Option (Workgroup × Tile) :=
  if twoTiles k b then (if bRwg b < (s.lrOf w).total then s.residentG w (bRwg b) else none).bind fun v =>
    (v.tiles[bRtile b]?).bind fun y => if y.st = .free then none else some (v, y)
  else none

/-- A tile that a lane's command names parks it (R190, R191, R197, R198), before any other check of the lane. -/
def tilePark (s : State) (w : Workgroup) (t : Nat) (k : CmdKind) (b : List Byte) (taken : List (Nat × Nat)) : Option Park :=
  let n := bTile b
  let index := match indexTile w k b with
    | some y => if y.st = .ready ∨ taken.contains (w.uid, bIdx b) then none else some (Park.ready (bIdx b))
    | none => none
  match w.tiles[n]? with
  | none => index
  | some x =>
    if x.st = .free ∨ w.foreignTile t x ∨ taken.contains (w.uid, n) then index
    else if twoTiles k b then
      match targetTile s w k b with
      | none => if x.st = .ready then none else some (.ready n)
      | some (v, y) =>
        if taken.contains (v.uid, bRtile b) then none
        else if x.st = .ready ∧ s.fillable v.uid (bRtile b) y then none
        else some (.pair n v.uid (bRtile b))
    else if emptiesTile k b then (if x.st = .ready ∧ !s.mergeHolds w.uid n then index else some (.empty n))
    else if s.fillable w.uid n x then index else some (.fill n)

/-- The window bytes of an index tile that a lane reads: the words it takes, behind the count where the tile holds that (R198). -/
def indexAddrs (w : Workgroup) (k : CmdKind) (b : List Byte) (ix : Option (List Nat)) : List Nat :=
  match indexTile w k b, ix with
  | some x, some ws =>
    let per := descPitch x.desc / 4
    let n := if bNrows b = 0xFFFF then 1 + min (ws.headD 0) (ws.length - 1) else min (bNrows b) ws.length
    (List.range n).flatMap fun i => (descOffs x.desc (i / per) (4 * (i % per)) 4).map (descBase x.desc + ·)
  | _, _ => []

/-- The indices of a lane's command: words of the index tile, or a list in memory read now (R198). -/
def laneIndices (s : State) (w : Workgroup) (t : Nat) (k : CmdKind) (b : List Byte) (ix : Option (List Nat)) : LaneCmd :=
  if !(k == .cpyg || k == .cpys) then .go [] [] 0 0 0
  else match ix with
  | some ws => match w.poisonAt (indexAddrs w k b ix) with
    | some a => .badWord a
    | none => .go (if bNrows b = 0xFFFF then (ws.drop 1).take (ws.headD 0) else ws.take (bNrows b)) [] 0 0 0
  | none => match s.blockRead w t (bIdx b) (4 * bNrows b) with
    | .error e => .fault e.1 e.2
    | .ok (_, some pa) => .poisoned pa
    | .ok (bs, none) => .go ((List.range (bNrows b)).map fun i => field bs (4 * i) 4) [] 0 0 0

/-- The pages of a spilled blank that a command reaches through a view tile (R303). -/
def spillRanges (s : State) (w : Workgroup) (x : Tile) (write : Bool) : List (Nat × Nat × Bool) :=
  match (x.view.bind w.view?).map View.store with
  | some (.spill off _) => [((s.ctx w.ctx).desc.vspill + off, viewBytes x.desc, write)]
  | _ => []

/-- The tile checks of a lane (R190, R197, R198, R303): TILEBAD with the tile's number, or the field's offset for the target. -/
def tilesBad (w : Workgroup) (t : Nat) (k : CmdKind) (b : List Byte) (x : Option Tile) (y : Option (Workgroup × Tile))
    (taken : List (Nat × Nat)) : Option Nat :=
  let n := bTile b
  match x with
  | none => some n
  | some x =>
    if w.foreignTile t x ∨ taken.contains (w.uid, n) then some n
    else if (k == .cpyg || k == .cpys) && bItile b && ((indexTile w k b).isNone || taken.contains (w.uid, bIdx b)) then some (bIdx b)
    else if twoTiles k b then
      match y with
      | none => some 0x39
      | some (v, z) => if taken.contains (v.uid, bRtile b) ∨ (z.view.isSome ∧ (v.uid ≠ w.uid ∨ v.foreignTile t z)) then some 0x39 else none
    else none

/-- The fault of the identity that the first instruction to reach a tile's spilled blank writes into it (R302). -/
def reachFault (s : State) (w : Workgroup) (x : Tile) : List (Nat × Nat) :=
  match s.reachBlank w x with
  | .error e => [(e.1, e.2 % 2^48)]
  | .ok _ => []

/-- The checks of a lane of CPY, CPYG, CPYS or CPYX after its block is read, in the order of R190. -/
def copyLane (s : State) (w : Workgroup) (c : Issue) (t : Nat) (k : CmdKind) (b : List Byte) (taken : List (Nat × Nat)) : LaneCmd :=
  if (if k = .cpy then bDir b > 2 else bDir b ≠ 0) then .fault TILEBAD 0x13 else
  match tilePark s w t k b taken with
  | some p => .park p
  | none =>
    let x := (w.tiles[bTile b]?).bind fun x => if x.st = .free then none else some x
    let y := targetTile s w k b
    let ix := (indexTile w k b).map (s.tileWords w t)
    let dsl := slotOf s c (xDslot b)
    let ssl := slotOf s c (xSslot b)
    match fieldFault k b x (y.map (·.2)) ix (s.residentG w (bRwg b)).isSome (s.lrOf w).total with
    | some o => .fault TILEBAD o
    | none =>
      if k = .cpyx ∧ !xformOk b dsl ssl then .fault FMTBAD 0
      else if k = .cpyx ∧ bRowb b % xBytes dsl ≠ 0 then .fault TILEBAD 0x0C
      else match copyMisaligned k b ssl with
      | some a => .fault ALIGN (a % 2^48)
      | none => match tilesBad w t k b x y taken with
      | some o => .fault TILEBAD o
      | none =>
        match laneIndices s w t k b ix with
        | .go idx _ _ _ _ =>
          let rs := copyRanges k b idx dsl ssl ++ ((x.map fun x => spillRanges s w x (fillsTile k b)).getD []) ++
            ((y.map fun y => spillRanges s y.1 y.2 true).getD [])
          let h := s.holdPages w rs
          let blanks := ((x.map (reachFault s w)).getD []) ++ ((y.map fun y => reachFault s y.1 y.2).getD [])
          match lowestFault (h.1 ++ blanks) with
          | some f => .fault f.1 f.2
          | none =>
            if !(((s.ctx w.ctx).cqs[w.cq]?).map (·.enabled)).getD false then .fault PERMISSION 0
            else .go idx h.2 dsl ssl ((y.map (·.1.uid)).getD 0)
        | f => f

/-! Submission. -/

/-- A physical address under a command's held pages, and whether the page is mirrored. -/
def Cmd.pa (c : Cmd) (va : Nat) : Option (Nat × Bool) :=
  (c.xlate.lookup (va / 4096)).map fun p => (p / 4096 * 4096 + va % 4096, p % 2 == 1)

def Cmd.rows (c : Cmd) : Nat := destRows c.kind c.block c.idx.length

/-- Bytes that a command moves into or out of its tile's rows. -/
def Cmd.rowBytes (c : Cmd) : Nat := c.rows * bRowb c.block

/-- All bytes of a copy: one out of a tile ends with the trailer. -/
def Cmd.segs (c : Cmd) : Nat := c.rowBytes + (if emptiesTile c.kind c.block then 4 else 0)

/-- The segment at `p` bytes moved: its row, the byte it begins at, its length. A segment ends with its row, at a multiple of 128
in the row, and at a multiple of 128 of the bytes moved, where a save can stop (R185, R188). -/
def Cmd.segAt (c : Cmd) (p : Nat) : Nat × Nat × Nat :=
  if c.rowBytes ≤ p then (c.rows, 0, 4)
  else
    let o := p % bRowb c.block
    (p / bRowb c.block, o, min (min (128 - o % 128) (bRowb c.block - o)) (128 - p % 128))

/-- Whether the segment at `p` ends a row segment, which takes the engine one clk (R185). -/
def Cmd.segEnds (c : Cmd) (p : Nat) : Bool :=
  let g := c.segAt p
  decide (c.rowBytes ≤ p) || (g.2.1 + g.2.2) % 128 == 0 || g.2.1 + g.2.2 == bRowb c.block

/-- Global bytes that the segment at `p` writes. -/
def Cmd.segDest (c : Cmd) (p : Nat) : Option (Nat × Nat) :=
  if !emptiesTile c.kind c.block then none
  else if p < c.rowBytes then
    let g := c.segAt p
    some ((rowVa c.kind c.block c.idx g.1 + g.2.1) % 2^64, g.2.2)
  else some (trailerVa c.kind c.block, 4)

/-- Physical sectors of a run of global bytes. -/
def Cmd.sectorsOf (c : Cmd) (va n : Nat) : List Nat :=
  (chunks va n).filterMap fun x => (c.pa x.1).map fun p => sectorOf p.1

/-- Destination sectors from `p` bytes on, one entry for each segment that touches one. -/
def Cmd.sectorsFrom (c : Cmd) : Nat → Nat → List Nat
  | 0, _ => []
  | n + 1, p =>
    if c.segs ≤ p then [] else
    (match c.segDest p with
     | some d => c.sectorsOf d.1 d.2
     | none => []) ++ c.sectorsFrom n (p + (c.segAt p).2.2)

def Cmd.allSectors (c : Cmd) (p : Nat) : List Nat :=
  if emptiesTile c.kind c.block then c.sectorsFrom (c.rows * (bRowb c.block / 64 + 2) + 2) p else []

/-- The tile that a command fills: its workgroup, its number and the first row (R191, R197). -/
def Cmd.filled (c : Cmd) : Option (Nat × Nat × Nat) :=
  if twoTiles c.kind c.block then some (c.rwg, bRtile c.block, bRtrow c.block)
  else if fillsTile c.kind c.block then some (c.wg, bTile c.block, bTrow c.block)
  else none

/-- The sectors of the spill area that a command fills through a view tile, with the trailer's of a CPYX (R163, R303). -/
def State.fillSectors (s : State) (c : Cmd) : List Nat :=
  let wg := fun u => (s.wg? u).orElse fun _ => (s.ctx c.ctx).saved.find? (·.uid == u)
  match c.filled with
  | none => []
  | some (u, n, r0) => match wg u, (wg u).bind (·.tiles[n]?) with
    | some w, some x =>
      if !((x.view.bind w.view?).map fun v => match v.store with | .spill .. => true | _ => false).getD false then [] else
      let rows := (List.range c.rows).flatMap fun i => descOffs x.desc (r0 + i) 0 (bRowb c.block)
      let os := rows ++ if c.kind = .cpyx then (List.range 4).map (descBytes x.desc + ·) else []
      ((os.filterMap fun o => (spotOf s w x o).va.bind fun va => (c.pa va).map fun p => sectorOf p.1).eraseDups)
    | _, _ => []

/-- A command with its destination sectors, from `p` bytes on. -/
def State.withSectors (s : State) (c : Cmd) (p : Nat) : Cmd := { c with sectors := c.allSectors p, fills := s.fillSectors c }

/-- A command takes ownership of its destination sectors: dirty bytes of them in any L1 are written back (R163). -/
def State.takeSectors (s : State) (c : Cmd) : State :=
  let ks := (c.sectors ++ c.fills).eraseDups
  let s := ks.foldl State.recall s
  { s with owned := s.owned ++ ks.map fun k => (k, Owner.cmd c.id) }

/-- A command takes ownership again, from `p` bytes on. -/
def State.own (s : State) (c : Cmd) (p : Nat) : State :=
  let c := s.withSectors c p
  let s := s.takeSectors c
  { s with cmds := s.cmds.map fun d => if d.id = c.id then c else d }

/-- Return-free atomics of a thread that are not performed, by number (R192). -/
def State.anIds (s : State) (u t : Nat) : List Nat :=
  (s.atoms.filter fun a => a.wg == u && a.tidx == t && a.result.isNone).map (·.id) ++
  s.channels.flatMap fun h => (h.queue.filter fun a => a.wg == u && a.tidx == t).map (·.id)

/-- A command of a lane. -/
def newCmd (s : State) (w : Workgroup) (t : Nat) (k : CmdKind) (b : List Byte) (idx : List Nat) (pages : List (Nat × Nat))
    (arg : Nat × Nat) (rwg : Nat) : Cmd :=
  { id := s.nextId, ctx := w.ctx, queue := w.cq, kind := k, wg := w.uid, tidx := t, tids := [t], block := b, xlate := pages, idx := idx,
    rwg := rwg, accepted := false, num := 0, started := false, seg := 0, due := s.clk + 8, ans := s.anIds w.uid t, arg := arg,
    die := dieOf w.core, sat := (0, 0), sectors := [], held := [], out := [], cw := false, fills := [] }

/-- A command leaves its instruction for its queue; C counts it (R187). -/
def State.submit (s : State) (c : Cmd) : State :=
  let c := s.withSectors c 0
  let s := s.takeSectors c
  ({ s with nextId := s.nextId + 1, cmds := s.cmds ++ [c] }).countUp c.wg c.tids .c

/-- What a copy's issue does to its tiles (R191, R197). -/
def State.beginTiles (s : State) (c : Cmd) : State :=
  let b := c.block
  if twoTiles c.kind b then
    (s.updTile c.wg (bTile b) fun x => { x with lent := x.lent + 1 }).updTile c.rwg (bRtile b) fun x =>
      { x with st := .filling, arrived := 0, expected := bRowb b * bNrows b }
  else if fillsTile c.kind b then
    let n := bRowb b * c.rows
    s.updTile c.wg (bTile b) fun x => { x with st := .filling, arrived := 0, expected := n }
  else s.updTile c.wg (bTile b) fun x => { x with st := .draining }

/-- The blank behind a view tile is reached (R302). -/
def State.reachTile (s : State) (w : Workgroup) (n : Nat) : State :=
  match w.tiles[n]? with
  | none => s
  | some x => match s.reachBlank w x with
    | .ok s => s
    | .error _ => s

/-- The blanks behind the tiles of a copy are reached, the target's of a CPY with DIR 2 too (R302). -/
def State.reachTargets (s : State) (w : Workgroup) (k : CmdKind) (b : List Byte) : State :=
  let s := s.reachTile w (bTile b)
  match targetTile s w k b with
  | some (v, _) => s.reachTile v (bRtile b)
  | none => s

/-- The block address and read of a submitting lane (R190). -/
def laneBlock (s : State) (w : Workgroup) (t va : Nat) : Except (Nat × Nat) (List Byte × Option Nat) :=
  if va % 64 ≠ 0 then .error (ALIGN, va % 2^48) else s.blockRead w t va 64

/-- A lane whose block or list was poisoned submits nothing and takes UNCORRECTABLE at its next header (R348). -/
def State.lanePoison (s : State) (w : Workgroup) (t pa : Nat) (va : Word64) : State :=
  (s.recordPoison w pa).consume w.uid t va

/-- A lane's read of its index tile, as a read of the window: a refused byte is recorded, a flipped word corrected (R129, R198, R367). -/
def State.readIndex (s : State) (w : Workgroup) (t : Nat) (k : CmdKind) (b : List Byte) : State :=
  (s.localRead w.uid t (indexAddrs w k b ((indexTile w k b).map (s.tileWords w t)))).2

/-- The read of a lane's block waits as a load does (R163, R212). -/
def laneWaits (s : State) (w : Workgroup) (t va : Nat) : Bool := va % 64 == 0 && s.blockWaits w t va 64

/-- The read of a lane's index list waits as a load does. -/
def listWaits (s : State) (w : Workgroup) (t : Nat) (k : CmdKind) (b : List Byte) : Bool :=
  (k == .cpyg || k == .cpys) && !bItile b && decide (bNrows b ≤ 4096) && s.blockWaits w t (bIdx b) (4 * bNrows b)

/-- A lane whose reads at issue wait, or whose command would own a sector that the token's holder owns: ownership is taken at issue, so
the instruction waits (R163, R172). -/
def copyWaits (s : State) (c : Issue) (k : CmdKind) (t : Nat) (va : Word64) : Bool :=
  match s.wg? c.wg with
  | none => false
  | some w => laneWaits s w t va.toNat || match laneBlock s w t va.toNat with
    | .ok (b, none) => listWaits s w t k b || match copyLane s w c t k b [] with
      | .go idx pages dsl ssl rwg =>
        let cmd := newCmd s w t k b idx pages (dsl.toNat, ssl.toNat) rwg
        (cmd.allSectors 0 ++ s.fillSectors cmd).any s.tokenOwned
      | _ => false
    | _ => false

/-- CPY, CPYG, CPYS and CPYX: lanes in ascending home lane order. -/
def copyInstr (g : Guard) (a : RegCode) (k : CmdKind) (s : State) : Host.Outcome State Fault Refusal :=
  s.issue fun c s =>
    let ts := byLane (active s c g)
    let addr := ts.map fun t => (t, reg64 s c a t)
    if s.counterFull c.wg ts .c || addr.any fun p => copyWaits s c k p.1 p.2 then s.reissue c else
    (addr.foldl (fun (r : State × List (Nat × Nat)) p =>
      let s := r.1
      match s.wg? c.wg with
      | none => r
      | some w =>
        match laneBlock s w p.1 p.2.toNat with
        | .error e => (s.raise c p.1 e.1 e.2, r.2)
        | .ok (_, some pa) => (s.lanePoison w p.1 pa p.2, r.2)
        | .ok (b, none) =>
          match copyLane s w c p.1 k b r.2 with
          | .fault code x => (s.raise c p.1 code x, r.2)
          | .park q => (s.park c.wg p.1 q, r.2)
          | .poisoned pa => (s.lanePoison w p.1 pa p.2, r.2)
          | .badWord x => (((s.readIndex w p.1 k b).recordLocalPoison w x).consume w.uid p.1 (BitVec.ofNat 64 x), r.2)
          | .go idx pages dsl ssl rwg =>
            let s := s.readIndex w p.1 k b
            let cmd := newCmd s w p.1 k b idx pages (dsl.toNat, ssl.toNat) rwg
            let moved := if twoTiles k b then [(rwg, bRtile b)] else [(w.uid, bTile b)]
            let s := s.seesReady c.wg (bTile b :: if bItile b then [bIdx b] else [])
            ((((s.reachTargets w k b).noteTlb w.core w.ctx (bGaddr b)).submit cmd).beginTiles cmd, moved ++ r.2)) (s, [])).1

/-- CPY (R196, R197). -/
def execCpy (g : Guard) (a : RegCode) (s : State) : Host.Outcome State Fault Refusal := copyInstr g a .cpy s

/-- CPYG (R198). -/
def execCpyg (g : Guard) (a : RegCode) (s : State) : Host.Outcome State Fault Refusal := copyInstr g a .cpyg s

/-- CPYS (R198). -/
def execCpys (g : Guard) (a : RegCode) (s : State) : Host.Outcome State Fault Refusal := copyInstr g a .cpys s

/-- CPYX (R199, R200). -/
def execCpyx (g : Guard) (a : RegCode) (s : State) : Host.Outcome State Fault Refusal := copyInstr g a .cpyx s

/-! Queues. -/

def State.cq? (s : State) (n q : Nat) : Option CopyQueue := (s.ctx n).cqs[q]?

def State.updCq (s : State) (n q : Nat) (f : CopyQueue → CopyQueue) : State :=
  s.updCtx n fun c => { c with cqs := c.cqs.modify q f }

/-- The engines take up work for a context: it runs and is not being saved, but that its workgroups are still to yield (R188, R332). -/
def State.enginesRun (s : State) (n : Nat) : Bool :=
  ((s.ctx n).state == .running && (s.ctx n).saving.isNone) || ((s.ctx n).saving.isSome && s.wgs.any fun w => w.ctx == n && w.yreq)

/-- The engines go on with what they have started for a context: also where it stands STOPPED and resident (R324). -/
def State.enginesGoOn (s : State) (n : Nat) : Bool :=
  s.enginesRun n || ((s.ctx n).state == .stopped && (s.ctx n).resident && (s.ctx n).saving.isNone)

/-- CQBIND (R202): accepted as it issues, so C rises for it and falls behind the thread's earlier commands (R28, R195). -/
def execCqbind (g : Guard) (k : BitVec 4) (s : State) : Host.Outcome State Fault Refusal :=
  s.issue fun c s =>
    match s.wg? c.wg with
    | none => s
    | some w =>
      let ts := active s c g
      if s.counterFull c.wg ts .c then s.reissue c
      else if ts.isEmpty then s
      else if !((s.cq? w.ctx k.toNat).map (·.enabled)).getD false then s.raiseAll c ts PERMISSION 0
      else ((s.updWg c.wg fun w => { w with cq := k.toNat }).countUp c.wg ts .c).bump.countDown c.wg ts .c s.nextId

/-- A field of a queue's entry (R203). -/
def State.cqWord (s : State) (n q fn : Nat) : Word :=
  match s.cq? n q with
  | none => 0
  | some q => match fn with
    | 0 => q.head | 1 => q.tail | 2 => q.done | 3 => BitVec.ofNat 32 q.prog
    | _ => BitVec.ofNat 32 q.err

/-- CQSTAT (R203): sampled as it lands, counted on C, tag G. -/
def execCqstat (g : Guard) (f : BitVec 3) (d : RegCode) (k : BitVec 4) (s : State) : Host.Outcome State Fault Refusal :=
  s.issue fun c s =>
    match s.wg? c.wg with
    | none => s
    | some w =>
      let ts := active s c g
      if s.counterFull c.wg ts .c then s.reissue c
      else if ts.isEmpty then s
      else (s.countUp c.wg ts .c).addPend (1 + Config.latency s.fresh) { Pend.none_ c.wg ts with
        ctr := some .c, regs := regWrites ts d.toNat (fun _ => 0) noImg, late := some (.cqstat w.ctx k.toNat f.toNat, d.toNat) }

/-- A thread's own submissions to a queue that are not accepted. -/
def State.unaccepted (s : State) (u t q : Nat) : Bool := s.cmds.any fun c => c.wg == u && c.tidx == t && c.queue == q && !c.accepted

/-- TAIL of a queue once a thread's own submissions are accepted (R204). -/
def State.drainTarget (s : State) (n u t q : Nat) : Option Nat :=
  if s.unaccepted u t q then none else some (((s.cq? n q).map (·.tail.toNat)).getD 0)

/-- CQDRAIN (R204): the thread blocks until DONE has reached the TAIL that stands once its own submissions are accepted. -/
def execCqdrain (g : Guard) (k : BitVec 4) (s : State) : Host.Outcome State Fault Refusal :=
  s.issue fun c s =>
    match s.wg? c.wg with
    | none => s
    | some w =>
      let ts := active s c g
      if s.counterFull c.wg ts .c then s.reissue c
      else ts.foldl (fun s t =>
        (s.block c.wg t (.cqdrain k.toNat (s.drainTarget w.ctx c.wg t k.toNat)) none).countUp c.wg [t] .c) s

/-- DONE has reached a count, modulo 2^32. -/
def reached (done : Word) (target : Nat) : Bool := decide ((done - BitVec.ofNat 32 target).toNat < 2^31)

/-- Threads in CQDRAIN: TAIL is taken once their commands are accepted, the condition holds, and 8 clk later they return, having
observed the commands (R164, R204). -/
def State.settleDrains (s : State) : State :=
  s.wgs.foldl (fun s w => if !s.wgRuns w then s else w.threads.zipIdx.foldl (fun s p => match p.1.st, p.1.wake with
    | .blocked (.cqdrain q none), _ => match s.drainTarget w.ctx w.uid p.2 q with
      | none => s
      | some n => s.updThread w.uid p.2 fun th => { th with st := .blocked (.cqdrain q (some n)) }
    | .blocked (.cqdrain q (some target)), none =>
      if ((s.cq? w.ctx q).map fun x => reached x.done target).getD true then
        s.updThread w.uid p.2 fun th => { th with wake := some (s.clk + 8) } else s
    | .blocked (.cqdrain ..), some d =>
      if d ≤ s.clk then (((s.l1Observe w.core).release w.uid p.2).countDown w.uid [p.2] .c s.nextId) else s
    | _, _ => s) s) s

/-- A command of a context that is being saved, up to an HSUM in its queue: the HSUM's register write is outstanding, and the engines stop
after it has landed (R328). -/
def State.awaited (s : State) (c : Cmd) : Bool :=
  (s.ctx c.ctx).state == .saving && s.hsums.any fun d => d.ctx == c.ctx && d.queue == c.queue && decide (c.id ≤ d.id) && (s.wg? d.wg).isSome

/-- An engine takes up a command (R185, R188). -/
def State.takesUp (s : State) (c : Cmd) : Bool := s.enginesRun c.ctx || s.awaited c

/-! COPY_ACCEPTANCE (R187). -/

/-- The byte the device sets in a queued copy (R189); other commands stand in the ring as their block. -/
def CmdKind.code : CmdKind → Nat
  | .cpy => 1 | .cpyg => 2 | .cpys => 3 | .cpyx => 4 | _ => 0

/-- A command writes global memory (R358). -/
def Cmd.writesGlobal (c : Cmd) : Bool :=
  match c.kind with
  | .hlut => false
  | .hlutw => false
  | .hsum => false
  | .wload => bCwe c.block
  | k => emptiesTile k c.block || bCwe c.block

/-- The command's workgroup, or the one whose tile it fills, is in the save area: a command that uses a local store
goes on once its workgroups are restored (R188, R330). -/
def State.cmdSaved (s : State) (c : Cmd) : Bool :=
  (s.ctx c.ctx).saved.any fun w => w.uid == c.wg || (twoTiles c.kind c.block && w.uid == c.rwg)

/-- A queue's ring slot at TAIL. -/
def CopyQueue.slotPa (q : CopyQueue) : Nat :=
  let i := q.tail.toNat % 2^q.size
  q.pages.getD (64 * i / 4096) 0 + 64 * i % 4096

/-- A command that can be accepted: its ring slot can be written (R163, R212), and what a workgroup held before it became uncontained has
been released (R358). -/
def State.acceptable (s : State) (c : Cmd) : Bool :=
  !c.accepted && decide (c.due ≤ s.clk) && s.takesUp c && !s.cmdSaved c &&
  (!c.writesGlobal || !s.holding c.wg || ((s.wg? c.wg).map (·.contained)).getD false) &&
  !(s.cmds.any fun d => !d.accepted && d.ctx == c.ctx && d.queue == c.queue && decide (d.id < c.id)) &&
  match s.cq? c.ctx c.queue with
  | some q => q.enabled && decide ((q.tail - q.done).toNat < 2^q.size) && !s.ownedBy c.die q.slotPa 64 none
  | none => false

/-- The command stands in the ring slot at TAIL, and TAIL rises. One that writes global memory ends its workgroup's containment first,
and is accepted once the held stores are released (R358). -/
def State.acceptCmd (s : State) (c : Cmd) : State :=
  match s.cq? c.ctx c.queue with
  | none => s
  | some q =>
    if c.writesGlobal && ((s.wg? c.wg).map (·.contained)).getD false then s.uncontain c.wg else
    let pa := q.slotPa
    let block := (c.block ++ List.replicate 64 0).take 64
    let bytes := if c.kind.code = 0 then block else block.set 0x38 (BitVec.ofNat 8 c.kind.code)
    let s := (s.pkgWrite pa bytes).updCq c.ctx c.queue fun q => { q with tail := q.tail + 1 }
    let s := if c.kind == .hsum then s else s.countDown c.wg c.tids .c c.id
    { s with cmds := s.cmds.map fun d => if d.id = c.id then { d with accepted := true, num := q.tail } else d }

/-- COPY_ACCEPTANCE. -/
def fireCopyAcceptance (s : State) : Option State := (s.cmds.find? s.acceptable).map s.acceptCmd

def execCopyAcceptance (s : State) : Host.Outcome State Fault Refusal := .next ((fireCopyAcceptance s).getD s)

/-! Engines (R185, R194). -/

def State.updCmd (s : State) (id : Nat) (f : Cmd → Cmd) : State :=
  { s with cmds := s.cmds.map fun d => if d.id = id then f d else d }

/-- A wave, which the hearth runs to its end whatever becomes of its queue and context (R328). -/
def isWave (k : CmdKind) : Bool := k == .hlut || k == .hlutw

/-- A queue halts (R194): ERR, and DONE as it stands. Its engine serves it no longer. -/
def State.haltQueue (s : State) (c : Cmd) (code : Nat) : State :=
  (s.updCmd c.id fun c => { c with started := c.started && isWave c.kind }).updCq c.ctx c.queue fun q => { q with err := code }

/-- The oldest unfinished command of its queue, which is not halted and not without its local stores. -/
def State.inFront (s : State) (c : Cmd) : Bool :=
  c.accepted && (c.kind == .hlut || c.kind == .hlutw || !s.cmdSaved c) &&
  !(s.cmds.any fun d => d.accepted && d.ctx == c.ctx && d.queue == c.queue && decide (d.id < c.id)) &&
  match s.cq? c.ctx c.queue with
  | some q => q.enabled && q.err == 0
  | none => false

/-- One that can start. -/
def State.atHead (s : State) (c : Cmd) : Bool := s.takesUp c && s.inFront c

/-- A command that an engine has started goes on: in a save only to where it stops (R188, R324). -/
def State.goesOn (s : State) (c : Cmd) : Bool := s.inFront c && (s.enginesGoOn c.ctx || (s.ctx c.ctx).saving.isSome)

/-- Commands under way of a die's four engines (R185). A halted queue and a saved context hold none, but for a wave that runs on. -/
def State.enginesBusy (s : State) (die : Nat) : Nat :=
  (s.cmds.filter fun c => c.started && c.die == die && ((isWave c.kind && (s.channels.any fun h => (h.wave.map (·.1)) == some c.id)) || s.goesOn c)).length

/-- Bad data that an engine meets: at a physical address, or at a window address. -/
inductive Bad where
  | mem (pa : Nat)
  | local_ (a : Nat)
  deriving DecidableEq, Repr

/-- Bytes that an engine cannot read: poisoned, of a package that does not answer, or without a route (R348, R375, R387). -/
def State.engBad (s : State) (c : Cmd) (pa n : Nat) : Bool :=
  s.poisoned pa n || (if s.remote pa then !s.pkgReachable pa || !Config.ralpexAnswers s.fresh pa else !s.routed c.die (homeDie pa))

/-- Bytes that an engine reads of global memory, those of a sector it has read before from what it read then (R163). -/
def State.engRead (s : State) (c : Cmd) (va n : Nat) : Except Bad (List Byte) :=
  let ps := (chunks va n).map fun x => (((c.pa x.1).map (·.1)).getD 0, x.2)
  match ps.find? fun p => (c.held.lookup (sectorOf p.1)).isNone && s.engBad c p.1 p.2 with
  | some p => .error (.mem p.1)
  | none => .ok (ps.flatMap fun p => match c.held.lookup (sectorOf p.1) with
      | some d => (d.drop (p.1 % 128)).take p.2
      | none => s.pkgRead p.1 p.2)

/-- The sectors of runs of source bytes read whole, each once, and kept for the command's later segments (R163, R196). -/
def State.hold (s : State) (c : Cmd) (runs : List (Nat × Nat)) : Cmd :=
  runs.foldl (fun c r => (chunks r.1 r.2).foldl (fun c x => match c.pa x.1 with
    | none => c
    | some p =>
      let k := sectorOf p.1
      if (c.held.lookup k).isSome || s.engBad c p.1 x.2 then c
      else { c with held := (k, s.pkgRead (128 * k) 128) :: c.held }) c) c

/-- An engine's write of bytes of one sector at the PACKAGE point; copies of it in the L1s stay as they are (R163, R164). To another package
it goes over Ralpex, and without a route it is dropped (R375, R387). -/
def State.engPut (s : State) (c : Cmd) (pa : Nat) (mi : Bool) (bs : List Byte) : State :=
  if s.remote pa then
    if s.pkgReachable pa then
      let s := s.tickFree
      { s with ralpex := s.ralpex ++ [⟨c.wg, c.tidx, pa, bs, s.later, s.clk + timeout100, some c.id⟩] }
    else s.unreachable c.ctx pa
  else if !s.routed c.die (homeDie pa) then s
  else (s.mirrorWrite c.wg c.tidx pa mi bs).leaveBehind (sectorOf pa)

/-- Bytes that an engine writes to global memory. -/
def State.engWrite (s : State) (c : Cmd) (va : Nat) (bs : List Byte) : State :=
  (chunks va bs.length).foldl (fun s x => match c.pa x.1 with
    | none => s
    | some (pa, mi) => s.engPut c pa mi ((bs.drop (x.1 - va)).take x.2)) s

/-- The same bytes kept until all that the command writes of their sector is there: the sector is written whole (R159, R163). -/
def Cmd.buffer (c : Cmd) (va : Nat) (bs : List Byte) : Cmd :=
  { c with out := c.out ++ (chunks va bs.length).filterMap fun x => (c.pa x.1).map fun p => (p.1, p.2, (bs.drop (x.1 - va)).take x.2) }

/-- Buffered bytes of the sectors that `p` names are written. -/
def State.flushOut (s : State) (c : Cmd) (p : Nat → Bool) : State :=
  (c.out.filter fun x => p (sectorOf x.1)).foldl (fun s x => s.engPut c x.1 x.2.1 x.2.2) s

/-- Bytes of a tile that an engine reads, by their offsets; poisoned words of the window are reported (R194, R348), those that a
read does not reach apart (R129). -/
def State.engTile (s : State) (c : Cmd) (w : Workgroup) (x : Tile) (os : List Nat) : Except Bad (List Byte) :=
  let ps := os.map (spotOf s w x)
  match w.poisonAt ((ps.filterMap Spot.winAddr).filter fun a => (w.lsBad a).isNone) with
  | some a => .error (.local_ a)
  | none => ps.foldl (fun r p => match r, p with
    | .error e, _ => .error e
    | .ok bs, .win a => .ok (bs ++ [w.winByte a])
    | .ok bs, .blank v o => .ok (bs ++ [match (w.view? v).map View.store with | some (.local_ _ m) => m.get o | _ => 0])
    | .ok bs, .spill va => match s.engRead c va 1 with
      | .ok b => .ok (bs ++ b)
      | .error e => .error e) (.ok [])

/-- The spilled bytes of a tile, as runs that an engine reads. -/
def spillRuns (s : State) (w : Workgroup) (x : Tile) (os : List Nat) : List (Nat × Nat) :=
  (os.map (spotOf s w x)).filterMap fun p => p.va.map fun v => (v, 1)

/-- Bytes of a tile that an engine writes for a thread. -/
def State.engFill (s : State) (c : Cmd) (u : Nat) (w : Workgroup) (x : Tile) (os : List Nat) (bs : List Byte) : State :=
  let ps := (os.map (spotOf s w x)).zip bs
  let s := s.localWrite u c.tidx (ps.filterMap fun p => match p.1 with | .win a => some (a, p.2) | _ => none)
  let s := ps.foldl (fun s p => match p.1 with
    | .spill va => s.engWrite c va [p.2]
    | _ => s) s
  match x.view with
  | none => s
  | some e => s.updWg u (·.updView e fun v => match v.store with
      | .local_ k m => { v with store := .local_ k (m.writeCells (ps.filterMap fun p => match p.1 with | .blank _ o => some (o, p.2) | _ => none)) }
      | _ => v)

/-- An arrival of bytes; the tile is READY when the last lands (R134). -/
def Tile.arrive (x : Tile) (n : Nat) : Tile :=
  if x.st = .filling then { x with arrived := x.arrived + n, st := if x.expected ≤ x.arrived + n then .ready else .filling } else x

/-! CPYX (R200). -/

/-- One destination element: its bits, and whether it saturated. CAST from an integer to an integer goes by R52's own rule. SCALE, ADD and
REDUCE of integer elements into an integer format without SAT clamp, and count, as a source of floating point does: R52 does not name
them, and it is the model's choice (log entry 60). -/
def xElem (b : List Byte) (dsl ssl : Word64) (rho : Nat) (xs zs : List Nat) : Rnd :=
  let v := fun x => elemVal (slotElem ssl) x
  let x0 := v (xs.headD 0)
  let y : Val := match xOp b with
    | 0 => (mulV x0 (f32.decode (xScale b))).1
    | 1 => (addV false x0 (v (zs.headD 0))).1
    | 2 => x0
    | _ => xs.tail.foldl (fun acc x => f32.decode (f32.round 0 0 false false (addV false acc (v x)).1).bits) x0
  if xOp b = 2 ∧ isIntElem (slotElem ssl) then
    roundIntElem (slotElem dsl) (slotRound dsl) rho (slotSat dsl) (toInt (elemWidth (slotElem ssl)) (xs.headD 0))
  else roundElem (slotElem dsl) (slotRound dsl) rho (slotSat dsl) y

/-- Elements of a run of bytes, `n` bytes each. -/
def elemsOf (n : Nat) (bs : List Byte) : List Nat := (List.range (bs.length / n)).map fun i => field bs (n * i) n

/-- The runs of source bytes of a CPYX segment: every row's for REDUCE, else the one row's; a second source for ADD. -/
def xRuns (b : List Byte) (row m n sb : Nat) : List (Nat × Nat) × List (Nat × Nat) :=
  let run := fun base => ((base + m * sb) % 2^64, n * sb)
  (((if xOp b = 3 then List.range (bNrows b) else [row]).map fun i => run (bGaddr b + i * bGstride b)),
   if xOp b = 1 then [run (bIdx b + row * bGstride b)] else [])

/-- The source elements of a segment. -/
def State.xSources (s : State) (c : Cmd) (row m n : Nat) (sb : Nat) : Except Bad (List (List Nat) × List Nat) :=
  let r := xRuns c.block row m n sb
  let rd := fun x : Nat × Nat => (s.engRead c x.1 x.2).map (elemsOf sb)
  let xs := r.1.foldl (fun (l : Except Bad (List (List Nat))) x => match l, rd x with
    | .ok l, .ok x => .ok (l ++ [x])
    | .error e, _ => .error e
    | _, .error e => .error e) (.ok [])
  match xs, r.2 with
  | .ok l, [] => .ok (l, [])
  | .ok l, x :: _ => (rd x).map (l, ·)
  | .error e, _ => .error e

/-- The bytes of a CPYX segment and how many elements saturated. -/
def State.xBytesOf (s : State) (c : Cmd) (row o n : Nat) : Except Bad (List Byte × Nat) :=
  let dsl : Word64 := BitVec.ofNat 64 c.arg.1
  let ssl : Word64 := BitVec.ofNat 64 c.arg.2
  let db := xBytes dsl
  match s.xSources c row (o / db) (n / db) (xBytes ssl) with
  | .error e => .error e
  | .ok (xs, zs) =>
    let rs := (List.range (n / db)).map fun i =>
      xElem c.block dsl ssl (Config.rho s.fresh row (o / db + i)).toNat (xs.map fun l => l.getD i 0) [zs.getD i 0]
    .ok (rs.flatMap fun r => toBytes db r.bits, (rs.filter (·.sat)).length)

/-! Hearth channels as a copy reads them (R206, R210). -/

def State.channel (s : State) (n : Nat) : Channel := (s.channels.find? (·.num == n)).getD (.reset n)

def State.putChannel (s : State) (h : Channel) : State :=
  { s with channels := h :: s.channels.filter (·.num != h.num) }

/-- Where an accumulator's word stands among what a command has read: no sector has such a number. -/
def accKey (q : Nat) : Nat := 2^60 + q

/-- The accumulators of `n` bytes from byte `o` on of a row of a CPY with SRCACC (R210). -/
def accsOf (b : List Byte) (row o n : Nat) : List Nat :=
  (List.range (n / 4)).map (bGaddr b / 2^16 % 2^15 + row * (bGstride b / 4) + o / 4 + ·)

/-- Accumulators read, each once as a whole word, and kept for the command's later rows (R210). -/
def State.holdAccs (s : State) (c : Cmd) (qs : List Nat) : Cmd :=
  let h := s.channel (32 * (bGaddr c.block % 8) + bGaddr c.block / 2^8 % 32)
  qs.foldl (fun c q => if (c.held.lookup (accKey q)).isSome then c else { c with held := (accKey q, h.acc.read (4 * q) 4) :: c.held }) c

/-- Accumulators as a CPY with SRCACC has read them. -/
def Cmd.accBytes (c : Cmd) (row o n : Nat) : List Byte := (accsOf c.block row o n).flatMap fun q => (c.held.lookup (accKey q)).getD []

/-! One segment. -/

/-- The queue's PROG after `p` bytes moved: destination bytes written, a multiple of 128 (R186). Bytes that still stand in the engine
are not written. -/
def Cmd.progress (c : Cmd) (p : Nat) : Nat := min (p - sumNat (c.out.map (·.2.2.length))) c.rowBytes / 128 * 128

/-- Destination sectors that the segment at `p` is the last to write. -/
def Cmd.pastSectors (c : Cmd) (p : Nat) : List Nat :=
  match c.segDest p with
  | none => []
  | some d =>
    let n := (c.sectorsOf d.1 d.2).length
    (c.sectors.take n).filter (!(c.sectors.drop n).contains ·)

/-- A write of a command to a sector of another package is on its way. -/
def State.engSent (s : State) (id sec : Nat) : Bool := s.ralpex.any fun r => r.cmd == some id && sectorOf r.pa == sec

/-- A command's ownership of sectors ends (R163); of one that its write is on the way to when that lands. -/
def State.disown (s : State) (id : Nat) (p : Nat → Bool) : State :=
  { s with owned := s.owned.filter fun o => !(o.2 == Owner.cmd id && p o.1 && !s.engSent id o.1) }

/-- Ownership of the sectors a segment was the last to write ends (R163). -/
def State.dropSectors (s : State) (c : Cmd) (p : Nat) : State :=
  match c.segDest p with
  | none => s
  | some d =>
    let n := (c.sectorsOf d.1 d.2).length
    let past := c.pastSectors p
    (s.disown c.id past.contains).updCmd c.id fun c =>
      { c with sectors := c.sectors.drop n, out := c.out.filter fun x => !past.contains (sectorOf x.1) }

/-- The offsets of the tile bytes that a segment reads, for one that reads its tile. -/
def Cmd.segOffs (c : Cmd) (x : Tile) (p : Nat) : List Nat :=
  let g := c.segAt p
  if c.rowBytes ≤ p then (List.range 4).map (descBytes x.desc + ·)
  else if twoTiles c.kind c.block || emptiesTile c.kind c.block then descOffs x.desc (bTrow c.block + g.1) g.2.1 g.2.2
  else []

/-- The runs of global memory that a segment reads. -/
def Cmd.segRuns (c : Cmd) (s : State) (w : Workgroup) (x : Tile) (p : Nat) : List (Nat × Nat) :=
  let b := c.block
  let g := c.segAt p
  if c.rowBytes ≤ p || twoTiles c.kind b || emptiesTile c.kind b then spillRuns s w x (c.segOffs x p)
  else if c.kind = .cpyx then
    let db := xBytes (BitVec.ofNat 64 c.arg.1)
    let r := xRuns b g.1 (g.2.1 / db) (g.2.2 / db) (xBytes (BitVec.ofNat 64 c.arg.2))
    r.1 ++ r.2
  else if bSrcacc b then []
  else [((rowVa c.kind b c.idx g.1 + g.2.1) % 2^64, g.2.2)]

/-- The bytes of a segment, and how many elements saturated. -/
def State.segBytes (s : State) (c : Cmd) (w : Workgroup) (x : Tile) (p : Nat) : Except Bad (List Byte × Nat) :=
  let b := c.block
  let g := c.segAt p
  if c.rowBytes ≤ p || twoTiles c.kind b || emptiesTile c.kind b then (s.engTile c w x (c.segOffs x p)).map (·, 0)
  else if c.kind = .cpyx then s.xBytesOf c g.1 g.2.1 g.2.2
  else if bSrcacc b then .ok (c.accBytes g.1 g.2.1 g.2.2, 0)
  else (s.engRead c ((rowVa c.kind b c.idx g.1 + g.2.1) % 2^64) g.2.2).map (·, 0)

/-- Poisoned data halts the queue, with a record (R194, R348). A workgroup of a CONTAIN launch is killed instead, contained or not
(R358). -/
def State.engPoison (s : State) (c : Cmd) (x : Bad) : State :=
  match s.wg? c.wg, x with
  | none, .mem pa => (s.haltQueue c UNCORRECTABLE).recordDev c.ctx pa
  | none, .local_ _ => s.haltQueue c UNCORRECTABLE
  | some w, x =>
    let s := match x with
      | .mem pa => s.recordPoison w pa
      | .local_ a => s.recordLocalPoison w a
    if w.contain.isSome then s.consume c.wg c.tidx 0 else s.haltQueue c UNCORRECTABLE

/-- The overflow counter and its trailer after saturations (R136, R200). -/
def State.countSat (s : State) (u k n : Nat) (c : Cmd) : State :=
  if n = 0 then s else
  match s.wg? u, (s.wg? u).bind (·.tiles[k]?) with
  | some w, some x =>
    let y := x.addOvf n s.clk
    let s := s.updTile u k fun x => x.addOvf n s.clk
    if y.ovf = x.ovf then s else s.engFill c u w x ((List.range 4).map (descBytes x.desc + ·)) (trailerBytes y.ovf)
  | _, _ => s

/-- What a command keeps of the sectors it has read: where every row lies behind the one before, the last alone. -/
def Cmd.prune (c : Cmd) : Cmd :=
  if c.kind == .cpy && decide (bRowb c.block ≤ bGstride c.block) then { c with held := c.held.take 1 } else c

/-- The segment of a copy at `p` bytes moves. -/
def State.moveSeg (s : State) (c : Cmd) (w : Workgroup) (x : Tile) (p : Nat) : State :=
  let b := c.block
  let g := c.segAt p
  let c := s.hold c (c.segRuns s w x p)
  let c := if bSrcacc b then s.holdAccs c (accsOf b g.1 g.2.1 g.2.2) else c
  let s := s.lsRecord w false (((c.segOffs x p).map (spotOf s w x)).filterMap fun y => y.winAddr.map fun a => (c.tidx, a))
  match s.segBytes c w x p with
  | .error y => s.engPoison c y
  | .ok (bs, sat) =>
    let s := s.tickFree
    let last := decide (p + g.2.2 ≥ c.segs)
    let c := if emptiesTile c.kind b then match c.segDest p with
        | some d => c.buffer d.1 bs
        | none => c
      else c
    let sats := if (p + g.2.2) % 128 = 0 ∨ last then (c.sat.1 + c.sat.2 + sat, 0) else (c.sat.1, c.sat.2 + sat)
    let c := { c.prune with seg := p + g.2.2, due := if c.segEnds p then s.clk + 1 else s.clk, sat := sats }
    let s := s.updCmd c.id fun _ => c
    let s :=
      if twoTiles c.kind b then
        match s.wg? c.rwg, (s.wg? c.rwg).bind (·.tiles[bRtile b]?) with
        | some v, some y => (s.engFill c c.rwg v y (descOffs y.desc (bRtrow b + g.1) g.2.1 g.2.2) bs).updTile c.rwg (bRtile b)
            (·.arrive bs.length)
        | _, _ => s
      else if emptiesTile c.kind b then (s.flushOut c ((c.pastSectors p).contains ·)).dropSectors c p
      else
        let s := s.engFill c c.wg w x (descOffs x.desc (bTrow b + g.1) g.2.1 g.2.2) bs
        (if last then s.countSat c.wg (bTile b) c.sat.1 c else s).updTile c.wg (bTile b) (·.arrive bs.length)
    let s := if !last then s
      else if twoTiles c.kind b then s.updTile c.wg (bTile b) fun x => { x with lent := x.lent - 1 }
      else if emptiesTile c.kind b then s.updTile c.wg (bTile b) fun x => { x with st := if x.st = .draining then .empty else x.st }
      else s
    let s := if last then s.disown c.id c.fills.contains else s
    s.updCq c.ctx c.queue fun q => { q with prog := (((s.cmds.find? (·.id == c.id)).getD c).progress c.seg) }

def isCopy (k : CmdKind) : Bool := k == .cpy || k == .cpyg || k == .cpys || k == .cpyx

/-- An engine's access of a sector waits for a wave, or at a link (R212, R374). -/
def State.engHeld (s : State) (c : Cmd) (sec : Nat) : Bool := s.waveHolds (128 * sec) 1 || s.pathHeld c.die (128 * sec)

/-- An earlier command, the token or a hearth owns a sector that a command is to write, or its access is held (R163, R172). -/
def State.ownedBefore (s : State) (c : Cmd) (sec : Nat) : Bool :=
  s.engHeld c sec ||
  (s.owned.takeWhile (· != (sec, Owner.cmd c.id))).any fun o => o.1 == sec && o.2 != Owner.cmd c.id

/-- What the sectors of a segment wait for. -/
def State.segWaits (s : State) (c : Cmd) : Bool :=
  match s.wg? c.wg, (s.wg? c.wg).bind (·.tiles[bTile c.block]?) with
  | some w, some x =>
    ((c.segRuns s w x c.seg).any fun r => (c.sectorsOf r.1 r.2).any (s.engHeld c)) ||
    c.fills.any (s.ownedBefore c) ||
    (match c.segDest c.seg with
     | some d => (c.sectorsOf d.1 d.2).any (s.ownedBefore c)
     | none => false)
  | _, _ => false

/-- A copy under way that moves a segment in this clk. In a save it goes on to the next multiple of 128 bytes (R188). -/
def State.segReady (s : State) (c : Cmd) : Bool :=
  isCopy c.kind && c.started && s.goesOn c && (s.enginesGoOn c.ctx || s.awaited c || c.seg % 128 != 0) && decide (c.seg < c.segs) &&
  decide (c.due ≤ s.clk) && !s.segWaits c

/-- COPY_SEGMENT_ARRIVAL (R196 to R200). A command whose workgroup has been killed moves nothing. -/
def fireCopySegmentArrival (s : State) : Option State :=
  (s.cmds.find? s.segReady).map fun c =>
    match s.wg? c.wg, (s.wg? c.wg).bind (·.tiles[bTile c.block]?) with
    | some w, some x => s.moveSeg c w x c.seg
    | _, _ => (s.disown c.id fun _ => true).updCmd c.id fun c => { c with seg := c.segs, due := s.clk, out := [] }

def execCopySegmentArrival (s : State) : Host.Outcome State Fault Refusal := .next ((fireCopySegmentArrival s).getD s)

/-! COPY_FINISH (R192). -/

/-- What ORDAN waits for. -/
def State.ansDone (s : State) (c : Cmd) : Bool :=
  !(s.atoms.any fun a => c.ans.contains a.id) && !(s.channels.any fun h => h.queue.any fun a => c.ans.contains a.id)

/-- A copy's completion word, where it has one and has not written it, waits for its sector (R163, R212). -/
def State.wordWaits (s : State) (c : Cmd) : Bool :=
  isCopy c.kind && bCwe c.block && !c.cw &&
  (((c.pa (bCwaddr c.block)).map fun p => s.ownedBy c.die p.1 8 (some (.cmd c.id))).getD false || (bOrdan c.block && !s.ansDone c))

/-- A weight load's read of memory waits for the channels of its sectors and the links to them (R212, R374). -/
def State.loadWaits (s : State) (c : Cmd) : Bool :=
  c.kind == .wload && c.arg.2 == 0 && (c.sectorsOf (c.idx.headD 0) 65536).any (s.engHeld c)

/-- A command whose every write is performed; one that has written all its bytes finishes in a save too (R188). -/
def State.finishes (s : State) (c : Cmd) (total : Nat) : Bool :=
  c.started && s.goesOn c && (s.enginesGoOn c.ctx || s.awaited c || isCopy c.kind) && c.seg == total && decide (c.due ≤ s.clk) &&
  s.remoteDone c.wg c.tidx && !(s.ralpex.any (·.cmd == some c.id)) && !s.wordWaits c && !s.loadWaits c

/-- Steps of a command: segments of a copy, steps of a wave. -/
def Cmd.total (c : Cmd) : Nat :=
  match c.kind with
  | .hlutw => 1
  | .hlut => let n := field c.block 0x0B 1; if (field c.block 0x0C 1).testBit 1 then 2 * n else n
  | .hsum => 0
  | .wload => 0
  | _ => c.segs

/-- DONE counts the command (R192). -/
def State.doneCmd (s : State) (c : Cmd) : State :=
  ({ s with cmds := s.cmds.filter (·.id != c.id), owned := s.owned.filter fun o => o.2 != Owner.cmd c.id }).updCq c.ctx c.queue fun q =>
    { q with done := q.done + 1, prog := 0 }

/-- A thread that reads the completion word has observed the command (R192). -/
def State.noteWord (s : State) (c : Cmd) : State :=
  match c.pa (bCwaddr c.block) with
  | some p => { s with cwords := p.1 :: s.cwords }
  | none => s

/-- The completion word, then DONE once that is performed (R165, R192). -/
def State.finishCmd (s : State) (c : Cmd) : State :=
  if isCopy c.kind && bCwe c.block then
    let s := if c.cw then s else (s.engWrite c (bCwaddr c.block) (toBytes 8 (bCwval c.block))).noteWord c
    if s.ralpex.any (·.cmd == some c.id) then s.updCmd c.id fun c => { c with cw := true }
    else if s.remoteDone c.wg c.tidx then (if c.cw then s.noteWord c else s).doneCmd c
    else s.updCmd c.id fun c => { c with cw := true }
  else s.doneCmd c

/-- A tile's rows as bytes, without the trailer. -/
def State.engRows (s : State) (c : Cmd) (w : Workgroup) (x : Tile) : Except Bad (List Byte) :=
  s.engTile c w x ((List.range (descRows x.desc)).flatMap fun r => descOffs x.desc r 0 (descPitch x.desc))

/-- The bytes a weight load writes: 64 KiB of memory, or a tile's rows (R237). -/
def State.wloadBytes (s : State) (c : Cmd) : Except Bad (List Byte) :=
  if c.arg.2 = 0 then s.engRead c (c.idx.headD 0) 65536
  else match s.wg? c.wg with
    | none => .ok []
    | some w => match w.tiles[c.idx.headD 0]? with
      | none => .ok []
      | some x => s.engRows c w x

/-- Slab bytes written in either mode; a word that is written is clean again (R237, R367). -/
def Workgroup.slabWrite (w : Workgroup) (k : Nat) (bs : List Byte) : Workgroup :=
  { w with window := w.window.splice (65536 * k) bs
           poison := w.poison.filter fun p => !decide (65536 * k ≤ 4 * p ∧ 4 * p < 65536 * k + bs.length) }

/-- A weight load's slab write, its place in the slab's order given up, and the command finished (R237). -/
def State.finishWload (s : State) (c : Cmd) : State :=
  match s.wloadBytes c with
  | .error x => s.engPoison c x
  | .ok bs =>
    let s := match s.wg? c.wg, (s.wg? c.wg).bind (·.tiles[c.idx.headD 0]?) with
      | some w, some x => if c.arg.2 = 0 then s else
          let as := ((List.range (descRows x.desc)).flatMap fun r => descOffs x.desc r 0 (descPitch x.desc)).filterMap fun o =>
            (spotOf s w x o).winAddr
          (s.lsRecord w false (as.map (c.tidx, ·))).winTouch w as
      | _, _ => s
    let s := s.updWg c.wg fun w =>
      let w := w.slabWrite c.arg.1 bs
      { w with slabQ := w.slabQ.filter fun q => q.2 != .wload c.id }
    let s := if c.arg.2 = 0 then s else
      s.updTile c.wg (c.idx.headD 0) fun x => { x with st := if x.st = .draining then .empty else x.st }
    s.finishCmd c

/-- COPY_FINISH. -/
def fireCopyFinish (s : State) : Option State :=
  (s.cmds.find? fun c => c.kind != .hsum && s.finishes c c.total).map fun c =>
    if c.kind = .wload then s.finishWload c else s.finishCmd c

def execCopyFinish (s : State) : Host.Outcome State Fault Refusal := .next ((fireCopyFinish s).getD s)

end Sys2Proof.Machine
end

