-- ==== Sys2Proof/Machine/Hearth.lean ====
section
/-! DEFINITION. The start of commands (R185, R186), and the hearths: reductions (R205), look-up waves (R206 to R212) and their
status (R213). -/

namespace Sys2Proof.Machine

/-! Fields of the hearth blocks (R207). -/

def hPage (b : List Byte) : Nat := field b 0 8
def hStack (b : List Byte) : Nat := field b 8 1
def hChan (b : List Byte) : Nat := field b 9 1
def hRow (b : List Byte) : Nat := field b 0x0A 1
def hSteps (b : List Byte) : Nat := field b 0x0B 1
def hClr (b : List Byte) : Bool := (field b 0x0C 1).testBit 0
def hChk (b : List Byte) : Bool := (field b 0x0C 1).testBit 1

/-- The weight code of a block. -/
def hWcode (k : CmdKind) (b : List Byte) : Nat := if k = .hlutw then field b 0x0A 1 else field b 0x0D 1

/-- The channel of a block. -/
def hChannel (b : List Byte) : Nat := 32 * hStack b + hChan b

/-- Values of the fields in the order of their offsets. -/
def hearthFields (k : CmdKind) (b : List Byte) : Option Nat :=
  let head := [(decide (hStack b < 8), 8), (decide (hChan b < 32), 9)]
  if k = .hlutw then firstFail (head ++ [(zeroAt b 0x0C 20, 0x0C)])
  else
    let rows := if hChk b then 2 * hSteps b else hSteps b
    firstFail (head ++ [(decide (hRow b + rows ≤ 64), 0x0A), (decide (1 ≤ hSteps b ∧ hSteps b ≤ 8), 0x0B),
      (decide (field b 0x0C 1 < 4), 0x0C), (zeroAt b 0x0E 50, 0x0E)])

/-- The code that the channel's last HLUTW has, submitted or performed (R207, log entry 25). -/
def State.lastWcode (s : State) (ch : Nat) : Nat :=
  match (s.cmds.filter fun c => c.kind == .hlutw && hChannel c.block == ch).getLast? with
  | some c => hWcode .hlutw c.block
  | none => (s.channel ch).wcode

def hearthCodes (s : State) (k : CmdKind) (b : List Byte) : Bool :=
  [0x22, 0x14].contains (hWcode k b) &&
  (if k = .hlutw then [0x40, 0x26].contains (field b 0x0B 1) else hWcode k b == s.lastWcode (hChannel b))

/-- The hearth page: a 1 GiB leaf with H, R and W (R207). -/
def State.hearthPage (s : State) (w : Workgroup) (va : Nat) : Except Nat Nat :=
  match s.translate (some w.core) w.ctx w.secure .read va with
  | .error e => .error e
  | .ok l => match s.leafOf (some w.core) w.ctx va with
    | some (e, size) => if size = 2^30 ∧ l.h ∧ e.testBit 3 then .ok (ptePa e / 2^30 * 2^30) else .error PERMISSION
    | none => .error PAGEFAULT

def State.queueOn (s : State) (w : Workgroup) : Bool := (((s.ctx w.ctx).cqs[w.cq]?).map (·.enabled)).getD false

/-- The checks of a lane of HLUT or HLUTW after its block is read. The command holds the page as one of 1 GiB. -/
def hearthLane (s : State) (w : Workgroup) (k : CmdKind) (b : List Byte) : LaneCmd :=
  match hearthFields k b with
  | some o => .fault TILEBAD o
  | none =>
    if !hearthCodes s k b then .fault FMTBAD 0
    else match s.hearthPage w (hPage b) with
    | .error e => .fault e (hPage b % 2^48)
    | .ok base => if !s.queueOn w then .fault PERMISSION 0 else .go [] [(hPage b / 4096, base + 60)] 0 0 0

/-- HLUT and HLUTW: lanes in ascending home lane order (R190, R207). -/
def hearthInstr (g : Guard) (a : RegCode) (k : CmdKind) (s : State) : Host.Outcome State Fault Refusal :=
  s.issue fun c s =>
    let ts := byLane (active s c g)
    let addr := ts.map fun t => (t, reg64 s c a t)
    if s.counterFull c.wg ts .c || addr.any fun p => ((s.wg? c.wg).map fun w => laneWaits s w p.1 p.2.toNat).getD false then s.reissue c else
    addr.foldl (fun s p =>
      match s.wg? c.wg with
      | none => s
      | some w =>
        match laneBlock s w p.1 p.2.toNat with
        | .error e => s.raise c p.1 e.1 e.2
        | .ok (_, some pa) => s.lanePoison w p.1 pa p.2
        | .ok (b, none) =>
          match hearthLane s w k b with
          | .fault code x => s.raise c p.1 code x
          | .go _ pages _ _ _ => (s.noteTlb w.core w.ctx (hPage b)).submit (newCmd s w p.1 k b [] pages (0, 0) 0)
          | _ => s) s

/-- HLUT (R207, R209). -/
def execHlut (g : Guard) (a : RegCode) (s : State) : Host.Outcome State Fault Refusal := hearthInstr g a .hlut s

/-- HLUTW (R207, R208). -/
def execHlutw (g : Guard) (a : RegCode) (s : State) : Host.Outcome State Fault Refusal := hearthInstr g a .hlutw s

/-- HSUM (R213): a command for each lane; C falls when the status lands. -/
def execHsum (g : Guard) (f : BitVec 1) (d : RegCode) (a : Src) (s : State) : Host.Outcome State Fault Refusal :=
  s.issue fun c s =>
    match s.wg? c.wg with
    | none => s
    | some w =>
      let ts := byLane (active s c g)
      let ch := fun t => let x := (src s c a t).toNat; 32 * (x / 2^8 % 8) + x % 32
      if s.counterFull c.wg ts .c then s.reissue c
      else if !s.queueOn w then s.raiseAll c ts PERMISSION 0
      else (ts.map fun t => (t, ch t)).foldl (fun s p =>
        s.submit (newCmd s w p.1 .hsum (List.replicate 64 0) [p.2] [] (d.toNat, f.toNat) 0)) s

/-! COPY_COMMAND_START (R185, R186). -/

/-- Waves under way in a stack (R388). -/
def State.wavesOn (s : State) (stack : Nat) : Nat := (s.channels.filter fun h => h.num / 32 == stack && h.wave.isSome).length

/-- A wave's channel is free, a permit of its stack too, and an engine serves its queue. -/
def State.waveFree (s : State) (c : Cmd) : Bool :=
  let st := hStack c.block
  (s.channel (hChannel c.block)).wave.isNone && decide (s.wavesOn st < s.stackGrant.getD st 0) && decide (s.enginesBusy c.die < 4)

/-- What a command that heads its queue still waits for: a CPY with DIR 2 its thread's earlier window stores (R197), a
weight load its slab's order (R215), a wave its channel and a permit (R205, R388), a copy an engine (R185). -/
def State.startReady (s : State) (c : Cmd) : Bool :=
  match c.kind with
  | .hsum => false
  | .wload => decide (s.enginesBusy c.die < 4) &&
    (match s.wg? c.wg with
     | none => true
     | some w => (w.slabQ.find? fun q => q.1 == c.arg.1).map (·.2) == some (.wload c.id))
  | .hlutw => s.waveFree c
  | .hlut => s.waveFree c
  | _ => decide (s.enginesBusy c.die < 4) &&
    (!twoTiles c.kind c.block || ((s.thread? c.wg c.tidx).map fun th => !th.sq.any fun e => decide (e.seq < c.id)).getD true)

/-- A command takes its channel for a wave, from the step that poisoned data stopped it at (R194); CLR clears the accumulators it
addresses (R209). -/
def State.takeChannel (s : State) (c : Cmd) : State :=
  let h := s.channel (hChannel c.block)
  let h := { h with wave := some (c.id, c.seg) }
  s.putChannel (if c.kind = .hlut ∧ hClr c.block ∧ c.seg = 0 then { h with acc := h.acc.splice 0 (List.replicate (16384 * hSteps c.block) 0) } else h)

/-- The next command starts: HEAD counts it, once. -/
def State.startCmd (s : State) (c : Cmd) : State :=
  let s := s.tickFree
  let wave := c.kind == .hlut || c.kind == .hlutw
  let s := if wave then s.takeChannel c else s
  let due := if wave then s.clk + 240 else if c.kind = .wload then s.later + 511 else s.later
  (s.updCmd c.id fun c => { c with started := true, due := due }).updCq c.ctx c.queue fun q =>
    { q with head := if q.head = c.num then q.head + 1 else q.head }

/-- The place of a command's queue in a die's round: the queue after the one served last comes first (R185). -/
def State.roundOf (s : State) (c : Cmd) : Nat :=
  (16 * c.ctx + c.queue + 1023 - (s.cqNext.lookup c.die).getD 1023) % 1024

/-- Round-robin among the queues that have pending commands, die by die (R185). -/
def State.startBefore (s : State) (x y : Cmd) : Bool :=
  if x.die ≠ y.die then decide (x.die < y.die) else decide (s.roundOf x < s.roundOf y)

def fireCopyCommandStart (s : State) : Option State :=
  (bestOf s.startBefore (s.cmds.filter fun c => !c.started && s.atHead c && s.startReady c)).map fun c =>
    let s := s.startCmd c
    { s with cqNext := (c.die, 16 * c.ctx + c.queue) :: s.cqNext.filter (·.1 != c.die) }

def execCopyCommandStart (s : State) : Host.Outcome State Fault Refusal := .next ((fireCopyCommandStart s).getD s)

/-! HLUT_WAVE_STEP. -/

/-- dec of a 4-bit weight: BFP4 as an integer, E2M1 times 2 (R208). -/
def hDec (wcode n : Nat) : Int :=
  if wcode = 0x22 then toInt 4 n
  else
    let m : Int := ([0, 1, 2, 3, 4, 6, 8, 12].getD (n % 8) 0 : Nat)
    if n % 16 ≥ 8 then -m else m

/-- The 32 tables of 16 entries of 2 bytes (R208). -/
def hTables (wcode : Nat) (acts : List Byte) : List Byte :=
  (List.range 32).flatMap fun k => (List.range 16).flatMap fun j =>
    toBytes 2 (ofInt 16 (hDec wcode j * toInt 8 (acts.getD k 0).toNat))

/-- The address of byte `y` of row offset `r` of a bank (R206). -/
def rowAddr (base stack chan r b y : Nat) : Nat :=
  base + r * 2^24 + b * 2^18 + y / 128 * 2^15 + (stack ^^^ (b / 8 % 8)) * 2^12 + chan * 2^7 + y % 128

/-- A row of a bank, its eight sectors each read once; a poisoned sector's address (R209). -/
def State.rowRead (s : State) (base stack chan r b : Nat) : Except Nat (List Byte) :=
  let ps := (List.range 8).map fun i => rowAddr base stack chan r b (128 * i)
  match ps.find? fun p => s.poisoned p 128 with
  | some p => .error p
  | none => .ok (ps.flatMap fun p => s.mem.run p 128)

/-- The contribution of a row to each of a bank's 64 outputs: 32 weights each (R209). -/
def rowSums (table row : List Byte) : List Int :=
  (List.range 64).map fun o => ((row.drop (16 * o)).take 16).zipIdx.foldl (fun (x : Int) p =>
    let n := p.1.toNat
    let t := fun k n => toInt 16 (field table (32 * k + 2 * n) 2)
    x + t (2 * p.2) (n % 16) + t (2 * p.2 + 1) (n / 16)) 0

/-- All banks of a step: their rows, or the address of a poisoned sector. -/
def State.stepRows (s : State) (base stack chan r : Nat) : Except Nat (List (List Byte)) :=
  (List.range 64).foldl (fun (x : Except Nat (List (List Byte))) b =>
    match x, s.rowRead base stack chan r b with
    | .ok l, .ok row => .ok (l ++ [row])
    | .error e, _ => .error e
    | _, .error e => .error e) (.ok [])

/-- Accumulators of a step, with the sums added modulo 2^32. -/
def addAcc (acc : Mem) (step : Nat) (sums : List Int) : Mem :=
  let old := acc.run (16384 * step) 16384
  acc.splice (16384 * step) (sums.zipIdx.flatMap fun x => toBytes 4 (ofInt 32 (toInt 32 (field old (4 * x.2) 4) + x.1)))

/-- The check of one bank and step (R211). -/
def checkBank (h : Channel) (sums : List Int) (row : List Byte) : Bool :=
  sums.foldl (· + ·) 0 ==
    (List.range 32).foldl (fun (x : Int) k => x + toInt 8 (h.acts.getD k 0).toNat * toInt 16 (field row (2 * k) 2)) 0

/-- The outcome of one check in the channel's status, with the record of a failure (R211, R361). -/
def State.noteCheck (s : State) (c : Cmd) (step b : Nat) (ok : Bool) : State :=
  let h := s.channel (hChannel c.block)
  if ok then s.putChannel { h with pass := min (h.pass + 1) 0xFFFF }
  else
    let s := s.putChannel (if h.fail then h else { h with fail := true, fstep := step, fbank := b })
    let core := ((s.wg? c.wg).map (·.core)).getD 0x3FF
    s.recordErr (64 + hStack c.block / 2)
      { ue := true, unit := 0x0C, core := core, ctx := some c.ctx,
        w3 := hStack c.block + hChan c.block * 2^8 + b * 2^16 + step * 2^24 }

/-- The checks of a step's banks: what the weight step contributed against the checksum rows (R211). -/
def State.checkStep (s : State) (c : Cmd) (step : Nat) (checks : List (List Byte)) : State :=
  let h := s.channel (hChannel c.block)
  ((h.sums.zip checks).zipIdx).foldl (fun s p => s.noteCheck c step p.2 (checkBank h p.1.1 p.1.2)) s

/-- A wave's row held poisoned data: the queue halts, and the wave goes on from its step once the queue runs again (R194, R348). That of a
workgroup of a CONTAIN launch, which is killed, is over (R358). -/
def State.wavePoison (s : State) (c : Cmd) (pa : Nat) : State :=
  let killed := ((s.wg? c.wg).map (·.contain.isSome)).getD false
  let s := (s.engPoison c (.mem pa)).updCmd c.id fun c =>
    if killed then { c with seg := c.total, due := s.clk } else { c with started := false }
  s.putChannel { s.channel (hChannel c.block) with wave := none }

/-- One step of an HLUT: a weight step, which reads each row once, and with CHK a checksum step after it (R209, R211). -/
def State.hlutStep (s : State) (c : Cmd) (k : Nat) : State :=
  let b := c.block
  let h := s.channel (hChannel b)
  let base := (c.xlate.head?.map fun x => x.2 / 4096 * 4096).getD 0
  let step := if hChk b then k / 2 else k
  if hChk b ∧ k % 2 = 1 then
    match s.stepRows base (hStack b) (hChan b) (hRow b + hSteps b + step) with
    | .error pa => s.wavePoison c pa
    | .ok cs => s.checkStep c step cs
  else
    match s.stepRows base (hStack b) (hChan b) (hRow b + step) with
    | .error pa => s.wavePoison c pa
    | .ok ws =>
      let sums := ws.map (rowSums h.table)
      s.putChannel { h with acc := addAcc h.acc step sums.flatten, sums := sums }

/-- The step of a wave that is due: HLUTW's one step writes the tables. -/
def State.waveStep (s : State) (c : Cmd) (k : Nat) : State :=
  let ch := hChannel c.block
  let s := if c.kind = .hlutw then
      s.putChannel { s.channel ch with
        wcode := hWcode .hlutw c.block, acts := c.block.drop 0x20, table := hTables (hWcode .hlutw c.block) (c.block.drop 0x20) }
    else s.hlutStep c k
  let h := s.channel ch
  if h.wave.isNone then s else
  let s := s.tickFree
  let last := decide (k + 1 = c.total)
  (s.putChannel { h with
    wave := if last then none else some (c.id, k + 1)
    refresh := min 8 (h.refresh + Config.choice s.fresh % 2) }).updCmd c.id fun c =>
      { c with seg := k + 1, due := if last then s.clk else s.clk + 240 }

/-- A wave whose next step is due, and its channel. -/
def State.waveDue (s : State) (c : Cmd) : Option Channel :=
  let h := s.channel (hChannel c.block)
  match h.wave with
  | some (id, _) => if id = c.id ∧ c.started ∧ c.due ≤ s.clk then some h else none
  | none => none

/-- HLUT_WAVE_STEP (R208, R209, R211). Waves run on while their context is saved (R329). -/
def fireHlutWaveStep (s : State) : Option State :=
  (s.cmds.find? fun c => ((s.waveDue c).map fun h => decide (h.refresh < 8)).getD false).map fun c => s.waveStep c c.seg

def execHlutWaveStep (s : State) : Host.Outcome State Fault Refusal := .next ((fireHlutWaveStep s).getD s)

/-- HEARTH_REFRESH (R212): before a step at 8 postponed refreshes, or while no wave holds the channel, it refreshes until
the count is 0. A wave that was split goes on afterwards. -/
def State.refreshes (s : State) (h : Channel) : Bool :=
  match h.wave with
  | none => decide (0 < h.refresh)
  | some (id, _) => decide (8 ≤ h.refresh) && s.cmds.any fun c => c.id == id && decide (c.due ≤ s.clk)

def fireHearthRefresh (s : State) : Option State :=
  (s.channels.find? s.refreshes).map fun h =>
    let s := s.tickFree
    let s := s.putChannel { h with refresh := 0 }
    match h.wave with
    | some (id, _) => s.updCmd id fun c => { c with due := s.later }
    | none => s

def execHearthRefresh (s : State) : Host.Outcome State Fault Refusal := .next ((fireHearthRefresh s).getD s)

/-! HSUM_SAMPLE (R213). -/

/-- The status word. -/
def Channel.status (h : Channel) : Word :=
  BitVec.ofNat 32 ((if h.fail then 2^31 else 0) + (if h.wave.isSome then 2^30 else 0) + h.fstep * 2^24 + h.fbank * 2^18 + h.pass)

def Channel.cleared (h : Channel) : Channel := { h with fail := false, fstep := 0, fbank := 0, pass := 0 }

def State.sampleHsum (s : State) (c : Cmd) : State :=
  let s := s.tickFree
  let h := s.channel (c.idx.headD 0)
  let v := h.status
  let s := s.updCq c.ctx c.queue fun q => { q with head := q.head + 1, done := q.done + 1 }
  let s := { s with cmds := s.cmds.filter (·.id != c.id) }
  let s := if c.arg.2 = 1 then s.putChannel h.cleared else s
  if (s.wg? c.wg).isNone then s else
  s.addPend (1 + Config.latency s.fresh) { Pend.none_ c.wg [c.tidx] with seq := c.id, ctr := some .c, regs := regWrites [c.tidx] c.arg.1 (fun _ => v) noImg }

/-- HSUM_SAMPLE. -/
def fireHsumSample (s : State) : Option State := (s.cmds.find? fun c => c.kind == .hsum && s.atHead c).map s.sampleHsum

def execHsumSample (s : State) : Host.Outcome State Fault Refusal := .next ((fireHsumSample s).getD s)

/-! Reductions (R205). -/

/-- A reduction that its channel can accept: nobody but hearth updates owns its sector. A wave does not hold it back (R205). -/
def State.redAcceptable (s : State) (a : AtomOp) : Bool :=
  atomPlace a.fields == 1 && decide (a.due ≤ s.clk) && decide ((s.channel (channelOf a.pa)).queue.length < 64) &&
  !(s.owned.any fun o => o.1 == sectorOf a.pa && match o.2 with
    | .hearth _ => false
    | _ => true) &&
  !(s.atoms.any fun b => decide (b.id < a.id) && b.wg == a.wg && b.tidx == a.tidx && sectorOf b.pa == sectorOf a.pa)

/-- The core's own copy is written back before an update in the base die. A reduction with no route to it is dropped (R375). -/
def State.acceptRed (s : State) (a : AtomOp) : State :=
  let s := s.tickFree
  let s := match s.wg? a.wg with
    | some w => s.l1Drop w.core (sectorOf a.pa)
    | none => s
  if !((s.wg? a.wg).map fun w => s.routed (dieOf w.core) (homeDie a.pa)).getD true then
    { s with atoms := s.atoms.filter (·.id != a.id) }.countDown a.wg [a.tidx] .a a.id
  else
  let h := s.channel (channelOf a.pa)
  ({ s with atoms := s.atoms.filter (·.id != a.id), owned := s.owned ++ [(sectorOf a.pa, Owner.hearth a.id)] }.putChannel
    { h with queue := h.queue ++ [{ a with due := s.later }] }).countDown a.wg [a.tidx] .a a.id

/-- HEARTH_RED_ACCEPT. A reduction does not leave the package (R387). -/
def fireHearthRedAccept (s : State) : Option State := (s.atoms.find? s.redAcceptable).map s.acceptRed

def execHearthRedAccept (s : State) : Host.Outcome State Fault Refusal := .next ((fireHearthRedAccept s).getD s)

/-- The update at the head of a channel's queue whose time has come and which no wave holds back. -/
def Channel.applicable (clk : Nat) (h : Channel) : Bool :=
  h.wave.isNone && match h.queue with
    | a :: _ => decide (a.due ≤ clk)
    | [] => false

/-- HEARTH_RED_APPLY: poisoned data is left as it is, with its record. -/
def fireHearthRedApply (s : State) : Option State :=
  match s.channels.find? (Channel.applicable s.clk) with
  | none => none
  | some h => match h.queue with
    | [] => none
    | a :: r =>
      let s := { s with owned := s.owned.filter fun o => !(o.2 == Owner.hearth a.id) }.putChannel { h with queue := r }
      let n := atomSize a.fields
      let ctx := ((s.wg? a.wg).map (·.ctx)).getD 0
      if s.remote a.pa then some (s.unreachable ctx a.pa)
      else if s.poisoned a.pa n then some (s.recordDev ctx a.pa)
      else some (s.mirrorWrite a.wg a.tidx a.pa a.mi (toBytes n (a.newValue (leNat (s.pkgRead a.pa n)))))

def execHearthRedApply (s : State) : Host.Outcome State Fault Refusal := .next ((fireHearthRedApply s).getD s)

end Sys2Proof.Machine
end

