-- ==== Sys2Proof/Machine/Anvil.lean ====
section
/-! DEFINITION. Anvil slabs and the crucible (R214 to R246): slab order, weight images, operations and their permit groups,
leases, crucible banks and the column port. -/

namespace Sys2Proof.Machine

/-! Formats (R216). -/

/-- Container width in bits; 4 for a code that is no anvil format. -/
def anvWidth (code : Nat) : Nat := if (0x23 ≤ code ∧ code ≤ 0x26) ∨ code = 0x12 then 8 else 4

def anvFormat (code : Nat) : Bool := decide ((0x20 ≤ code ∧ code ≤ 0x26) ∨ code = 0x14 ∨ code = 0x12)

/-- Fraction shift. -/
def anvShift (code : Nat) : Nat :=
  match bfpOf code with
  | some n => n - 2
  | none => if code = 0x14 then 1 else 3

/-- Planes as an activation. -/
def anvPlanes (code : Nat) : Nat :=
  match bfpOf code with
  | some n => n
  | none => if code = 0x14 then 5 else 7

/-- The decoded multiplier. -/
def anvDec (code x : Nat) : Int :=
  match bfpOf code, fmtOf code with
  | some n, _ => toInt n x
  | none, some f => match f.decode (x % 2^f.w) with
    | .num neg m e _ => let v : Int := (m * 2^(e + (anvShift code : Int)).toNat : Nat); if neg then -v else v
    | _ => 0
  | none, none => 0

/-- Element `k` of bytes in containers of `width` bits. -/
def container (width : Nat) (bs : List Nat) (k : Nat) : Nat :=
  if width = 8 then bs.getD k 0 else bs.getD (k / 2) 0 / 16^(k % 2) % 16

/-- The byte of a row that holds element `k`. -/
def containerByte (width k : Nat) : Nat := if width = 8 then k else k / 2

/-! Slab order (R215). -/

def Workgroup.updSlab (w : Workgroup) (k : Nat) (f : Slab → Slab) : Workgroup := { w with slabs := w.slabs.modify k f }

/-- An entry of a slab's order, at its end. -/
def State.enterSlab (s : State) (u k : Nat) (a : SlabAct) : State := s.updWg u fun w => { w with slabQ := w.slabQ ++ [(k, a)] }

/-- The operation whose turn it is on a slab. -/
def Workgroup.slabHead (w : Workgroup) (k : Nat) : Option SlabAct := (w.slabQ.find? (·.1 == k)).map (·.2)

def Workgroup.dropHead (w : Workgroup) (k : Nat) : Workgroup :=
  match w.slabHead k with
  | some a => { w with slabQ := w.slabQ.erase (k, a) }
  | none => w

/-- A slab's bytes, row `n` of 256. -/
def Workgroup.slabRow (w : Workgroup) (k n : Nat) : List Nat := (w.window.run (65536 * k + 256 * n) 256).map (·.toNat)

/-- Blocks of 8 by 8 along k. -/
def mapCols (width : Nat) : Nat := if width = 8 then 32 else 64

/-- The map that WBMAP fn 1 makes: a 1 for every block all of whose weights decode to 0 (R218, R238). In an 8-bit format the bytes from 128
on, which hold no bit of R218, become 0: the model's choice (log entry 63). -/
def Workgroup.scanMap (w : Workgroup) (k elem : Nat) : Mem :=
  let width := anvWidth elem
  let cols := mapCols width
  let zero := fun i => (List.range 8).all fun r =>
    let row := w.slabRow k (8 * (i / cols) + r)
    (List.range 8).all fun q => anvDec elem (container width row (8 * (i % cols) + q)) == 0
  Mem.ofBytes ((List.range (4 * cols)).map fun b => BitVec.ofNat 8 (sumNat ((List.range 8).map fun j => if zero (8 * b + j) then 2^j else 0)))

/-- Bytes of that map whose blocks hold a poisoned word of the slab (R229). -/
def Workgroup.scanBad (w : Workgroup) (k elem : Nat) : List Nat :=
  let width := anvWidth elem
  ((w.poison.filter fun p => decide (16384 * k ≤ p ∧ p < 16384 * (k + 1))).flatMap fun p =>
    let o := 4 * p - 65536 * k
    (List.range 4).map fun j => (mapCols width * (o / 256 / 8) + (if width = 8 then o % 256 + j else 2 * (o % 256 + j)) / 8) / 8).eraseDups

/-- A slab's map, or its scales, with the bytes that are uncorrectable (R229). -/
def Slab.setMap (x : Slab) (m : Mem) (bad : List Nat) : Slab := { x with map := m, bad := x.bad.filter (· < 2048) ++ bad.map (2048 + ·) }

def Slab.setScales (x : Slab) (m : Mem) (bad : List Nat) : Slab := { x with scales := m, bad := x.bad.filter (2048 ≤ ·) ++ bad }

/-- What the operation at the head of a slab's order does there, where it can act now; loads and anvil operations act by
their own events. -/
def Workgroup.slabAct (w : Workgroup) (k : Nat) : Option Workgroup :=
  match w.slabHead k with
  | some (.mode a ts) =>
    if ts.any fun t => ((w.threads[t]?).map fun th => !th.sq.isEmpty).getD false then none
    else some ((w.updSlab k fun x => { x with anvil := a }).dropHead k)
  | some (.mapLoad bs bad) => some ((w.updSlab k (·.setMap (Mem.ofBytes bs) bad)).dropHead k)
  | some (.mapScan elem) => some ((w.updSlab k (·.setMap (w.scanMap k elem) (w.scanBad k elem))).dropHead k)
  | some (.scaleLoad bs bad) => some ((w.updSlab k (·.setScales (Mem.ofBytes bs) bad)).dropHead k)
  | some (.scaleFill b) => some ((w.updSlab k (·.setScales (Mem.ofBytes (List.replicate 2048 b)) [])).dropHead k)
  | _ => none

/-- Every slab's order as far as it goes. -/
def Workgroup.settleSlabs (w : Workgroup) : Workgroup :=
  w.slabQ.foldl (fun w q => (w.slabAct q.1).getD w) w

def State.settleSlabs (s : State) : State :=
  if s.wgs.any fun w => !w.slabQ.isEmpty then { s with wgs := s.wgs.map Workgroup.settleSlabs } else s

/-- The bundle issues nothing more for `n` clk. -/
def State.holdBundle (s : State) (c : Issue) (n : Nat) : State :=
  (s.updBundle c.bundle fun b => { b with notBefore := s.clk + n }).updThreads c.wg c.tids fun _ th => { th with notBefore := s.clk + n }

/-! SLABM, WLOAD, WBMAP, WSCALE, ELECT. -/

/-- A tile that has a byte in a slab (R236). -/
def Tile.inSlab (x : Tile) (k : Nat) : Bool :=
  x.st != .free && decide (descBase x.desc < 65536 * (k + 1)) && decide (65536 * k < descBase x.desc + descBytes x.desc + 4)

/-- SLABM (R236). -/
def execSlabm (g : Guard) (f : BitVec 1) (k : BitVec 4) (s : State) : Host.Outcome State Fault Refusal :=
  s.issue fun c s =>
    match s.wg? c.wg with
    | none => s
    | some w =>
      let ts := active s c g
      if ts.isEmpty then s
      else if w.slabs.length ≤ k.toNat ∨ (f = 1 ∧ w.tiles.any fun x => x.inSlab k.toNat) then s.raiseAll c ts TILEBAD k.toNat
      else s.enterSlab c.wg k.toNat (.mode (f == 1) ts)

/-- The source of a WLOAD: a fault (code, address), a park, or its held pages. -/
def wloadSource (s : State) (w : Workgroup) (t f x : Nat) : LaneCmd :=
  if f = 0 then
    if x % 128 ≠ 0 then .fault ALIGN (x % 2^48)
    else
      let h := s.holdPages w [(x, 65536, false)]
      match lowestFault h.1 with
      | some e => .fault e.1 e.2
      | none => .go [x] h.2 0 0 0
  else
    let n := x % 64
    match w.tiles[n]? with
    | none => .fault TILEBAD n
    | some y =>
      if y.st = .free ∨ w.foreignTile t y then .fault TILEBAD n
      else if y.st ≠ .ready ∨ s.mergeHolds w.uid n then .park (.empty n)
      else if y.view.isSome ∨ 65536 < descBytes y.desc then .fault TILEBAD n
      else .go [n] [] 0 0 0

/-- WLOAD (R237): one command, of the elected thread; every active thread counts it. A tile that is not READY parks before any
other check (R190). TRAPADDR of a slab at or above SLABS is the slab's number, as in R236: the rule names none, and it is the model's
choice (log entry 30). -/
def execWload (g : Guard) (f : BitVec 1) (a : Src) (k : BitVec 4) (s : State) : Host.Outcome State Fault Refusal :=
  s.issue fun c s =>
    match s.wg? c.wg with
    | none => s
    | some w =>
      let ts := active s c g
      let e := elect ts
      let x := if f = 0 then (src64 s c a e).toNat else (src s c a e).toNat
      if ts.isEmpty then s
      else if s.counterFull c.wg ts .c then s.reissue c
      else match wloadSource s w e f.toNat x with
        | .park p => ts.foldl (fun s t => s.park c.wg t p) s
        | .fault code addr =>
          if w.slabs.length ≤ k.toNat then s.raiseAll c ts TILEBAD k.toNat else s.raiseAll c ts code addr
        | .poisoned _ => s
        | .badWord _ => s
        | .go idx pages _ _ _ =>
          if w.slabs.length ≤ k.toNat then s.raiseAll c ts TILEBAD k.toNat
          else if !s.queueOn w then s.raiseAll c ts PERMISSION 0
          else
            let id := s.nextId
            let s := s.submit { newCmd s w e .wload (List.replicate 64 0) idx pages (k.toNat, f.toNat) 0 with tids := ts }
            let s := s.enterSlab c.wg k.toNat (.wload id)
            if f = 0 then s
            else (s.seesReady c.wg idx).updTile c.wg (idx.headD 0) fun x => { x with st := .draining }

/-- Poisoned words among what WBMAP or WSCALE reads of the window: the record. The bad bytes go into the map or side store, where an operation
finds them (R229, R348); of a workgroup that contains or undoes them, it is consumed here (log entry 62). -/
def State.sidePoison (s : State) (w : Workgroup) (t : Nat) (addrs : List Nat) : State :=
  match w.poisonAt addrs with
  | none => s
  | some a =>
    let s := s.recordLocalPoison w a
    if w.contain.isSome || w.copied then s.consume w.uid t (BitVec.ofNat 64 a) else s

/-- The local read of WBMAP and WSCALE fn 0, made at issue (R238). -/
def sideLoad (s : State) (c : Issue) (w : Workgroup) (ts : List Nat) (addr n wait k : Nat) (act : List Byte → List Nat → SlabAct) : State :=
  if addr % 16 ≠ 0 then s.raiseAll c ts ALIGN addr
  else if ts.any fun t => ((w.threads[t]?).map fun th => !th.sq.isEmpty).getD false then s.reissue c
  else
    let addrs := (List.range n).map (addr + ·)
    let r := s.localRead c.wg (elect ts) addrs
    let bad := (List.range n).filter fun i => (w.poisonAt [addr + i]).isSome
    (((r.2.enterSlab c.wg k (act r.1 bad))).holdBundle c wait).sidePoison w (elect ts) addrs

/-- WBMAP (R238): of its two faults FMTBAD has the lower code (R31). TRAPADDR of a slab at or above SLABS is the slab's number, of WSCALE
too: the model's choice (log entry 30). -/
def execWbmap (g : Guard) (f : BitVec 1) (a : Src) (k : BitVec 4) (s : State) : Host.Outcome State Fault Refusal :=
  s.issue fun c s =>
    match s.wg? c.wg with
    | none => s
    | some w =>
      let ts := active s c g
      let x := (src s c a (elect ts)).toNat
      let sl := slotOf s c (x % 8)
      if ts.isEmpty then s
      else if f = 1 ∧ (!anvFormat (slotElem sl) || !slotResOk sl) then s.raiseAll c ts FMTBAD 0
      else if w.slabs.length ≤ k.toNat then s.raiseAll c ts TILEBAD k.toNat
      else if f = 0 then sideLoad s c w ts x 256 2 k.toNat .mapLoad
      else s.enterSlab c.wg k.toNat (.mapScan (slotElem sl))

/-- WSCALE (R238). -/
def execWscale (g : Guard) (f : BitVec 1) (a : Src) (k : BitVec 4) (s : State) : Host.Outcome State Fault Refusal :=
  s.issue fun c s =>
    match s.wg? c.wg with
    | none => s
    | some w =>
      let ts := active s c g
      let x := (src s c a (elect ts)).toNat
      if ts.isEmpty then s
      else if w.slabs.length ≤ k.toNat then s.raiseAll c ts TILEBAD k.toNat
      else if f = 0 then sideLoad s c w ts x 2048 16 k.toNat .scaleLoad
      else s.enterSlab c.wg k.toNat (.scaleFill (BitVec.ofNat 8 x))

/-- ELECT (R239). -/
def execElect (g : Guard) (d : PredCode) (s : State) : Host.Outcome State Fault Refusal :=
  s.issue fun c s => opPred 4 g d (fun t => t == elect (active s c g)) c s

/-! Crucible entries by flat number (R222, R232). -/

/-- Runs of entries: first flat number and length. -/
abbrev Runs := List (Nat × Nat)

def runsOverlap (x y : Runs) : Bool := x.any fun p => y.any fun q => decide (p.1 < q.1 + q.2) && decide (q.1 < p.1 + p.2)

/-- Bank names a run touches. -/
def runNames (r : Nat × Nat) : List Nat := if r.2 = 0 then [] else (List.range ((r.1 + r.2 - 1) / 4096 - r.1 / 4096 + 1)).map (r.1 / 4096 + ·)

def Workgroup.holdsRuns (w : Workgroup) (rs : Runs) : Bool :=
  rs.all fun r => (runNames r).all fun n => ((w.cr[n]?).map (·.held)).getD false

/-- Rows of a C matrix: `m` rows of `n` elements of `w` entries (R250, R256). -/
def matrixRuns (f0 m n cld w : Nat) : Runs := (List.range m).map fun i => (f0 + w * i * cld, w * n)

/-- The entries an operation uses (R222, R250, R256). -/
def MatOp.runs (o : MatOp) : Runs :=
  let b := o.blk
  let wide := ((o.maps.headD 0).toNat / 2^9 % 8) == 0
  match o.kind with
  | .amv _ => (List.range (field b 0x0E 1)).map fun v =>
      (4096 * field b 0x11 1 + field b 0x12 2 + v * field b 0x14 2, field b 2 2)
  | .nzscan => []
  | .epi => matrixRuns (4096 * field b 0 1 + field b 2 2) (field b 4 2) (field b 6 2) (field b 8 2) (if field b 1 1 = 1 then 2 else 1)
  | _ => matrixRuns (4096 * field b 6 1 + field b 8 2) (field b 2 1) (field b 3 1) (field b 0x0A 2) (if wide then 2 else 1)

/-- The bank an operation means by a name: one freed since it was accepted, or the name's own (R243). -/
def State.opBank (s : State) (o : MatOp) (n : Nat) : CrBank :=
  match s.crBusy.find? fun f => f.wg == o.wg && f.name == n && f.ops.contains o.id with
  | some f => f.bank
  | none => (((s.wg? o.wg).bind (·.cr[n]?))).getD .free

def State.updOpBank (s : State) (o : MatOp) (n : Nat) (f : CrBank → CrBank) : State :=
  if s.crBusy.any fun x => x.wg == o.wg && x.name == n && x.ops.contains o.id then
    { s with crBusy := s.crBusy.map fun x =>
        if x.wg = o.wg ∧ x.name = n ∧ x.ops.contains o.id then { x with bank := f x.bank } else x }
  else s.updWg o.wg fun w => { w with cr := w.cr.modify n f }

def CrBank.entry (b : CrBank) (e : Nat) : Nat := b.data.readNat (4 * e) 4

def CrBank.put (b : CrBank) (e x : Nat) : CrBank :=
  { b with data := b.data.write (4 * e) (toBytes 4 x), bad := b.bad.filter (· != e) }

def State.crEntry (s : State) (o : MatOp) (f : Nat) : Nat := (s.opBank o (f / 4096)).entry (f % 4096)

/-- An entry holds uncorrectable data. -/
def State.entryBad (s : State) (o : MatOp) (f : Nat) : Bool := (s.opBank o (f / 4096)).bad.contains (f % 4096)

def State.putEntry (s : State) (o : MatOp) (f x : Nat) : State := s.updOpBank o (f / 4096) (·.put (f % 4096) x)

/-! Leases (R230, R231, R246). -/

def State.engine (s : State) (core eng : Nat) : Engine :=
  (s.engines.find? fun e => e.core == core && e.eng == eng).getD ⟨core, eng, none, 15⟩

def State.putEngine (s : State) (e : Engine) : State :=
  { s with engines := e :: s.engines.filter fun x => !(x.core == e.core && x.eng == e.eng) }

def Workgroup.lease (w : Workgroup) (eng : Nat) : Lease := w.leases.getD eng .none

def Workgroup.setLease (w : Workgroup) (eng : Nat) (l : Lease) : Workgroup := { w with leases := w.leases.set eng l }

/-- What the lease check of a submission finds (R230). -/
inductive LeaseFate where
  | lost
  /-- it waits, and asks for a lease where it has not asked yet -/
  | wait (n : Option Nat)
  | go
  deriving DecidableEq, Repr

def State.leaseFate (s : State) (w : Workgroup) (eng : Nat) : LeaseFate :=
  let asked := s.leaseReqs.any fun r => r.wg == w.uid && r.eng == eng
  match w.lease eng with
  | .none => .lost
  | .held r n => if (s.engine w.core eng).owner = some w.uid then .go else .wait (if asked then none else some (max r (min r n)))
  | .spent n => .wait (if asked then none else some n)

/-- A submission waits for its lease: it asks for one, or joins the request of its workgroup, and issues again. -/
def State.leaseWait (s : State) (w : Workgroup) (t eng : Nat) (n : Option Nat) : State :=
  let s := match n with
    | some n => { s with leaseReqs := s.leaseReqs ++ [(⟨w.core, eng, w.uid, n, [t]⟩ : LeaseReq)] }
    | none =>
      match s.leaseReqs.findIdx? fun r : LeaseReq => r.wg == w.uid && r.eng == eng with
      | some i => { s with leaseReqs := s.leaseReqs.modify i fun r : LeaseReq => { r with tids := r.tids ++ [t] } }
      | none => s
  (s.block w.uid t (.lease eng) none).updThread w.uid t Thread.rewind

/-- A submission takes 1 from a held lease; the last frees the engine. -/
def State.takeLease (s : State) (w : Workgroup) (eng : Nat) : State :=
  match w.lease eng with
  | .held r n =>
    if r ≤ 1 then (s.updWg w.uid (·.setLease eng (.spent n))).putEngine { s.engine w.core eng with owner := none }
    else s.updWg w.uid (·.setLease eng (.held (r - 1) n))
  | _ => s

/-- LEASE (R246). -/
def execLease (g : Guard) (a : Src) (k : BitVec 2) (s : State) : Host.Outcome State Fault Refusal :=
  s.issue fun c s =>
    match s.wg? c.wg with
    | none => s
    | some w =>
      let ts := active s c g
      let n := (src s c a (elect ts)).toNat
      if ts.isEmpty then s
      else if n = 0 ∨ 256 < n then s.raiseAll c ts ILLOP 0
      else match w.lease k.toNat with
        | .held _ _ => s.updWg c.wg (·.setLease k.toNat (.held n n))
        | _ =>
          let s := { s with leaseReqs := s.leaseReqs ++ [⟨w.core, k.toNat, w.uid, n, ts⟩] }
          ts.foldl (fun s t => s.block c.wg t (.lease k.toNat) none) s

/-- UNLEASE (R246). -/
def execUnlease (g : Guard) (k : BitVec 2) (s : State) : Host.Outcome State Fault Refusal :=
  s.issue fun c s =>
    match s.wg? c.wg with
    | none => s
    | some w =>
      if (active s c g).isEmpty then s else
      let s := s.updWg c.wg (·.setLease k.toNat .none)
      let e := s.engine w.core k.toNat
      let s := if e.owner = some c.wg then s.putEngine { e with owner := none } else s
      { s with leaseReqs := s.leaseReqs.filter fun r => !(r.wg == c.wg && r.eng == k.toNat && r.tids.isEmpty) }

/-- The threads of a request that still wait for it. -/
def State.leaseTids (s : State) (r : LeaseReq) : List Nat :=
  r.tids.filter fun t => ((s.thread? r.wg t).map fun th => th.st == .blocked (.lease r.eng)).getD false

/-- Requests that nobody waits for any longer are withdrawn (R329, R334); one made by a resume stands while its lease is
HELD. -/
def State.settleLeases (s : State) : State :=
  { s with leaseReqs := (s.leaseReqs.map fun r => { r with tids := s.leaseTids r }).filter fun r =>
      !r.tids.isEmpty || match (s.wg? r.wg).map (fun w : Workgroup => w.lease r.eng) with
        | some (Lease.held _ _) => true
        | _ => false }

/-- A request of a free engine whose turn it is: round-robin by slot, after the last holder; arrival order within a
workgroup (R231). -/
def State.leaseNext (s : State) (r : LeaseReq) : Bool :=
  let e := s.engine r.core r.eng
  let dist := fun (q : LeaseReq) => ((((s.wg? q.wg).map (·.slot)).getD 0) + 31 - e.lastSlot) % 16
  e.owner.isNone && ((s.wg? r.wg).map fun w => s.wgRuns w && w.core == r.core).getD false &&
  s.leaseReqs.all fun q => q.core != r.core || q.eng != r.eng || !((s.wg? q.wg).map s.wgRuns).getD false || decide (dist r ≤ dist q)

/-- LEASE_GRANT (R231): a lease that is HELD since before a save, or was set anew meanwhile (R246), stays as it is. -/
def fireLeaseGrant (s : State) : Option State :=
  match s.leaseReqs.find? s.leaseNext with
  | none => none
  | some r =>
    let slot := ((s.wg? r.wg).map (·.slot)).getD 0
    let ts := s.leaseTids r
    let s := { s with leaseReqs := s.leaseReqs.erase r }.putEngine ⟨r.core, r.eng, some r.wg, slot⟩
    let s := s.updWg r.wg fun w => w.setLease r.eng (match w.lease r.eng with
      | .held k n => .held k n
      | _ => .held r.n r.n)
    some (ts.foldl (fun s t => s.release r.wg t) s)

def execLeaseGrant (s : State) : Host.Outcome State Fault Refusal := .next ((fireLeaseGrant s).getD s)

/-! AMV and AMVB (R222, R223, R240). -/

def aSlab (b : List Byte) : Nat := field b 0 1
def aNslab (b : List Byte) : Nat := field b 1 1
def aN (b : List Byte) : Nat := field b 2 2
def aK (b : List Byte) : Nat := field b 4 2
def aTile (b : List Byte) : Nat := field b 6 1
def aRow (b : List Byte) : Nat := field b 8 2
def aAk0 (b : List Byte) : Nat := field b 0x0A 2
def aAsoff (b : List Byte) : Nat := field b 0x0C 2
def aNvec (b : List Byte) : Nat := field b 0x0E 1
def aSlots (b : List Byte) : Nat := field b 0x0F 1
def aFlags (b : List Byte) : Nat := field b 0x10 1
def aCbank (b : List Byte) : Nat := field b 0x11 1
def aCoff (b : List Byte) : Nat := field b 0x12 2
def aVstride (b : List Byte) : Nat := field b 0x14 2
def aBmap (b : List Byte) : Bool := (aFlags b).testBit 0
def aAcc (b : List Byte) : Nat := aFlags b / 2 % 4
def aZero (b : List Byte) : Bool := (aFlags b).testBit 3

def amvRuns (b : List Byte) : Runs :=
  (List.range (aNvec b)).map fun v => (4096 * aCbank b + aCoff b + v * aVstride b, aN b)

/-- Field values in offset order, then the conditions of several fields in the order of R223. `one` for AMV. K of 0 is out of range, where
R222 gives no least value: the model's choice (log entry 65). -/
def amvFields (w : Workgroup) (one : Bool) (b : List Byte) (wsl xsl : Word64) (x : Option Tile) : Option Nat :=
  let wc := anvWidth (slotElem wsl)
  let xc := anvWidth (slotElem xsl)
  let top := aAk0 b + aNslab b * aK b
  let tile := fun (f : Tile → Bool) => (x.map f).getD true
  firstFail [
    (decide (aSlab b < 16), 0), (decide (1 ≤ aNslab b ∧ aNslab b ≤ 8) && (!one || aNslab b == 1), 1),
    (decide (8 ≤ aN b ∧ aN b ≤ 256) && aN b % 8 == 0, 2),
    (decide (32 ≤ aK b ∧ aK b ≤ (if wc = 8 then 256 else 512)) && aK b % 32 == 0, 4), (decide (aTile b < 64), 6),
    (zeroAt b 7 1, 7), (aAk0 b % 32 == 0, 0x0A), (decide (1 ≤ aNvec b ∧ aNvec b ≤ 16) && (!one || aNvec b == 1), 0x0E),
    (decide (aSlots b < 64), 0x0F), (decide (aFlags b < 16) && aAcc b != 3, 0x10), (decide (aCbank b < 16), 0x11),
    (decide (aCoff b < 4096), 0x12), (decide (aNvec b ≤ 1) || decide (aN b ≤ aVstride b), 0x14), (zeroAt b 0x16 42, 0x16),
    (decide (aSlab b + aNslab b ≤ w.slabs.length) &&
      ((w.slabs.drop (aSlab b)).take (aNslab b)).all (·.anvil), 0),
    (tile fun x => decide (aRow b + aNvec b ≤ descRows x.desc), 8),
    (tile fun x => decide ((top * xc + 7) / 8 ≤ descPitch x.desc), 0x0A),
    (tile fun x => decide (aAsoff b + top / 32 ≤ descPitch x.desc), 0x0C),
    ((amvRuns b).all (fun r => decide (r.1 + r.2 ≤ 65536)) && w.holdsRuns (amvRuns b), 0x11)]

/-- The format slots (R223). -/
def amvSlotsOk (b : List Byte) (wsl xsl : Word64) : Bool :=
  let ok := fun sl => anvFormat (slotElem sl) && slotScale sl == 0x30 && slotBlock sl == 5 && slotResOk sl
  ok wsl && ok xsl && (aAcc b != 0 || decide (slotAcc wsl < 2))

/-- What becomes of a lane that submits a matrix operation. -/
inductive LaneOp where
  | fault (code addr : Nat)
  | park (p : Park)
  | go
  deriving DecidableEq, Repr

def amvLane (w : Workgroup) (t : Nat) (one : Bool) (b : List Byte) (wsl xsl : Word64) : LaneOp :=
  let n := aTile b % 64
  let x := (w.tiles[n]?).bind fun x => if x.st = .free ∨ w.foreignTile t x then none else some x
  if (x.map fun x => x.st != .ready).getD false then .park (.ready n)
  else match amvFields w one b wsl xsl x with
    | some o => .fault TILEBAD o
    | none =>
      if !amvSlotsOk b wsl xsl then .fault FMTBAD 0
      else match x with
      | none => .fault TILEBAD n
      | some x => if x.view.isSome then .fault TILEBAD n else .go

/-- A new operation, accepted: M counts it (R223, R251). -/
def State.acceptOp (s : State) (o : MatOp) : State :=
  ({ s with nextId := s.nextId + 1, ops := s.ops ++ [o] }).countUp o.wg o.tids .m

def newOp (s : State) (c : Issue) (t : Nat) (k : MatKind) (blk : List Byte) : MatOp :=
  { id := s.nextId, kind := k, wg := c.wg, tidx := t, tids := [t], blk := blk, slots := [], maps := [], desc := 0, st := .queued,
    group := 0, perGroup := 0, permits := 0, bad := false, badAt := [], data := [], geo := [] }

/-- Tiles with their descriptors, as an operation keeps them until it reads them (R133, R224, R251). -/
def Workgroup.geoOf (w : Workgroup) (ns : List Nat) : List (Nat × Word64) := ns.filterMap fun n => (w.tiles[n]?).map fun x => (n, x.desc)

/-- A tile as an operation reads it: TFREE may have freed it since, or TDEF defined it anew. -/
def MatOp.tile? (o : MatOp) (n : Nat) : Option Tile := (o.geo.lookup n).map fun d => { Tile.free with desc := d }

def State.addReader (s : State) (u n : Nat) : State := s.updTile u n fun x => { x with readers := x.readers + 1 }

def State.dropReader (s : State) (u n : Nat) : State := s.updTile u n fun x => { x with readers := x.readers - 1 }

/-- The blocks of a bundle's lanes: their reads at issue wait as loads do (R163, R212). -/
def blocksWait (s : State) (u : Nat) (addr : List (Nat × Word64)) : Bool :=
  ((s.wg? u).map fun w => addr.any fun p => laneWaits s w p.1 p.2.toNat).getD false

/-- AMV and AMVB: lanes in ascending home lane order (R223, R240). They enter the slabs' orders so too, where R215 would take lanes of
several home waves by wave first: an order other than that of acceptance would keep sequencer and slab waiting for each other, and it is
the model's choice (log entry 64). -/
def amvInstr (g : Guard) (a : RegCode) (q : Nat) (one : Bool) (s : State) : Host.Outcome State Fault Refusal :=
  s.issue fun c s =>
    let ts := byLane (active s c g)
    let addr := ts.map fun t => (t, reg64 s c a t)
    if s.counterFull c.wg ts .m || blocksWait s c.wg addr then s.reissue c else
    addr.foldl (fun s p =>
      match s.wg? c.wg with
      | none => s
      | some w =>
        match laneBlock s w p.1 p.2.toNat with
        | .error e => s.raise c p.1 e.1 e.2
        | .ok (_, some pa) => s.lanePoison w p.1 pa p.2
        | .ok (b, none) =>
          let wsl := slotOf s c (aSlots b % 8)
          let xsl := slotOf s c (aSlots b / 8 % 8)
          match amvLane w p.1 one b wsl xsl with
          | .fault code x => s.raise c p.1 code x
          | .park k => s.park c.wg p.1 k
          | .go => match s.leaseFate w q with
            | .lost => s.raise c p.1 LEASELOST 0
            | .wait n => s.leaseWait w p.1 q n
            | .go =>
              let o := { newOp s c p.1 (.amv q) b with slots := [wsl, xsl], geo := w.geoOf [aTile b] }
              let s := (((s.seesReady c.wg [aTile b]).takeLease w q).acceptOp o).addReader c.wg (aTile b)
              (List.range (aNslab b)).foldl (fun s i => s.enterSlab c.wg (aSlab b + i) (.anvil o.id)) s) s

/-- AMV (R240). -/
def execAmv (g : Guard) (a : RegCode) (q : BitVec 1) (s : State) : Host.Outcome State Fault Refusal := amvInstr g a q.toNat true s

/-- AMVB (R240). -/
def execAmvb (g : Guard) (a : RegCode) (q : BitVec 1) (s : State) : Host.Outcome State Fault Refusal := amvInstr g a q.toNat false s

/-! Running an operation (R224 to R229). -/

def MatOp.running (o : MatOp) : Bool :=
  match o.st with
  | .running _ => true
  | _ => false

def MatOp.isAmv (o : MatOp) : Bool :=
  match o.kind with
  | .amv _ => true
  | _ => false

def MatOp.dense (o : MatOp) : Bool := o.kind == .mma || o.kind == .mmag

/-- The core of an operation whose workgroup is resident. -/
def State.opCore (s : State) (o : MatOp) : Option Nat := (s.wg? o.wg).map (·.core)

/-- The unit that runs an operation: its kind, an anvil sequencer by its number, MMA and MMAG the one pipe (R224, R247). -/
def MatOp.unit (o : MatOp) : Nat :=
  match o.kind with
  | .amv q => q
  | .mma => 2
  | .mmag => 2
  | .nzscan => 3
  | .epi => 4

/-- Earlier accepted operations of the core keep this one waiting: those of its unit, and those whose entries overlap its
own (R224, R225, R247); so does a CRWR before it that waits to write entries of its own (R259). -/
def State.opBehind (s : State) (o : MatOp) : Bool :=
  (s.bundles.any fun b => b.wg == o.wg && match b.crwr with
    | some x => decide (x.1 ≤ o.id) && runsOverlap x.2 o.runs
    | none => false) ||
  s.ops.any fun p => decide (p.id < o.id) && s.opCore p == s.opCore o &&
    (p.unit == o.unit || (p.wg == o.wg && runsOverlap p.runs o.runs))

/-- The turn of an anvil operation on every slab of its set. -/
def MatOp.slabsTurn (o : MatOp) (w : Workgroup) : Bool :=
  !o.isAmv || (List.range (aNslab o.blk)).all fun i => w.slabHead (aSlab o.blk + i) == some (.anvil o.id)

/-- An operation that could start but for permits. -/
def State.opStartable (s : State) (o : MatOp) : Bool :=
  !o.running && !s.opBehind o && match s.wg? o.wg with
    | some w => s.enginesRun w.ctx && o.slabsTurn w
    | none => false

/-- Slab permits of a die in use: an operation keeps its own until it completes (R227). -/
def State.slabsUsed (s : State) (die : Nat) : Nat :=
  sumNat ((s.ops.filter fun o => o.isAmv && o.running && (s.opCore o).map dieOf == some die).map (·.permits))

/-- Dense-pipe permits of a die in use (R247). -/
def State.denseUsed (s : State) (die : Nat) : Nat :=
  (s.ops.filter fun o => o.dense && o.running && (s.opCore o).map dieOf == some die).length

/-- Slabs of an anvil operation whose groups have not ended. -/
def MatOp.rest (o : MatOp) : Nat := aNslab o.blk - o.group

/-- Slabs of each group under a die's total of permits. -/
def MatOp.groupOf (o : MatOp) (total : Nat) : Nat := min o.rest total

/-- The anvil operation of a die that starts next: the first accepted of those that wait only for permits (R227). -/
def State.amvNext (s : State) (o : MatOp) : Bool :=
  o.isAmv && s.opStartable o &&
  let die := (s.opCore o).map dieOf
  let d := (s.dies[die.getD 0]?).getD .reset
  decide (0 < d.slabGrant) && decide (s.slabsUsed (die.getD 0) + o.groupOf d.slabGrant ≤ d.slabGrant) &&
  !(s.ops.any fun p => decide (p.id < o.id) && p.isAmv && s.opStartable p && (s.opCore p).map dieOf == die)

/-- Blocks of a slab that are not skipped (R226). -/
def MatOp.blocks (o : MatOp) (w : Workgroup) (slab : Nat) : Nat :=
  let b := o.blk
  let cols := mapCols (anvWidth (slotElem (o.slots.headD 0)))
  let all := aN b / 8 * (aK b / 8)
  if !aBmap b then all else
  let m : Mem := ((w.slabs[slab]?).map (·.map)).getD []
  ((List.range (aN b / 8)).flatMap fun p => (List.range (aK b / 8)).filter fun q =>
    let i := cols * p + q
    !((m.get (i / 8)).toNat.testBit (i % 8))).length

/-- The time of the group of slabs `i .. i + n - 1` of an operation (R226). -/
def MatOp.groupTime (o : MatOp) (w : Workgroup) (i n : Nat) : Nat :=
  let b := o.blk
  let beat := if anvWidth (slotElem (o.slots.headD 0)) = 8 then 256 else 512
  let most := ((List.range n).map fun j => (o.blocks w (aSlab b + i + j) + beat - 1) / beat).foldl max 0
  12 + aNvec b * anvPlanes (slotElem (o.slots.getD 1 0)) * most

/-- A tile row as an engine reads it: each byte, or 256 where it is poisoned (R229, R348). -/
def Workgroup.rowData (w : Workgroup) (x : Tile) (row : Nat) : List Nat :=
  (descOffs x.desc row 0 (descPitch x.desc)).map fun o =>
    let a := descBase x.desc + o
    if (w.poisonAt [a]).isSome then 256 else (w.winByte a).toNat

def State.updOp (s : State) (id : Nat) (f : MatOp → MatOp) : State :=
  { s with ops := s.ops.map fun o => if o.id = id then f o else o }

/-- An operation consumes poisoned data (R229, R348): its thread takes UNCORRECTABLE once the operation completes; a CONTAIN workgroup is
killed (R358). -/
def State.opConsume (s : State) (o : MatOp) (w : Workgroup) : State :=
  if w.contain.isSome then s.consume o.wg o.tidx 0 else s.updOp o.id fun o => { o with bad := true }

/-- Reads of poisoned words by an operation: the record of the first, and the consumption. -/
def State.opBad (s : State) (o : MatOp) (as : List Nat) : State :=
  match s.wg? o.wg, as with
  | some w, a :: _ => (s.recordLocalPoison w a).opConsume o w
  | _, _ => s

/-- The same for what it reads of the window as any access does (R129). -/
def State.opPoison (s : State) (o : MatOp) (addrs : List Nat) : State :=
  match s.wg? o.wg with
  | none => s
  | some w => s.opBad o (w.poisonAt addrs).toList

/-- Window addresses of the rows of a tile from `r` on. -/
def tileAddrs (x : Tile) (r n : Nat) : List Nat :=
  (List.range n).flatMap fun i => (descOffs x.desc (r + i) 0 (descPitch x.desc)).map (descBase x.desc + ·)

/-- Logical bytes of an activation row that an operation reads: its elements, and under ACC.F32 their scales (R219, R224). -/
def MatOp.rowBytes (o : MatOp) (i32 : Bool) : List Nat :=
  let b := o.blk
  let n := aNslab b * aK b
  let width := anvWidth (slotElem (o.slots.getD 1 0))
  let from_ := containerByte width (aAk0 b)
  let last := containerByte width (aAk0 b + n - 1)
  (List.range (last + 1 - from_)).map (from_ + ·) ++
    (if i32 then [] else (List.range (n / 32)).map (aAsoff b + aAk0 b / 32 + ·))

/-- Whether an operation accumulates under ACC.I32. -/
def MatOp.i32 (o : MatOp) : Bool := aAcc o.blk == 2 || (aAcc o.blk == 0 && slotAcc (o.slots.headD 0) == 1)

/-- ANVIL_OPERATION_START (R224, R227): the activation rows are read once. -/
def State.startAmv (s : State) (o : MatOp) : State :=
  match s.wg? o.wg with
  | none => s
  | some w =>
    let die := dieOf w.core
    let total := ((s.dies[die]?).map (·.slabGrant)).getD 0
    let n := o.groupOf total
    let b := o.blk
    let till := s.clk + o.groupTime w o.group n
    if !o.data.isEmpty then s.updOp o.id fun o => { o with st := .running till, perGroup := n, permits := n }
    else match o.tile? (aTile b) with
      | none => s
      | some x =>
        let rows := (List.range (aNvec b)).map fun v => w.rowData x (aRow b + v)
        let s := s.updOp o.id fun o => { o with st := .running till, perGroup := n, permits := n, data := rows }
        let addrs := (List.range (aNvec b)).flatMap fun v =>
          (o.rowBytes o.i32).map fun k => descBase x.desc + descOff x.desc (aRow b + v) k
        (((s.dropReader o.wg (aTile b)).lsRecord w false (addrs.map (o.tidx, ·))).winTouch w addrs).opPoison o addrs

def fireAnvilOperationStart (s : State) : Option State := (s.ops.find? s.amvNext).map s.startAmv

def execAnvilOperationStart (s : State) : Host.Outcome State Fault Refusal := .next ((fireAnvilOperationStart s).getD s)

/-- A weight lies in a block that the map skips (R218, R226). -/
def MatOp.skips (o : MatOp) (w : Workgroup) (slab n k : Nat) : Bool :=
  let m : Mem := ((w.slabs[slab]?).map (·.map)).getD []
  let i := mapCols (anvWidth (slotElem (o.slots.headD 0))) * (n / 8) + k / 8
  aBmap o.blk && (m.get (i / 8)).toNat.testBit (i % 8)

/-- The byte of the map that holds a weight's block is uncorrectable (R229). -/
def MatOp.mapBad (o : MatOp) (w : Workgroup) (slab n k : Nat) : Bool :=
  let i := mapCols (anvWidth (slotElem (o.slots.headD 0))) * (n / 8) + k / 8
  aBmap o.blk && (((w.slabs[slab]?).map (·.bad)).getD []).contains (2048 + i / 8)

/-- The decoded weights of row `n` of a slab; none where a word of the row's bytes, or the map's byte, is uncorrectable (R216, R218,
R229). -/
def MatOp.weights (o : MatOp) (w : Workgroup) (slab n : Nat) : List (Option Int) :=
  let elem := slotElem (o.slots.headD 0)
  let width := anvWidth elem
  let row := w.slabRow slab n
  (List.range (aK o.blk)).map fun k =>
    if o.mapBad w slab n k then none
    else if o.skips w slab n k then some 0
    else if w.poison.contains ((65536 * slab + 256 * n + containerByte width k) / 4) then none
    else some (anvDec elem (container width row k))

/-- The decoded activations of elements `from_ ..` of a row (R219). -/
def MatOp.acts (o : MatOp) (row : List Nat) (from_ n : Nat) : List (Option Int) :=
  let elem := slotElem (o.slots.getD 1 0)
  let width := anvWidth elem
  (List.range n).map fun k =>
    if row.getD (containerByte width (from_ + k)) 0 = 256 then none else some (anvDec elem (container width row (from_ + k)))

/-- A block sum (R220): the exact sum of the products, or none where bad data enters it. -/
def blockSum (ws xs : List (Option Int)) : Option Int :=
  (ws.zip xs).foldl (fun (s : Option Int) p => match s, p.1, p.2 with
    | some s, some x, some y => some (s + x * y)
    | _, _, _ => none) (some 0)

/-- The byte of the side store that holds the scale of a row's block (R217). -/
def scaleAt (width n b : Nat) : Nat := if width = 8 then 8 * n + b else 16 * (n / 2) + b

/-- The weight scale of a row's block. -/
def weightScale (width : Nat) (scales : Mem) (n b : Nat) : Nat := (scales.get (scaleAt width n b)).toNat

/-- An addition under ACC.I32: the result and whether it saturated (R55, R221). -/
def addI32 (e : Nat) (x : Int) : Nat × Bool :=
  let t := toInt 32 e + x
  if t > 0x7FFFFFFF then (0x7FFFFFFF, true) else if t < -0x80000000 then (0x80000000, true) else (ofInt 32 t, false)

/-- An addition under ACC.F32 of a block sum at its scale (R55, R224). -/
def addBlockF32 (e : Nat) (x : Int) (k : Int) : Nat :=
  (f32.round 0 0 false false (addV false (f32.decode e) (.num (decide (x < 0)) x.natAbs k false)).1).bits

/-- A value being accumulated: entry bits, saturations, and whether bad data entered it (R229). -/
structure Acc where
  bits : Nat
  sats : Nat
  bad : Bool

/-- One block of a slab added to an entry (R224). -/
def MatOp.addBlock (o : MatOp) (w : Workgroup) (row : List Nat) (ws : List (Option Int)) (i n b : Nat) (e : Acc) : Acc :=
  let blk := o.blk
  let slab := aSlab blk + i
  let we := slotElem (o.slots.headD 0)
  let xe := slotElem (o.slots.getD 1 0)
  let xs := (o.acts row (aAk0 blk + i * aK blk + 32 * b) 32).zipIdx.map fun x =>
    if o.skips w slab n (32 * b + x.2) then some 0 else x.1
  let sum := blockSum ((ws.drop (32 * b)).take 32) xs
  let sx := row.getD (aAsoff blk + (aAk0 blk + i * aK blk) / 32 + b) 0
  let sw := weightScale (anvWidth we) (((w.slabs[slab]?).map (·.scales)).getD []) n b
  match sum with
  | none => { e with bad := true }
  | some x =>
    if o.i32 then let r := addI32 e.bits x; { e with bits := r.1, sats := e.sats + (if r.2 then 1 else 0) }
    else if sx = 256 ∨ (((w.slabs[slab]?).map (·.bad)).getD []).contains (scaleAt (anvWidth we) n b) then { e with bad := true }
    else if sw = 0xFF ∨ sx = 0xFF then { e with bits := f32.nanBits }
    else { e with bits := addBlockF32 e.bits x ((sw : Int) + sx - 254 - anvShift we - anvShift xe) }

/-- The slabs `i0 .. i0 + n - 1` of an operation accumulated into one entry, in ascending block order. -/
def MatOp.entryValue (o : MatOp) (w : Workgroup) (row : List Nat) (r i0 n : Nat) (e : Nat) : Acc :=
  (List.range n).foldl (fun a j =>
    let ws := o.weights w (aSlab o.blk + i0 + j) r
    (List.range (aK o.blk / 32)).foldl (fun a b => o.addBlock w row ws (i0 + j) r b a) a) ⟨e, 0, false⟩

/-- What poisoned data leaves in an entry (R229). -/
def MatOp.badBits (o : MatOp) : Nat := if o.i32 then 0x80000000 else f32.nanBits

/-- Poisoned words of a slab that an operation reads: those of weights of its region that no map bit skips (R218, R229). -/
def MatOp.badWords (o : MatOp) (w : Workgroup) (slab : Nat) : List Nat :=
  let width := anvWidth (slotElem (o.slots.headD 0))
  (w.poison.map (4 * ·)).filter fun a =>
    decide (65536 * slab ≤ a) && decide (a < 65536 * slab + 256 * aN o.blk) && (List.range 4).any fun j =>
      let n := (a - 65536 * slab) / 256
      let col := a % 256 + j
      (if width = 8 then [col] else [2 * col, 2 * col + 1]).any fun k => decide (k < aK o.blk) && !o.skips w slab n k

/-- Uncorrectable bytes of a slab's side store, and of its map from 2,048 on, that an operation reads (R229). -/
def MatOp.badSides (o : MatOp) (w : Workgroup) (slab : Nat) : Bool :=
  let width := anvWidth (slotElem (o.slots.headD 0))
  let b := o.blk
  (((w.slabs[slab]?).map (·.bad)).getD []).any fun i =>
    if i < 2048 then
      let n := if width = 8 then i / 8 else i / 16 * 2
      !o.i32 && decide (n < aN b) && decide ((if width = 8 then i % 8 else i % 16) < aK b / 32)
    else aBmap b && (List.range 8).any fun j =>
      let k := 8 * (i - 2048) + j
      decide (k / mapCols width < aN b / 8) && decide (k % mapCols width < aK b / 8)

/-- Bad side data of an operation's slabs: the record, which names no address, and the consumption. -/
def State.opSides (s : State) (o : MatOp) (w : Workgroup) (slabs : List Nat) : State :=
  if slabs.any (o.badSides w) then
    (s.recordErr (dieOf w.core)
      { ue := true, cont := w.undoes, inj := true, unit := 0x04, core := w.core, ctx := some w.ctx,
        fault := w.poisonCode UNCORRECTABLE }).opConsume o w
  else s

/-- The entries of the current group of slabs written, once each; one that used bad data in an earlier group stays bad. -/
def State.writeGroup (s : State) (o : MatOp) (w : Workgroup) : State :=
  let b := o.blk
  let s := ((List.range (aNvec b)).flatMap fun v => (List.range (aN b)).map fun n => (v, n)).foldl (fun s p =>
    let f := 4096 * aCbank b + aCoff b + p.1 * aVstride b + p.2
    let e := if aZero b ∧ o.group = 0 then 0 else s.crEntry o f
    let r := o.entryValue w (o.data.getD p.1 []) p.2 o.group o.perGroup e
    let unsound := s.entryBad o f && !(aZero b && o.group == 0)
    let bad := r.bad || unsound || o.badAt.contains f
    let s := s.putEntry o f (if bad then o.badBits else r.bits)
    let s := if bad then s.updOp o.id fun o => { o with badAt := f :: o.badAt, bad := o.bad || unsound } else s
    if r.sats = 0 then s else s.updOpBank o (f / 4096) fun k => { k with ovf := min 0xFFFF (k.ovf + r.sats) }) s
  let slabs := (List.range o.perGroup).map (aSlab b + o.group + ·)
  (s.opBad o (slabs.flatMap (o.badWords w))).opSides o w slabs

/-- Operations that have gone no longer hold freed banks (R243). -/
def State.dropBanks (s : State) (id : Nat) : State :=
  { s with crBusy := (s.crBusy.map fun f => { f with ops := f.ops.filter (· != id) }).filter fun f => !f.ops.isEmpty }

/-- An operation is over: M falls (R224, R252, R254, R258), and its thread takes UNCORRECTABLE where it consumed poisoned data
(R348). -/
def State.endOp (s : State) (o : MatOp) : State :=
  let bad := s.ops.any fun p => p.id == o.id && p.bad
  let s := ({ s with ops := s.ops.filter (·.id != o.id) }.dropBanks o.id).countDown o.wg o.tids .m o.id
  if bad then s.consume o.wg o.tidx 0 else s

def MatOp.due (o : MatOp) (clk : Nat) : Bool :=
  match o.st with
  | .running till => decide (till ≤ clk)
  | _ => false

/-- An anvil operation whose group ends with others to follow. -/
def MatOp.groupEnds (o : MatOp) (clk : Nat) : Bool := o.isAmv && o.due clk && decide (o.perGroup < o.rest)

/-- PERMIT_GROUP_END (R227, R228): the next group begins, unless the context is being saved; in a context that stands STOPPED and
resident it does (R324). -/
def firePermitGroupEnd (s : State) : Option State :=
  match s.ops.find? (·.groupEnds s.clk) with
  | none => none
  | some o => match s.wg? o.wg with
    | none => some (s.endOp o)
    | some w =>
      let s := s.writeGroup o w
      let i := o.group + o.perGroup
      let n := min (aNslab o.blk - i) o.perGroup
      let st := if s.enginesGoOn w.ctx then .running (s.clk + o.groupTime w i n) else .between
      some (s.updOp o.id fun o => { o with group := i, perGroup := n, st := st })

def execPermitGroupEnd (s : State) : Host.Outcome State Fault Refusal := .next ((firePermitGroupEnd s).getD s)

/-- ANVIL_OPERATION_COMPLETE (R224). -/
def fireAnvilOperationComplete (s : State) : Option State :=
  match s.ops.find? fun o => o.isAmv && o.due s.clk && !o.groupEnds s.clk with
  | none => none
  | some o => match s.wg? o.wg with
    | none => some (s.endOp o)
    | some w => some (((s.writeGroup o w).endOp o).updWg o.wg fun w =>
        { w with slabQ := w.slabQ.filter fun q => q.2 != .anvil o.id })

def execAnvilOperationComplete (s : State) : Host.Outcome State Fault Refusal := .next ((fireAnvilOperationComplete s).getD s)

/-! AWAIT (R241). -/

/-- AWAIT. -/
def execAwait (g : Guard) (m : BitVec 2) (s : State) : Host.Outcome State Fault Refusal :=
  s.issue fun c s =>
    let ts := active s c g
    let ids := (s.ops.filter fun o => o.wg == c.wg && o.isAmv && m.toNat.testBit o.unit).map (·.id)
    ts.foldl (fun s t => s.block c.wg t (.await ids) (if ids.isEmpty then some (s.clk + 8) else none)) s

/-- Threads in AWAIT: 8 clk after the last operation completed, they return. -/
def State.settleAwaits (s : State) : State :=
  s.wgs.foldl (fun s w => w.threads.zipIdx.foldl (fun s p => match p.1.st, p.1.wake with
    | .blocked (.await ids), none =>
      if s.ops.any fun o => ids.contains o.id then s else s.updThread w.uid p.2 fun th => { th with wake := some (s.clk + 8) }
    | .blocked (.await _), some d => if d ≤ s.clk ∧ s.wgRuns w then (s.l1Observe w.core).release w.uid p.2 else s
    | _, _ => s) s) s

/-! Crucible banks (R232 to R234, R242 to R245). -/

/-- CRALLOC (R242). -/
def execCralloc (g : Guard) (d : PredCode) (a : Src) (k : BitVec 4) (s : State) : Host.Outcome State Fault Refusal :=
  s.issue fun c s =>
    match s.wg? c.wg with
    | none => s
    | some w =>
      let ts := active s c g
      let n := (src s c a (elect ts)).toNat
      let b := k.toNat
      if ts.isEmpty then s
      else if n = 0 ∨ 16 < n then s.raiseAll c ts ILLOP 0
      else if w.cr.length < b + n ∨ ((w.cr.drop b).take n).any (·.held) then s.raiseAll c ts TILEBAD b
      else
        let id := s.nextId
        let s := { s.bump with crReqs := s.crReqs ++ [⟨id, c.core, c.wg, ts, b, n, d.toNat, s.clk, none⟩] }
        ts.foldl (fun s t => s.block c.wg t (.cralloc id) none) s

/-- The threads of a request that still wait for it (R329, R334). -/
def State.crTids (s : State) (r : CrReq) : List Nat :=
  r.tids.filter fun t => ((s.thread? r.wg t).map fun th => th.st == .blocked (.cralloc r.id)).getD false

/-- The request at the head of a core's requests. -/
def State.crHead (s : State) (r : CrReq) : Bool := !s.crReqs.any fun q => q.core == r.core && decide (q.id < r.id)

/-- A workgroup that has exited releases its banks once its matrix operations are complete (R232). -/
def State.freeBanks (s : State) : State :=
  { s with wgs := s.wgs.map fun w =>
      if (w.cr.any (·.held)) && (w.threads.all fun th => !th.unexited) && !(s.lrOf w).isTask && !(s.ops.any (·.wg == w.uid)) then
        { w with cr := w.cr.map fun _ => .free }
      else w }

/-- Withdrawn requests go; the request at the head whose banks are free takes them, and its grant lands 128 clk later
(R233, R242). -/
def State.settleRequests (s : State) : State :=
  let s := s.freeBanks
  if s.crReqs.isEmpty then s else
  let s := { s with crReqs := s.crReqs.filter fun r => !(s.crTids r).isEmpty }
  { s with crReqs := s.crReqs.map fun r =>
      if r.due.isNone ∧ s.crHead r ∧ s.banksUsed r.core + r.n ≤ 16 then { r with due := some (s.clk + 128) } else r }

/-- The outcome of a request in its threads (R242). -/
def State.answerCr (s : State) (r : CrReq) (b : Bool) : State :=
  let ts := s.crTids r
  let s := { s with crReqs := s.crReqs.filter (·.id != r.id) }
  let s := ts.foldl (fun s t => s.release r.wg t) s
  if r.d = 0 then s else s.addPend 0 { Pend.none_ r.wg ts with preds := ts.map fun t => (t, r.d, b) }

/-- CRALLOC_GRANT: the names are held; the banks read 0. -/
def fireCrallocGrant (s : State) : Option State :=
  (s.crReqs.find? fun r => (r.due.map fun d => decide (d ≤ s.clk)).getD false && ((s.wg? r.wg).map s.wgRuns).getD false).map fun r =>
    (s.answerCr r true).updWg r.wg fun w =>
      { w with cr := w.cr.zipIdx.map fun x => if r.base ≤ x.2 ∧ x.2 < r.base + r.n then ⟨true, [], 0, []⟩ else x.1 }

def execCrallocGrant (s : State) : Host.Outcome State Fault Refusal := .next ((fireCrallocGrant s).getD s)

/-- The no-progress condition of a core (R234). -/
def State.noProgress (s : State) (core : Nat) : Bool :=
  (s.crReqs.any (·.core == core)) &&
  s.wgs.all fun w => w.core != core || !(w.cr.any (·.held)) ||
    ((w.threads.all fun th => !th.unexited || s.isBlocked w th) &&
     s.crReqs.any fun r => r.wg == w.uid)

/-- The cores on which it holds, and since when. -/
def State.watchProgress (s : State) : State :=
  if s.crReqs.isEmpty && s.noProg.isEmpty then s else
  { s with noProg := ((s.crReqs.map (·.core)).eraseDups.filter s.noProgress).map fun k => (k, (s.noProg.lookup k).getD s.clk) }

/-- Whether request `x` is younger than `y`: later issue, higher home wave, higher home lane (R234). -/
def crYounger (x y : CrReq) : Bool :=
  let e := fun r : CrReq => elect r.tids
  if x.at_ ≠ y.at_ then decide (x.at_ > y.at_)
  else if e x / 32 ≠ e y / 32 then decide (e x / 32 > e y / 32)
  else decide (e x % 32 > e y % 32)

/-- NOPROGRESS (R234). -/
def fireNoprogress (s : State) : Option State :=
  match s.noProg.find? fun p => decide (p.2 + 256 ≤ s.clk) && s.noProgress p.1 with
  | none => none
  | some p =>
    let s := { s with noProg := s.noProg.erase p }
    some (match bestOf crYounger (s.crReqs.filter (·.core == p.1)) with
      | some r => s.answerCr r false
      | none => s)

def execNoprogress (s : State) : Host.Outcome State Fault Refusal := .next ((fireNoprogress s).getD s)

/-- CRFREE (R243): the names are unheld at once; banks that operations still use stay with those. TRAPADDR of a name that is not held is B,
as in R242: the rule names none, and it is the model's choice (log entry 30). -/
def execCrfree (g : Guard) (a : Src) (k : BitVec 4) (s : State) : Host.Outcome State Fault Refusal :=
  s.issue fun c s =>
    match s.wg? c.wg with
    | none => s
    | some w =>
      let ts := active s c g
      let n := (src s c a (elect ts)).toNat
      let b := k.toNat
      if ts.isEmpty then s
      else if n = 0 ∨ 16 < n then s.raiseAll c ts ILLOP 0
      else if w.cr.length < b + n ∨ !((w.cr.drop b).take n).all (·.held) then s.raiseAll c ts TILEBAD b
      else
        let users := fun m => (s.ops.filter fun o => o.wg == c.wg && (o.runs.any fun r => (runNames r).contains m) &&
          !(s.crBusy.any fun f => f.wg == c.wg && f.name == m && f.ops.contains o.id)).map (·.id)
        let freed := ((List.range n).map (b + ·)).filterMap fun m =>
          if (users m).isEmpty then none else (w.cr[m]?).map fun x => (⟨c.wg, m, x, users m⟩ : FreedBank)
        { s with crBusy := s.crBusy ++ freed }.updWg c.wg fun w : Workgroup =>
          { w with cr := w.cr.zipIdx.map fun x : CrBank × Nat => if b ≤ x.2 ∧ x.2 < b + n then .free else x.1 }

/-- An operation writes entries (R244): every kind but a scan, and an epilogue only with CLR. -/
def MatOp.writes (o : MatOp) : Bool := o.kind != .nzscan && (o.kind != .epi || (field o.blk 0x10 1).testBit 3)

/-- CRZERO (R244). -/
def execCrzero (g : Guard) (a : Src) (k : BitVec 4) (s : State) : Host.Outcome State Fault Refusal :=
  s.issue fun c s =>
    match s.wg? c.wg with
    | none => s
    | some w =>
      let ts := active s c g
      let x := (src s c a (elect ts)).toNat
      let f0 := 4096 * k.toNat + x % 4096
      let n := x / 2^16 % 2^13
      if ts.isEmpty then s
      else if x / 2^12 % 16 ≠ 0 ∨ x / 2^29 ≠ 0 ∨ n = 0 ∨ 4096 < n ∨ !w.holdsRuns [(f0, n)] then s.raiseAll c ts TILEBAD k.toNat
      else if s.ops.any fun o => o.wg == c.wg && o.writes && runsOverlap o.runs [(f0, n)] then s.reissue c
      else
        (s.updWg c.wg fun w => { w with cr := w.cr.zipIdx.map fun y =>
          let lo := max f0 (4096 * y.2)
          let hi := min (f0 + n) (4096 * y.2 + 4096)
          if hi ≤ lo then y.1
          else { y.1 with data := y.1.data.splice (4 * (lo - 4096 * y.2)) (List.replicate (4 * (hi - lo)) 0)
                          bad := y.1.bad.filter fun e => !decide (lo - 4096 * y.2 ≤ e ∧ e < hi - 4096 * y.2)
                          ovf := if hi - lo = 4096 then 0 else y.1.ovf } }).holdBundle c ((n + 31) / 32)

/-- CRRD (R245). -/
def execCrrd (g : Guard) (f : BitVec 1) (d : RegCode) (a : Src) (k : BitVec 4) (s : State) : Host.Outcome State Fault Refusal :=
  s.issue fun c s =>
    match s.wg? c.wg with
    | none => s
    | some w =>
      let ts := active s c g
      let e := fun t => (src s c a t).toNat + t % 32
      let held := ((w.cr[k.toNat]?).map (·.held)).getD false
      let ok := if f = 1 then ts else ts.filter fun t => held && decide (e t < 4096)
      let bad := ts.filter (!ok.contains ·)
      if s.counterFull c.wg ok .m then s.reissue c else
      let val := fun t =>
        if f = 1 then ((w.cr[t % 32]?).map fun x => if x.held then BitVec.ofNat 32 x.ovf else 0).getD 0
        else ((w.cr[k.toNat]?).map fun x => BitVec.ofNat 32 (x.entry (e t))).getD 0
      let unsound := fun t => f == 0 && ((w.cr[k.toNat]?).map fun x => x.bad.contains (e t)).getD false
      let passes := if f = 1 then 1 else (ok.map fun t => e t / 32).eraseDups.length
      let s := if ok.isEmpty then s else (s.countUp c.wg ok .m).addPend (16 + (passes - 1))
        { Pend.none_ c.wg ok with
          ctr := some .m, regs := regWrites ok d.toNat (fun t => if unsound t then 0 else val t) noImg
          poison := (ok.filter unsound).map fun t => (t, (0 : Word64)) }
      s.raiseAll c bad TILEBAD k.toNat

end Sys2Proof.Machine
end

