-- ==== Sys2Proof/Machine/Image.lean ====
section
/-! DEFINITION. The save area (R331): the record of a workgroup as bytes, and what a resume takes from them. Sections that
the manual calls internal stand in the state (log entry 16) and fill their space with zeros. -/

namespace Sys2Proof.Machine

def zeros (n : Nat) : List Byte := List.replicate n 0

/-- Bytes filled up with zeros to a multiple of `k`. -/
def padTo (k : Nat) (bs : List Byte) : List Byte := bs ++ zeros (roundUp bs.length k - bs.length)

/-! Thread blocks. -/

def Counters.word (k : Counters) : Nat := k.l + k.s * 2^6 + k.c * 2^12 + k.m * 2^18 + k.a * 2^24 + k.v * 2^30

def Counters.ofWord (x : Nat) : Counters := ⟨bits x 5 0, bits x 11 6, bits x 17 12, bits x 23 18, bits x 29 24, bits x 35 30⟩

/-- TSTATE, WAITPH and WAITKIND. -/
def Thread.tstate (th : Thread) : Nat × Nat × Nat :=
  let p := if th.priv then 64 else 0
  match th.st with
  | .exited => (1 + p, 0, 0)
  | .idle => (128 + p, 0, 0)
  | .blocked (.bar k ph) => (2 + 4 * k + p, ph, 0)
  | .blocked .gsync => (2 + p, 0, 1)
  | _ => (p, 0, 0)

def Thread.bytes (th : Thread) : List Byte :=
  let st := th.tstate
  let task := th.task.getD ⟨List.replicate 7 0, 0, 0, false⟩
  padTo 256 (toBytes 8 th.pc.toNat ++ toBytes 8 (match th.mid with | some m => (clsOf m.1 m.2).toNat | none => 0) ++
    toBytes 8 (meetWord th.meet).toNat ++ toBytes 8 th.link.toNat ++ toBytes 8 th.ctr.word ++ toBytes 1 (th.preds &&& 0xFE).toNat ++
    toBytes 1 st.1 ++ toBytes 1 st.2.1 ++ toBytes 1 st.2.2 ++ toBytes 4 th.fpctl.toNat ++ toBytes 4 th.tx.word ++
    th.vs.flatMap (fun v => toBytes 1 (v.getD 255)) ++ zeros 4 ++ toBytes 4 th.trap.cause.toNat ++ toBytes 4 th.trap.pred.toNat ++
    toBytes 8 th.trap.addr.toNat ++ toBytes 8 th.trap.pc.toNat ++ toBytes 8 th.trap.cls.toNat ++ toBytes 8 th.trap.meet.toNat ++
    toBytes 8 th.trap.link.toNat ++ th.trap.scr.flatMap (fun x => toBytes 8 x.toNat) ++
    task.words.flatMap (fun x => toBytes 4 x.toNat) ++ toBytes 4 task.queue)

/-- The trap registers with their reserved bits at 0 (R5, R320). -/
def TrapRegs.legal (r : TrapRegs) : TrapRegs :=
  { cause := r.cause &&& 0x800000FF, addr := r.addr, pc := r.pc &&& 0xFFFFFFFFFFFF, cls := r.cls &&& 0x800FFFFFFFFFFFFF,
    meet := r.meet &&& 0x8000FFFFFFFFFFFF, link := r.link, pred := r.pred &&& 0xFE, scr := r.scr }

/-- A thread with what its block holds. -/
def Thread.load (th : Thread) (bs : List Byte) : Thread :=
  let x8 := fun o => BitVec.ofNat 64 (field bs o 8)
  let cls := field bs 8 8
  let st := field bs 0x29 1
  let trap : TrapRegs :=
    { cause := BitVec.ofNat 32 (field bs 0x40 4), pred := BitVec.ofNat 32 (field bs 0x44 4), addr := x8 0x48, pc := x8 0x50
      cls := x8 0x58, meet := x8 0x60, link := x8 0x68, scr := (List.range 4).map fun i => x8 (0x70 + 8 * i) }
  { th with
    pc := BitVec.ofNat 48 (field bs 0 8)
    mid := if cls.testBit 63 then some (BitVec.ofNat 48 cls, cls / 2^48 % 16) else none
    meet := if (field bs 0x10 8).testBit 63 then some (BitVec.ofNat 48 (field bs 0x10 8)) else none
    link := BitVec.ofNat 48 (field bs 0x18 8), ctr := .ofWord (field bs 0x20 8)
    preds := (BitVec.ofNat 8 (field bs 0x28 1) &&& 0xFE) ||| 1, priv := st.testBit 6
    fpctl := BitVec.ofNat 32 (field bs 0x2C 4) &&& fpctlMask
    tx := { th.tx with aborts := bits (field bs 0x30 4) 27 24, fcode := bits (field bs 0x30 4) 23 16,
                       cause := bits (field bs 0x30 4) 11 8, code := bits (field bs 0x30 4) 7 0 }
    vs := (List.range 8).map fun i => let v := field bs (0x34 + i) 1; if v = 255 then none else some v
    trap := trap.legal
    task := th.task.map fun e => { e with
      words := (List.range 7).map fun i => BitVec.ofNat 32 (field bs (0x90 + 4 * i) 4), queue := field bs 0xAC 4 }
    st := if st.testBit 7 then .idle else if st.testBit 0 then .exited
      else if st.testBit 1 then
        (if field bs 0x2B 1 % 2 = 1 then .blocked .gsync else .blocked (.bar (bits st 5 2) (field bs 0x2A 1)))
      else match th.st with
        | .idle => .ready
        | .exited => .ready
        | .blocked (.bar ..) => .ready
        | .blocked .gsync => .ready
        | x => x }

/-! Registers. -/

def RegImg.bytes : RegImg → List Byte
  | .u x => toBytes 4 x.toNat
  | .a b k => toBytes 4 b.toNat ++ toBytes 4 k.toNat
  | .g ws => ws.flatMap fun x => toBytes 4 x.toNat

def waveBytes (regs : List RegImg) : List Byte :=
  padTo 64 (toBytes 16 (sumNat (regs.zipIdx.map fun r => r.1.tag * 4^r.2)) ++ regs.flatMap RegImg.bytes)

/-- An image of tag `tag` at an offset, and the offset after it. -/
def loadImg (bs : List Byte) (o tag : Nat) : RegImg × Nat :=
  match tag with
  | 0 => (.u (BitVec.ofNat 32 (field bs o 4)), o + 4)
  | 1 => (.a (BitVec.ofNat 32 (field bs o 4)) (BitVec.ofNat 32 (field bs (o + 4) 4)), o + 8)
  | _ => (.g ((List.range 32).map fun j => BitVec.ofNat 32 (field bs (o + 4 * j) 4)), o + 128)

/-- The registers of a home wave from its section, and the offset of the next. -/
def loadWave (bs : List Byte) (o n : Nat) : List RegImg × Nat :=
  let tags := field bs o 16
  let r := (List.range n).foldl (fun (r : List RegImg × Nat) v =>
    let i := loadImg bs r.2 (tags / 4^v % 4)
    (r.1 ++ [i.1], i.2)) ([], o + 16)
  (r.1, roundUp r.2 64)

/-! The sections. -/

def tileFlags (x : Tile) : Nat := (if x.view.isSome then 1 else 0) + (if x.bound then 2 else 0)

def Tile.bytes (x : Tile) : List Byte :=
  toBytes 8 x.desc.toNat ++ toBytes 1 x.st.code ++ toBytes 1 (tileFlags x) ++ toBytes 2 x.ovf ++ toBytes 4 x.expected ++
    toBytes 4 x.arrived ++ toBytes 1 (x.view.getD 0) ++ zeros 11

def tileState (n : Nat) : TileState :=
  match n with
  | 0 => .free | 1 => .empty | 2 => .filling | 3 => .ready | _ => .draining

def Tile.load (x : Tile) (bs : List Byte) : Tile :=
  { x with
    desc := BitVec.ofNat 64 (field bs 0 8), st := tileState (field bs 8 1), ovf := field bs 10 2, expected := field bs 12 4,
    arrived := field bs 16 4, view := if field bs 9 1 % 2 = 1 then some (field bs 20 1) else none,
    bound := (field bs 9 1).testBit 1 }

def Slab.bytes (x : Slab) (data : List Byte) : List Byte :=
  data ++ x.scales.read 0 0x800 ++ x.map.read 0 0x100 ++ toBytes 1 (if x.anvil then 1 else 0) ++ zeros 0xFF

def CrBank.bytes (x : CrBank) : List Byte := x.data.read 0 0x4000 ++ toBytes 2 x.ovf ++ zeros 0x3E

def leaseWord : Lease → Nat
  | .none => 0
  | .held r _ => 1 + r * 2^16
  | .spent n => 2 + n * 2^16

def leaseOf (old : Lease) (x : Nat) : Lease :=
  match x % 4 with
  | 1 => .held (bits x 24 16) (match old with | .held _ n => n | _ => bits x 24 16)
  | 2 => .spent (bits x 24 16)
  | _ => .none

/-- Whether the record holds a store buffer. -/
def Workgroup.hasBuffer (w : Workgroup) : Bool := w.copied || w.contain.isSome

def Workgroup.wflags (w : Workgroup) : Nat :=
  (if w.gparked then 1 else 0) + (if w.trailing then 2 else 0) + (match w.contain with | some k => if k.on then 0 else 4 | none => 0) +
    (if w.yielded then 8 else 0)

/-- The part of a record up to the register sections, but for its length. -/
def Workgroup.headBytes (w : Workgroup) (raw : List Byte) (npend : Nat) : List Byte :=
  toBytes 4 w.g ++ toBytes 4 w.wflags ++ toBytes 2 w.core ++
    toBytes 2 (sumNat (w.cr.zipIdx.map fun x => if x.1.held then 2^x.2 else 0)) ++ toBytes 8 w.lserr.toNat ++
    toBytes 8 w.ydeadline ++ w.leases.flatMap (fun l => toBytes 4 (leaseWord l)) ++ toBytes 4 npend ++ zeros 16 ++
    w.barriers.flatMap (fun b => toBytes 2 b.expected ++ toBytes 2 b.arrived ++ toBytes 1 b.phase ++ zeros 3) ++
    w.omaps.flatMap (fun m => toBytes 8 (match m with | some x => x.toNat + 2^63 | none => 0)) ++ (raw ++ zeros 256).take 256 ++
    w.threads.flatMap Thread.bytes

/-- The sections after the threads: each begins at a multiple of 64. -/
def Workgroup.tailBytes (w : Workgroup) (npend : Nat) : List Byte :=
  let slabN := 65536 * w.slabs.length
  w.waves.flatMap waveBytes ++ padTo 64 (w.tiles.flatMap Tile.bytes) ++ zeros (64 * w.nviews) ++ zeros (64 * npend) ++
    (w.slabs.zipIdx.flatMap fun x => x.1.bytes (w.window.read (65536 * x.2) 65536)) ++
    padTo 64 (w.window.read slabN (w.lsbytes - slabN)) ++ ((w.cr.filter (·.held)).flatMap CrBank.bytes) ++
    (w.views.flatMap fun v => match v.store with
      | .local_ .. => zeros (roundUp (viewBytes v.desc) 64)
      | _ => []) ++ (if w.hasBuffer then zeros 65536 else [])

/-- A workgroup record. -/
def Workgroup.record (w : Workgroup) (raw : List Byte) (npend : Nat) : List Byte :=
  let body := w.headBytes raw npend ++ w.tailBytes npend
  let len := roundUp (body.length + 4) 4096
  toBytes 4 len ++ body ++ zeros (len - 4 - body.length)

/-- Where the sections of a record stand that a resume reads: registers, tiles, slabs, window, crucible. -/
def Workgroup.loadWaves (w : Workgroup) (bs : List Byte) : List (List RegImg) × Nat :=
  w.waves.foldl (fun (r : List (List RegImg) × Nat) _ =>
    let x := loadWave bs r.2 w.regs
    (r.1 ++ [x.1], x.2)) ([], 0x200 + 256 * w.threads.length)

/-- A workgroup with what its record holds (R330). -/
def Workgroup.load (w : Workgroup) (npend : Nat) (bs : List Byte) : Workgroup :=
  let at_ := fun o n => (bs.drop o).take n
  let r := w.loadWaves bs
  let tiles := r.2
  let slabs := tiles + roundUp (32 * w.tiles.length) 64 + 64 * w.nviews + 64 * npend
  let win := slabs + 0x10A00 * w.slabs.length
  let rest := w.lsbytes - 65536 * w.slabs.length
  let cr := win + roundUp rest 64
  let slabBytes := (List.range w.slabs.length).flatMap fun i => at_ (slabs + 0x10A00 * i) 0x10000
  { w with
    threads := w.threads.zipIdx.map fun t => t.1.load (at_ (0x200 + 256 * t.2) 256)
    waves := r.1
    lserr := BitVec.ofNat 64 (field bs 0x10 8)
    leases := w.leases.zipIdx.map fun l => leaseOf l.1 (field bs (0x20 + 4 * l.2) 4)
    barriers := (List.range 16).map fun i => ⟨field bs (0x40 + 8 * i) 2, field bs (0x42 + 8 * i) 2, field bs (0x44 + 8 * i) 1⟩
    omaps := (List.range 8).map fun i =>
      let x := field bs (0xC0 + 8 * i) 8
      if x.testBit 63 then some (BitVec.ofNat 64 (x - 2^63)) else none
    tiles := w.tiles.zipIdx.map fun t => t.1.load (at_ (tiles + 32 * t.2) 32)
    slabs := w.slabs.zipIdx.map fun x =>
      let o := slabs + 0x10A00 * x.2
      { anvil := field bs (o + 0x10900) 1 == 1, scales := .ofBytes (at_ (o + 0x10000) 0x800), map := .ofBytes (at_ (o + 0x10800) 0x100),
        bad := x.1.bad }
    window := .ofBytes (slabBytes ++ at_ win rest)
    cr := (w.cr.foldl (fun (a : List CrBank × Nat) b =>
      if b.held then (a.1 ++ [⟨true, .ofBytes (at_ a.2 0x4000), field bs (a.2 + 0x4000) 2, b.bad⟩], a.2 + 0x4040) else (a.1 ++ [b], a.2))
      ([], cr)).1
    ydeadline := 0 }

end Sys2Proof.Machine
end

