-- ==== Sys2Proof/Machine/System.lean ====
section
/-! DEFINITION. The SYSTEM class but for contexts (R318 to R325, R332 to R345): system registers, traps and returns, yield,
sleep, TLB invalidation, the watchdog. -/

namespace Sys2Proof.Machine

/-! System registers (R320). -/

/-- The STENCIL of the queue of a thread's task (R320, R280). -/
def State.taskStencil (s : State) (w : Workgroup) (th : Thread) : Word64 :=
  match th.task with
  | some e => (((s.ctx w.ctx).tqs[e.queue]?).map (·.stencil)).getD 0
  | none => 0

/-- The workgroup signature at a copy's last point (R365, R320). -/
def Workgroup.lastSig (w : Workgroup) : Word64 :=
  match w.redun with
  | some r => (r.sigs.lookup r.point).getD 0
  | none => 0

/-- The value of a system register for a thread. -/
def State.sysReg (s : State) (w : Workgroup) (t : Nat) (th : Thread) (n : Nat) : Word64 :=
  let x := s.ctx w.ctx
  match n with
  | 0x00 => BitVec.ofNat 64 t
  | 0x01 => BitVec.ofNat 64 w.g
  | 0x02 => BitVec.ofNat 64 (coreX w.core)
  | 0x03 => BitVec.ofNat 64 (coreY w.core)
  | 0x04 => BitVec.ofNat 64 (t % 32)
  | 0x05 => BitVec.ofNat 64 w.ctx
  | 0x06 => if w.secure then 1 else 0
  | 0x07 => if th.priv then 1 else 0
  | 0x08 => th.fpctl.setWidth 64
  | 0x09 => BitVec.ofNat 64 w.ydeadline
  | 0x0A => (s.lrOf w).param
  | 0x0B => BitVec.ofNat 64 s.clk
  | 0x0C => s.taskStencil w th
  | 0x10 => th.trap.cause.setWidth 64
  | 0x11 => th.trap.addr
  | 0x12 => th.trap.pc
  | 0x13 => th.trap.cls
  | 0x14 => th.trap.meet
  | 0x15 => th.trap.link
  | 0x16 => th.trap.pred.setWidth 64
  | 0x17 => th.trap.scr.getD 0 0
  | 0x18 => th.trap.scr.getD 1 0
  | 0x19 => th.trap.scr.getD 2 0
  | 0x1A => th.trap.scr.getD 3 0
  | 0x20 => x.dbgctl.setWidth 64
  | 0x21 => x.dbgstep
  | 0x22 => x.dbgbp.getD 0 0
  | 0x23 => x.dbgbp.getD 1 0
  | 0x24 => x.dbgbp.getD 2 0
  | 0x25 => x.dbgbp.getD 3 0
  | 0x28 => w.lastSig &&& 0xFFFFFFFF
  | 0x29 => w.lastSig >>> 32
  | 0x2A => BitVec.ofNat 64 x.wdcount
  | _ => 0

/-- Registers marked control (R320). -/
def sysControl (n : Nat) : Bool := decide (0x10 ≤ n)

/-- Registers of 64 bits (R320). -/
def sysWide (n : Nat) : Bool :=
  decide (0x09 ≤ n ∧ n ≤ 0x0C) || decide (0x11 ≤ n ∧ n ≤ 0x15) || decide (0x17 ≤ n ∧ n ≤ 0x1A) ||
    decide (0x21 ≤ n ∧ n ≤ 0x25) || n == 0x2A

/-- DBGCTL as an MTS leaves it (R335, R336): halt := 1 halts the context, halt := 0 lets its threads go on. -/
def State.writeDbgctl (s : State) (n : Nat) (v : Word) : State :=
  let put := fun c : Context => { c with dbgctl := (v &&& 0xFB) ||| (c.dbgctl &&& 0x104) }
  let s := s.updCtx n put
  if v.getLsbD 1 then s.haltCtx n else s.updCtx n fun c => { c with dbgctl := c.dbgctl &&& ~~~ 0x4 }

/-- An MTS as it lands: reserved bits ignore writes (R320, R321). -/
def State.writeSys (s : State) (u t n : Nat) (v : Word64) : State :=
  match s.wg? u with
  | none => s
  | some w =>
    let trap := fun f : TrapRegs → TrapRegs => s.updThread u t fun th => { th with trap := f th.trap }
    match n with
    | 0x08 => s.updThread u t fun th => { th with fpctl := v.setWidth 32 &&& fpctlMask }
    | 0x10 => trap fun r => { r with cause := v.setWidth 32 &&& 0x800000FF }
    | 0x11 => trap fun r => { r with addr := v }
    | 0x12 => trap fun r => { r with pc := v &&& 0xFFFFFFFFFFFF }
    | 0x13 => trap fun r => { r with cls := v &&& 0x800FFFFFFFFFFFFF }
    | 0x14 => trap fun r => { r with meet := v &&& 0x8000FFFFFFFFFFFF }
    | 0x15 => trap fun r => { r with link := v }
    | 0x16 => trap fun r => { r with pred := v.setWidth 32 &&& 0xFE }
    | 0x17 => trap fun r => { r with scr := r.scr.set 0 v }
    | 0x18 => trap fun r => { r with scr := r.scr.set 1 v }
    | 0x19 => trap fun r => { r with scr := r.scr.set 2 v }
    | 0x1A => trap fun r => { r with scr := r.scr.set 3 v }
    | 0x20 => s.writeDbgctl w.ctx (v.setWidth 32)
    | 0x21 => s.updCtx w.ctx fun c =>
        { c with dbgstep := v &&& 0xFFFFFFF, dbgctl := if v.toNat / 2^24 % 16 = 0 then c.dbgctl else c.dbgctl &&& ~~~ 0x100 }
    | 0x22 => s.updCtx w.ctx fun c => { c with dbgbp := c.dbgbp.set 0 (v &&& 0xFFFFFFFFFFFC) }
    | 0x23 => s.updCtx w.ctx fun c => { c with dbgbp := c.dbgbp.set 1 (v &&& 0xFFFFFFFFFFFC) }
    | 0x24 => s.updCtx w.ctx fun c => { c with dbgbp := c.dbgbp.set 2 (v &&& 0xFFFFFFFFFFFC) }
    | 0x25 => s.updCtx w.ctx fun c => { c with dbgbp := c.dbgbp.set 3 (v &&& 0xFFFFFFFFFFFC) }
    | _ => s

/-- A system register as an MFS samples it: one with an outstanding MTS of the thread reads old or new (R29, R344). -/
def State.sysValue (s : State) (w : Workgroup) (t n : Nat) : Word64 :=
  match w.threads[t]? with
  | none => 0
  | some th =>
    s.pend.foldl (fun v q =>
      if q.wg = w.uid then
        match q.sys.find? fun e => e.1 == t && e.2.1 == n with
        | some _ => if Config.seesNew s.fresh t (128 * q.id + 72 + n) then
            (((q.sys.foldl (fun s e => if e.1 = t ∧ e.2.1 = n then s.writeSys w.uid t n e.2.2 else s) s).wg? w.uid).bind
              fun w => (w.threads[t]?).map fun th => s.sysReg w t th n).getD v
          else v
        | none => v
      else v) (s.sysReg w t th n)

/-- The image of a home wave that MFS writes whole (R321). -/
def mfsImg (n : Nat) (val : Nat → Word64) (hw : Nat) : Option (RegImg × RegImg) :=
  let v := val (32 * hw)
  if n = 0x00 ∨ n = 0x04 then some (.a (v.setWidth 32) 1, .u 0)
  else if [0x01, 0x02, 0x03, 0x05, 0x06, 0x0A, 0x0B].contains n then
    some (.u (v.setWidth 32), .u ((v >>> 32).setWidth 32))
  else none

/-- Active threads at program level, and the others (R318). -/
def State.userThreads (s : State) (c : Issue) (ts : List Nat) : List Nat :=
  ts.filter fun t => !(((s.thread? c.wg t).map (·.priv)).getD false)

def State.controlThreads (s : State) (c : Issue) (ts : List Nat) : List Nat :=
  ts.filter fun t => ((s.thread? c.wg t).map (·.priv)).getD false

/-- MFS (R321, R344); the trailing copy of a pair takes CLK, MESHX and MESHY from the leading one (R350). -/
def execMfs (g : Guard) (d : RegCode) (n : BitVec 6) (s : State) : Host.Outcome State Fault Refusal :=
  s.issue fun c s =>
    match s.wg? c.wg with
    | none => s
    | some w =>
      let k := n.toNat
      let ts := active s c g
      let bad := if sysControl k then s.userThreads c ts else []
      let ok := ts.filter (!bad.contains ·)
      let fwd := w.paired && [0x02, 0x03, 0x0B].contains k
      if fwd && s.fwdStalls w ok then s.reissue c
      else
        let vals := ok.map fun t => (t, if fwd && w.trailing then
            BitVec.ofNat 64 (leNat (((w.nextFwd t).map (·.2)).getD [])) else s.sysValue w t k)
        let val := fun t => (vals.lookup t).getD 0
        let s := if fwd then ok.foldl (fun s t => s.forward w t (BitVec.ofNat 64 (2^63 + k)) (toBytes 8 (val t).toNat)) s else s
        let regs := if sysWide k then pairWrites ok d.toNat val (mfsImg k val)
          else regWrites ok d.toNat (fun t => (val t).setWidth 32) fun hw => (mfsImg k val hw).map (·.1)
        (fixed s c ok 4 regs).raiseAll c bad PERMISSION 0

/-- MTS (R321, R344). -/
def execMts (g : Guard) (a : Src) (n : BitVec 6) (s : State) : Host.Outcome State Fault Refusal :=
  s.issue fun c s =>
    let k := n.toNat
    let ts := active s c g
    let bad := if sysControl k then s.userThreads c ts else []
    let ok := ts.filter (!bad.contains ·)
    let val := fun t => if sysWide k then src64 s c a t else (src s c a t).setWidth 64
    (s.addPend 4 { Pend.none_ c.wg ok with sys := ok.map fun t => (t, k, val t) }).raiseAll c bad PERMISSION 0

/-! Entering the handler (R323, R340). -/

/-- TRAP (R340): the return point is the next header. -/
def execTrap (g : Guard) (k : BitVec 6) (s : State) : Host.Outcome State Fault Refusal :=
  s.issue fun c s => (active s c g).foldl (fun s t => s.deliver c.wg t ⟨SOFTWARE, k.setWidth 64, c.next, 0⟩) s

/-- DBRK (R340, R336): nothing when dbrken = 0. -/
def execDbrk (g : Guard) (k : BitVec 6) (s : State) : Host.Outcome State Fault Refusal :=
  s.issue fun c s =>
    match s.wg? c.wg with
    | none => s
    | some w =>
      if !(s.ctx w.ctx).dbgctl.getLsbD 3 then s
      else
        let r : TrapRec := if c.last then ⟨DEBUG, k.setWidth 64, c.next, 0⟩
          else ⟨DEBUG, k.setWidth 64, c.addr, clsOf c.hdr (c.idx + c.len)⟩
        (active s c g).foldl (fun s t => s.debugEvent c.wg t w.ctx r) s

/-- SCALL in one thread (R340): it waits for no result. -/
def State.scall (s : State) (c : Issue) (w : Workgroup) (k t : Nat) : State :=
  let vec := (s.ctx w.ctx).desc.scallvec
  if vec = 0 ∨ ((s.thread? c.wg t).map (·.priv)).getD false then s.stopContext c.wg t SOFTWARE
  else (s.leaveBundle c.wg t).updThread c.wg t fun th =>
    let th := th.enter (BitVec.ofNat 48 vec) 0 (BitVec.ofNat 64 k) (c.next.setWidth 64) 0 s.clk
    { th with trap := { th.trap with cause := BitVec.ofNat 32 (0x80000000 + k) } }

/-- SCALL (R340). -/
def execScall (g : Guard) (k : BitVec 6) (s : State) : Host.Outcome State Fault Refusal :=
  s.issue fun c s =>
    match s.wg? c.wg with
    | none => s
    | some w => (active s c g).foldl (fun s t => s.scall c w k.toNat t) s

/-- TRAP_ENTRY (R323): a fault enters the handler once the thread's writes have landed. -/
def fireTrapEntry (s : State) : Option State :=
  s.wgs.findSome? fun w => w.threads.zipIdx.findSome? fun p =>
    match p.1.st with
    | .trapping r => if s.outstanding w.uid p.2 then none else some (s.trapEnter w.uid p.2 r)
    | _ => none

def execTrapEntry (s : State) : Host.Outcome State Fault Refusal := .next ((fireTrapEntry s).getD s)

/-! Returning (R341). -/

/-- Whether a wait after arrival is still to be waited for (R179, R329). -/
def Workgroup.waitsOn (w : Workgroup) (x : Wait) : Bool :=
  match x with
  | .bar k ph => w.phase k == ph
  | .gsync => true
  | .commit p => ((w.redun.map fun r => decide (r.point < p))).getD false
  | _ => false

/-- A thread whose return leads back to a wait that WATCHDOG interrupted goes on waiting, without arriving again (R329,
R334). -/
def State.resumeWait (s : State) (u t : Nat) (i : Interrupted) : State :=
  let s := s.updThread u t fun th => { th with pc := i.pc, mid := i.mid }
  if ((s.wg? u).map (·.waitsOn i.wait)).getD false then s.block u t i.wait none else s.release u t

/-- ERET or SRET in one thread at control level. -/
def State.ret (s : State) (c : Issue) (eret : Bool) (t : Nat) : State :=
  match s.thread? c.wg t with
  | none => s
  | some th =>
    let mid := eret && th.trap.cls.getLsbD 63
    let s := if eret && th.trap.cause.toNat % 256 == REDUNMISMATCH then s.thawPartner c.wg else s
    let s := if mid then s.leaveBundle c.wg t else s
    let s := s.updThread c.wg t fun th =>
      let r := th.ret eret
      { r with skipBp := eret, wd := none, st := if mid then .ready else r.st, since := s.clk }
    match th.wd with
    | some i => if mid && th.trap.cls == i.cls then s.resumeWait c.wg t i else s
    | none => s

def returns (g : Guard) (eret : Bool) (s : State) : Host.Outcome State Fault Refusal :=
  s.issue fun c s =>
    let ts := active s c g
    ((s.controlThreads c ts).foldl (fun s t => s.ret c eret t) s).raiseAll c (s.userThreads c ts) PERMISSION 0

/-- ERET (R341). -/
def execEret (g : Guard) (s : State) : Host.Outcome State Fault Refusal := returns g true s

/-- SRET (R341). -/
def execSret (g : Guard) (s : State) : Host.Outcome State Fault Refusal := returns g false s

/-! Yield and sleep. -/

/-- Every unexited thread of a workgroup has yielded (R332). -/
def Workgroup.allYielded (w : Workgroup) : Bool := w.threads.all fun th => !th.unexited || match th.st with
  | .blocked (.yield _) => true
  | _ => false

/-- YIELD (R332, R342). What follows when every thread has yielded settles after the step. -/
def execYield (g : Guard) (a : RegCode) (s : State) : Host.Outcome State Fault Refusal :=
  s.issue fun c s =>
    match s.wg? c.wg with
    | none => s
    | some w =>
      let ts := active s c g
      if !(s.lrOf w).yields then s.raiseAll c ts ILLOP 0
      else if !w.ydeadline.testBit 63 then s
      else
        ts.foldl (fun s1 t => s1.block c.wg t (.yield (reg64 s c a t)) none) s

/-- YIELD_DEADLINE_EXPIRY (R332): the count is at 0 and no YIELD of this clk is left: the workgroup stops, to be saved in
full; its threads that yielded issue YIELD again. -/
def fireYieldDeadlineExpiry (s : State) : Option State :=
  if s.nextIssue.isSome then none else
  match s.wgs.find? fun w => w.yreq && w.ydeadline % 2^32 == 0 && !w.allYielded with
  | none => none
  | some w => some { (s.updWg w.uid fun w =>
      { w with yreq := false
               threads := w.threads.map fun th => match th.st with
                 | .blocked (.yield _) => (th.rewind).release s.clk
                 | .live => { th with st := .ready, since := s.clk }
                 | _ => th }) with bundles := s.bundles.filter (·.wg != w.uid) }

def execYieldDeadlineExpiry (s : State) : Host.Outcome State Fault Refusal := .next ((fireYieldDeadlineExpiry s).getD s)

/-- SLEEP (R343). -/
def execSleep (g : Guard) (a : Src) (s : State) : Host.Outcome State Fault Refusal :=
  s.issue fun c s =>
    (active s c g).foldl (fun s1 t =>
      let n := (src s c a t).toNat
      s1.block c.wg t (.sleep (s.clk + (if n = 0 then 4 else n))) none) s

/-- SLEEP_EXPIRY (R343). -/
def fireSleepExpiry (s : State) : Option State :=
  s.wgs.findSome? fun w => if !s.wgRuns w then none else w.threads.zipIdx.findSome? fun p =>
    match p.1.st with
    | .blocked (.sleep till) => if till ≤ s.clk then some (s.release w.uid p.2) else none
    | _ => none

def execSleepExpiry (s : State) : Host.Outcome State Fault Refusal := .next ((fireSleepExpiry s).getD s)

/-! TLBI (R345). -/

/-- An address in what an invalidation names: the pages of a context, or the page of an address. A store or atomic under way does
not keep its page's size, and one in the same 1 GiB counts as translated by it: the model's choice (log entry 67). -/
def tlbiHits (page : Option Nat) (size va : Nat) : Bool :=
  match page with
  | none => true
  | some a => va / size == a / size

/-- Accesses and commands of a context that hold a translation being invalidated: those issued before the invalidation, whose number is
`mark` (R345). -/
def State.tlbiWaits (s : State) (n : Nat) (page : Option Nat) (mark : Nat) : Bool :=
  let near := tlbiHits page (2^30)
  (s.wgs.any fun w => w.ctx == n && w.threads.any fun th => th.sq.any fun e => decide (e.seq < mark) && match e.act with
    | .memory va _ _ _ _ => near va
    | .spilled ws => ws.any fun x => near x.1
    | .release _ va _ _ _ _ => near va
    | .cctl _ _ => true
    | _ => false) ||
  (s.atoms.any fun a => decide (a.id < mark) && ((s.wg? a.wg).map (·.ctx == n)).getD false && near a.va) ||
  (s.cmds.any fun q => q.ctx == n && decide (q.id < mark) && q.xlate.any fun x => tlbiHits page (heldSize x) (4096 * x.1))

/-- The TLB entries of a context that an invalidation removes (R345). -/
def TlbEntry.gone (n : Nat) (page : Option Nat) (e : TlbEntry) : Bool := e.ctx == n && tlbiHits page e.size e.va

/-- TLBI (R345): once the stores of its threads are performed it writes back and invalidates, and then waits for what still holds such a
translation. -/
def execTlbi (g : Guard) (a : RegCode) (k : BitVec 1) (s : State) : Host.Outcome State Fault Refusal :=
  s.issue fun c s =>
    match s.wg? c.wg with
    | none => s
    | some w =>
      let ts := active s c g
      let ok := s.controlThreads c ts
      let bad := s.userThreads c ts
      if ok.isEmpty then s.raiseAll c bad PERMISSION 0 else
      let page := if k = 0 then none else some ((reg64 s c a (elect ok)).toNat % 2^48)
      match (s.bundle? c.bundle).bind (·.tlbi) with
      | none =>
        if !(s.groupReleased c.wg ok && ok.all (s.remoteDone c.wg)) then s.reissue c else
        let s := s.l1Release c.core
        let s := { s with tlb := s.tlb.filter (!·.gone w.ctx page) }
        if s.tlbiWaits w.ctx page s.nextId then (s.reissue c).updBundle c.bundle fun b => { b with tlbi := some s.nextId }
        else s.raiseAll c bad PERMISSION 0
      | some mark =>
        if s.tlbiWaits w.ctx page mark then s.reissue c
        else (s.updBundle c.bundle fun b => { b with tlbi := none }).raiseAll c bad PERMISSION 0

/-! The watchdog (R333, R334). -/

/-- A thread whose wait keeps the watchdog still: SLEEP, an external WAITV, ASGN (R333). -/
def Thread.outside (th : Thread) : Bool :=
  match th.st with
  | .blocked (.sleep _) => true
  | .blocked (.waitv _ _ _ e) => e
  | .blocked (.asgn ..) => true
  | _ => false

/-- An internally waiting thread (R333). -/
def State.waitsInside (s : State) (w : Workgroup) (th : Thread) : Bool :=
  !th.outside && (th.st == .held || s.isBlocked w th)

def wdLimit (c : Context) : Nat := if c.desc.wdlimit = 0 then 2^31 else c.desc.wdlimit

/-- Whether a context's count advances in a clk in which none of its threads issued (R333). -/
def State.wdAdvances (s : State) (n : Nat) : Bool :=
  let c := s.ctx n
  c.state == .running && !s.halted n && !s.issuedCtx.contains n &&
  (s.wgs.any fun w => w.ctx == n && w.threads.any Thread.unexited) &&
  !(s.wgs.any fun w => w.ctx == n && w.threads.any Thread.outside)

/-- `x` before `y`: oldest launch, lowest g, lowest home wave, lowest home lane (R334). -/
def wdBefore (x y : Workgroup × Nat × Thread) : Bool :=
  if x.1.launch ≠ y.1.launch then decide (x.1.launch < y.1.launch)
  else if x.1.g ≠ y.1.g then decide (x.1.g < y.1.g)
  else if x.1.uid ≠ y.1.uid then decide (x.1.uid < y.1.uid)
  else decide (x.2.1 < y.2.1)

/-- The thread of a context that takes WATCHDOG. -/
def State.wdVictim (s : State) (n : Nat) : Option (Workgroup × Nat × Thread) :=
  bestOf wdBefore ((s.wgs.filter (·.ctx == n)).flatMap fun w =>
    (w.threads.zipIdx.filter fun p => s.waitsInside w p.1).map fun p => (w, p.2, p.1))

/-- WATCHDOG in one thread: it stands at the waiting instruction; a wait after arrival, or the hold at a meet point, is kept for its
return (R329, R334). -/
def State.watchdog (s : State) (u t : Nat) (th : Thread) : State :=
  match th.st with
  | .blocked x =>
    let cls := clsOf th.here.hdr th.here.idx
    let keep := match x with
      | .bar .. => true
      | .gsync => true
      | .commit _ => true
      | _ => false
    (s.updThread u t fun th =>
      { th.rewind with wd := if keep then some ⟨x, cls, th.pc, th.mid⟩ else none }).raiseAt u t WATCHDOG 0
  | .held =>
    (s.updThread u t fun th => { th with st := .ready, wd := some ⟨.meet, clsOf th.pc 0, th.pc, none⟩ }).raiseAt u t WATCHDOG 0
  | _ => s.raiseAt u t WATCHDOG 0

/-- WATCHDOG (R334). -/
def fireWatchdog (s : State) : Option State :=
  (List.range 64).findSome? fun n =>
    let c := s.ctx n
    if wdLimit c ≤ c.wdcount then
      let s := s.updCtx n fun c => { c with wdcount := 0 }
      match s.wdVictim n with
      | some v => some (s.watchdog v.1.uid v.2.1 v.2.2)
      | none => some s
    else none

def execWatchdog (s : State) : Host.Outcome State Fault Refusal := .next ((fireWatchdog s).getD s)

end Sys2Proof.Machine
end

