-- ==== Sys2Proof/Machine/Context.lean ====
section
/-! DEFINITION. Contexts (R326 to R331, R385, R398): descriptors, saving and resuming, CTXSW, the host's commands, the swap
at the grid barrier (R270) and the restoring of workgroups. -/

namespace Sys2Proof.Machine

/-! The descriptor (R326). -/

def State.ctxDescBytes (s : State) (n : Nat) : List Byte := s.mem.read (s.ctxtab.toNat + 256 * n) 256

def parseDesc (bs : List Byte) : Desc :=
  { ptroot := field bs 0 8, save := field bs 8 8, savesize := field bs 0x10 8, trapvec := field bs 0x18 8,
    trapvecs := field bs 0x20 8, scallvec := field bs 0x28 8, cqtab := field bs 0x30 8, tqtab := field bs 0x38 8,
    lring := field bs 0x40 8, vspill := field bs 0x48 8, vspillsz := field bs 0x50 8, wdlimit := field bs 0x58 8,
    ygrace := field bs 0x60 4, prio := field bs 0x64 1, cflags := field bs 0x65 1,
    ext := (List.range 4).map fun i => (field bs (0x68 + 16 * i) 8, field bs (0x70 + 16 * i) 8) }

/-- The descriptor is valid for context `n` (R326): the conditions are the rule's three. No rule reads PRIO. -/
def State.descOk (s : State) (n : Nat) (bs : List Byte) : Bool :=
  let f := field bs 0x65 1
  f.testBit 0 && f / 4 == 0 && zeroAt bs 0x66 2 && zeroAt bs 0xB0 80 &&
  (f.testBit 1 || !((s.ctx n).saved.any (·.secure) || s.launches.any fun l => l.ctx == n && !l.complete && l.lr.secure))

/-! Tables read at a resume (R185, R186, R272, R274, R398). -/

/-- A page translated for read and write, as the device holds it. -/
def State.heldPage (s : State) (n va : Nat) : Option Nat :=
  match s.devTranslate n .read va, s.devTranslate n .write va with
  | .ok l, .ok _ => some l.pa
  | _, _ => none

/-- Pages from `va` on, or the virtual address of each that fails. -/
def State.heldPages (s : State) (n va k : Nat) : Except (List Nat) (List Nat) :=
  let ps := (List.range k).map fun i => (va + 4096 * i, s.heldPage n (va + 4096 * i))
  match ps.filter (·.2.isNone) with
  | [] => .ok (ps.filterMap (·.2))
  | bad => .error (bad.map (·.1))

/-- Records of held translations that failed (R398). -/
def State.recordStructs (s : State) (n : Nat) (vas : List Nat) : State := vas.foldl (fun s va => s.recordStruct n va) s

/-- A copy queue as its entry at a physical address stands (R186, R187), with the pages of its ring that failed. -/
def State.loadCq (s : State) (n pa : Nat) : CopyQueue × List Nat :=
  let bs := s.pkgRead pa 64
  let size := field bs 8 1
  let q : CopyQueue :=
    { enabled := false, entryPa := pa, size := size, pages := [], head := BitVec.ofNat 32 (field bs 0x10 4),
      tail := BitVec.ofNat 32 (field bs 0x14 4), done := BitVec.ofNat 32 (field bs 0x18 4), prog := field bs 0x1C 4,
      err := field bs 0x20 4 }
  if !(decide (4 ≤ size ∧ size ≤ 12) && zeroAt bs 0x0A 6 && zeroAt bs 0x24 28 && decide (field bs 9 1 < 2)) then (q, [])
  else match s.heldPages n (field bs 0 8) ((64 * 2^size + 4095) / 4096) with
    | .error vas => (q, vas)
    | .ok ps => ({ q with enabled := field bs 9 1 == 1, pages := ps }, [])

/-- A task queue as its entry stands (R274). -/
def State.loadTq (s : State) (pa : Nat) (old : TaskQueue) : TaskQueue :=
  let bs := s.pkgRead pa 64
  let size := field bs 8 1
  let home := field bs 0x0A 1
  let ondie := field bs 0x0C 2
  let ok := decide (4 ≤ size ∧ size ≤ 16) && decide (home ≤ 63) && decide (1 ≤ ondie ∧ ondie ≤ 4096) && decide (field bs 9 1 < 2) &&
    zeroAt bs 0x0B 1 && zeroAt bs 0x0E 2 && zeroAt bs 0x38 8
  { enabled := ok && field bs 9 1 == 1, entryPa := pa, ring := field bs 0 8, size := size, home := home, ondie := ondie,
    sbaddr := field bs 0x10 8, rhead := BitVec.ofNat 32 (field bs 0x18 4), rtail := BitVec.ofNat 32 (field bs 0x1C 4),
    puts := BitVec.ofNat 32 (field bs 0x20 4), taken := BitVec.ofNat 32 (field bs 0x24 4),
    refused := BitVec.ofNat 32 (field bs 0x28 4), err := field bs 0x2C 4, stencil := BitVec.ofNat 64 (field bs 0x30 8), die := [],
    claim := old.claim, evalDue := false, evalAt := s.clk }

/-- The launch ring as its header stands, or why it is absent: the addresses to record (R272). -/
def State.loadRing (s : State) (n : Nat) : Except (List Nat) LaunchRing :=
  let va := (s.ctx n).desc.lring
  match s.heldPage n va with
  | none => .error [va]
  | some pa =>
    let bs := s.pkgRead pa 64
    let size := field bs 8 1
    if !(decide (2 ≤ size ∧ size ≤ 12) && zeroAt bs 9 7 && zeroAt bs 0x18 40) then .error [va]
    else match s.heldPages n (field bs 0 8) ((256 * 2^size + 4095) / 4096) with
      | .error vas => .error vas
      | .ok ps => .ok ⟨true, pa, ps, size, BitVec.ofNat 32 (field bs 0x10 4), BitVec.ofNat 32 (field bs 0x14 4)⟩

/-- The copy-queue table. -/
def State.loadCqs (s : State) (n : Nat) : State :=
  (List.range 16).foldl (fun s k =>
    let va := (s.ctx n).desc.cqtab + 64 * k
    let put := fun (s : State) (q : CopyQueue) => s.updCtx n fun c => { c with cqs := c.cqs.set k q }
    match s.heldPage n va with
    | none => put (s.recordStruct n va) .off
    | some pa => let q := s.loadCq n pa; put (s.recordStructs n q.2) q.1) s

/-- The task-queue table. -/
def State.loadTqs (s : State) (n : Nat) : State :=
  (List.range 64).foldl (fun s k =>
    let va := (s.ctx n).desc.tqtab + 64 * k
    match s.heldPage n va with
    | none => (s.recordStruct n va).updCtx n fun c => { c with tqs := c.tqs.modify k fun q => { TaskQueue.off with claim := q.claim } }
    | some pa => s.updCtx n fun c => { c with tqs := c.tqs.modify k (s.loadTq pa) }) s

def State.loadLring (s : State) (n : Nat) : State :=
  match s.loadRing n with
  | .error vas => (s.recordStructs n vas).updCtx n fun c => { c with ring := .absent }
  | .ok r =>
    let s := s.updCtx n fun c => { c with ring := r }
    match (s.ctx n).kept with
    | some k => (s.updCtx n fun c => { c with kept := none }).ringTail n k.1 k.2
    | none => s

/-! Saving (R328 to R332). -/

/-- Matrix operations of a workgroup that are pending. -/
def State.npend (s : State) (u : Nat) : Nat := (s.ops.filter (·.wg == u)).length

def State.recordOf (s : State) (w : Workgroup) : List Byte := w.record (s.lrOf w).raw (s.npend w.uid)

/-- The task entries that are on the die, each queue's in order (R279, R331). -/
def Context.entries (c : Context) : List (Nat × TaskEntry) := c.tqs.zipIdx.flatMap fun q => q.1.die.map fun x => (q.2, x.entry)

def saveEntry (x : Nat × TaskEntry) : List Byte := entryBytes x.2 ++ toBytes 1 x.1 ++ zeros 15

/-- The offset at which the workgroup records begin. -/
def Context.recordsAt (c : Context) : Nat := 4096 + roundUp (48 * c.entries.length) 4096

/-- Bytes that the save area of a context would use. -/
def State.saveSize (s : State) (n : Nat) (ws : List Workgroup) : Nat :=
  (s.ctx n).recordsAt + sumNat (ws.map fun w => (s.recordOf w).length)

/-- Registers that a YIELD mask does not keep read 0; one that no thread of a home wave keeps has tag U (R332). -/
def Workgroup.maskRegs (w : Workgroup) : Workgroup :=
  let keeps := fun (t v : Nat) => match (w.threads[t]?).map (·.st) with
    | some (.blocked (.yield m)) => m.getLsbD v
    | _ => false
  { w with waves := w.waves.zipIdx.map fun x => x.1.zipIdx.map fun r =>
      let ls := (List.range 32).map fun j => keeps (32 * x.2 + j) r.2
      if ls.all id then r.1
      else if ls.all (!·) then .u 0
      else .g ((List.range 32).map fun j => if ls.getD j false then r.1.lane j else 0) }

/-- A resident workgroup as a save would write it. -/
def Workgroup.toSave (w : Workgroup) : Workgroup := if w.yielded then w.maskRegs else w

/-- All the workgroups a save would hold. -/
def State.allWgs (s : State) (n : Nat) : List Workgroup := (s.ctx n).saved ++ (s.wgs.filter (·.ctx == n)).map Workgroup.toSave

/-- A save of a context as it stands would pass SAVESIZE (R331). -/
def State.passesSize (s : State) (n : Nat) : Bool := decide ((s.ctx n).desc.savesize < s.saveSize n (s.allWgs n))

/-- Workgroups of a context that are asked to yield before a save (R332). -/
def State.asks (s : State) (n : Nat) : Bool := s.wgs.any fun w => w.ctx == n && (s.lrOf w).yields

/-- A save is begun (R327, R332). Threads stop, but for those of launches with YIELD, which are asked to yield first: the context is SAVING
only once they have, when the size of the save is known. -/
def State.beginSave (s : State) (n : Nat) (toStopped host : Bool) : State :=
  let s := (s.freezeCtx n).updCtx n fun c => { c with saving := some ⟨toStopped, host⟩ }
  if toStopped || !s.asks n then s.setCtxState n .saving else
  { s with wgs := s.wgs.map fun w =>
      if w.ctx = n ∧ (s.lrOf w).yields then { w with yreq := true, ydeadline := 2^63 + (s.ctx n).desc.ygrace } else w }

/-- The save of an unhandled fault that would pass SAVESIZE: the context stands STOPPED and resident at once (R324, R327). -/
def State.saveRefused (s : State) (n : Nat) : Bool :=
  (s.ctx n).state == .saving && ((s.ctx n).saving.map (·.toStopped)).getD false && !(s.ctx n).resident && s.passesSize n

/-- A command holds sectors that it has not written. -/
def State.owns (s : State) (c : Cmd) : Bool := s.owned.any fun o => o.2 == Owner.cmd c.id && !s.engSent c.id o.1

/-- Where a copy of a context that is being saved stops (R188): where it stands at a multiple of 128 bytes, or waits, or is not under way
at all. One that has moved all its bytes finishes, and those before an HSUM go on (R328). -/
def State.copyStops (s : State) (c : Cmd) : Bool :=
  !s.awaited c && (c.started || s.owns c || !c.out.isEmpty || c.seg % 128 != 0) &&
  (if isCopy c.kind then
    !(c.started && decide (c.segs ≤ c.seg) && s.inFront c) &&
    (!c.started || !s.inFront c || c.seg % 128 == 0 || s.segWaits c) && !(c.out.any fun x => s.engHeld c (sectorOf x.1))
  else c.kind == .wload)

/-- A copy stops (R188): what it has moved is written, bytes behind the last multiple of 128 are to be moved again, its saturations are
counted, and it keeps no other state and no sector. -/
def State.stopCopy (s : State) (c : Cmd) : State :=
  if !isCopy c.kind then s.updCmd c.id fun c => { c with started := false } else
  let seg := if c.segs ≤ c.seg then c.seg else c.seg / 128 * 128
  let s := s.flushOut c fun _ => true
  let s : State := match c.filled with
    | some (u, n, _) => s.updTile u n fun x : Tile => if x.st = .filling then { x with arrived := x.arrived - (c.seg - seg) } else x
    | none => s
  let s : State := s.countSat c.wg (bTile c.block) c.sat.1 c
  let s : State := if !(c.accepted && ((s.cq? c.ctx c.queue).map fun q => q.done == c.num).getD false) then s
    else s.updCq c.ctx c.queue fun q => { q with prog := Cmd.progress { c with out := [] } seg }
  (s.updCmd c.id fun c => { c with started := false, seg := seg, held := [], out := [], sat := (0, 0), sectors := [], fills := [] }).disown
    c.id fun _ => true

/-- What stops at once in a save (R328): open transactions abort with PREEMPT, copies stop and give up their sectors. -/
def State.settleStops (s : State) : State :=
  ((List.range 64).filter fun n => (s.ctx n).state == .saving && !s.saveRefused n).foldl (fun s n =>
    let s := (s.wgs.filter (·.ctx == n)).foldl (fun s w => w.threads.zipIdx.foldl (fun s p =>
      if p.1.tx.active then s.abortTx w.uid p.2 4 0 0 else s) s) s
    (s.cmds.filter fun c => c.ctx == n && s.copyStops c).foldl (fun s c => s.stopCopy c) s) s

/-- A command whose context is being saved and that nothing is left to do for: waves run on, and what has not started stays (R188, R328). -/
def Cmd.quiet (c : Cmd) : Bool := isWave c.kind || c.kind == .hsum || (!c.started && c.out.isEmpty)

/-- Nothing of a context is left to drain (R328). -/
def State.saveReady (s : State) (n : Nat) : Bool :=
  (s.ctx n).state == .saving && (s.ctx n).saving.isSome &&
  let ws := s.wgs.filter (·.ctx == n)
  let us := ws.map (·.uid)
  ws.all (fun w => !w.yreq && w.threads.all fun th => th.sq.isEmpty && match th.st with
    | .trapping _ => false
    | _ => true) &&
  !(s.pend.any fun p => us.contains p.wg) && !(s.atoms.any fun a => us.contains a.wg) &&
  !(s.ops.any fun o => us.contains o.wg && match o.st with
    | .running _ => true
    | _ => false) &&
  !(s.puts.any fun p => !p.host && us.contains p.wg && p.till.isNone) && !(s.launchReqs.any fun q => if q.host then q.ctx == n else us.contains q.wg) &&
  !(s.migrations.any fun m => us.contains m.wg) && !(s.ralpex.any fun r => us.contains r.wg) &&
  !(s.mirrors.any fun m => us.contains m.1) && !(s.hsums.any fun q => us.contains q.wg) &&
  (s.cmds.all fun c => c.ctx != n || (c.quiet && !(s.ralpex.any (·.cmd == some c.id))))

/-- Where a thread stands once its workgroup is saved (R328, R329). -/
def Thread.saved (th : Thread) (yielded : Bool) (clk : Nat) : Thread :=
  let th := if th.tx.active then (th.abortTx 4 0 0).release clk else th
  match th.st with
  | .blocked (.bar ..) => { th with wake := none }
  | .blocked .gsync => th
  | .blocked (.commit _) => { th with wake := none }
  | .blocked (.yield _) => if yielded then th.release clk else (th.rewind).release clk
  | .blocked _ => (th.rewind).release clk
  | .live => { th with st := .ready, since := clk }
  | _ => th

/-- The thread's waiting QPUTW puts and requests are withdrawn (R328, R329). -/
def State.withdraw (s : State) (u : Nat) : State :=
  let ps := s.puts.filter fun p => p.wg == u && !p.host && p.till.isSome
  let s := (ps.foldl (fun s p => (s.dropPut p).countDown u [p.tidx] .v p.id) s).abandonMerges u
  { s with
    crReqs := s.crReqs.filter (·.wg != u)
    bundles := s.bundles.filter (·.wg != u)
    launches := s.launches.map fun l => { l with tokenQueue := l.tokenQueue.filter (·.1 != u) } }

/-- A workgroup leaves its core for the save area (R328): requests and leases are given up, dirty sectors written back. -/
def State.saveWg (s : State) (w : Workgroup) : State :=
  let s := (((s.withdraw w.uid).l1Release w.core).surrender w.uid)
  let s := w.threads.zipIdx.foldl (fun s p => if p.1.tx.active then s.dropToken w.uid p.2 else s) s
  match s.wg? w.uid with
  | none => s
  | some w =>
    let x := { w.toSave with
      threads := w.threads.map (·.saved w.yielded s.clk), lserr := s.lserr w.ctx w.core, yreq := false }
    { s with wgs := s.wgs.filter (·.uid != w.uid) }.updCtx w.ctx fun c => { c with saved := c.saved ++ [x] }

/-- The tables as the device writes them back (R186, R274). -/
def State.writeTables (s : State) (n : Nat) : State :=
  let s := (s.ctx n).cqs.foldl (fun s q => if q.entryPa = 0 then s else
    s.pkgWrite (q.entryPa + 0x10) (toBytes 4 q.head.toNat ++ toBytes 4 q.tail.toNat ++ toBytes 4 q.done.toNat ++ toBytes 4 q.prog ++
      toBytes 4 q.err)) s
  (s.ctx n).tqs.foldl (fun s q => if q.entryPa = 0 then s else
    s.pkgWrite (q.entryPa + 0x18) (toBytes 4 q.rhead.toNat ++ toBytes 4 q.rtail.toNat ++ toBytes 4 q.puts.toNat ++
      toBytes 4 q.taken.toNat ++ toBytes 4 q.refused.toNat ++ toBytes 4 q.err ++ toBytes 8 q.stencil.toNat)) s

/-- Workgroup records written one after the other. -/
def State.writeRecords (s : State) (a : Nat) (recs : List (List Byte)) : State :=
  (recs.foldl (fun (r : State × Nat) b => (r.1.pkgWrite r.2 b, r.2 + b.length)) (s, a)).1

/-- A save area of task entries and of a context's saved workgroups: header, entries, records (R331). -/
def State.writeArea (s : State) (n : Nat) (es : List (Nat × TaskEntry)) : State :=
  let c := s.ctx n
  let recs := c.saved.map s.recordOf
  let at_ := 4096 + roundUp (48 * es.length) 4096
  let used := at_ + sumNat (recs.map List.length)
  let s := s.pkgWrite c.desc.save (toBytes 4 recs.length ++ toBytes 4 es.length ++ toBytes 8 used ++ zeros 4080)
  let s := if es.isEmpty then s else s.pkgWrite (c.desc.save + 4096) (es.flatMap saveEntry)
  s.writeRecords (c.desc.save + at_) recs

/-- The save area of a context whose workgroups are all saved. -/
def State.writeImage (s : State) (n : Nat) : State := s.writeArea n (s.ctx n).entries

/-- The outcome word of CTXSW and CTXRES (R346, R385). -/
def outcome (st : CtxState) (o : Nat) : Nat := st.code + o * 2^8

/-- The save ends: every CTXSW that waits for it, and the host's command, get its outcome. -/
def State.endSave (s : State) (n o : Nat) (host : Bool) : State :=
  let word := outcome (s.ctx n).state o
  let ws := s.wgs.flatMap fun w => w.threads.zipIdx.filterMap fun p => match p.1.st with
    | .blocked (.ctxsw m d) => if m = n then some (w.uid, p.2, d) else none
    | _ => none
  let s := ws.foldl (fun s x => (s.release x.1 x.2.1).addPend 0
    { Pend.none_ x.1 [x.2.1] with regs := regWrites [x.2.1] x.2.2 (fun _ => BitVec.ofNat 32 word) noImg }) s
  if host then { s with ctxres := BitVec.ofNat 64 (2^63 + word), hostCmd := false }.irq 6 else s

/-- Every workgroup and queue of a context into its save area. -/
def State.saveAll (s : State) (n : Nat) : State :=
  let s := (s.wgs.filter (·.ctx == n)).foldl (fun s w => s.saveWg w) s
  let s := (s.writeTables n).writeImage n
  s.updCtx n fun c =>
    { c with
      lserr := [], released := c.tqs.zipIdx.map fun q => (q.2, q.1.die.map QTask.released)
      tqs := c.tqs.map fun q => { q with die := [] } }

/-- A workgroup of a context whose save was refused goes on. -/
def Workgroup.refused (w : Workgroup) (clk : Nat) : Workgroup :=
  { w with yreq := false, yielded := false, ydeadline := 0, threads := w.threads.map fun th => match th.st with
    | .blocked (.yield _) => th.release clk
    | _ => th }

/-- A save whose workgroups have all yielded, or have been stopped at their deadline (R332), begins (R327), or would pass SAVESIZE: nothing
is written, and the context goes on (R331). Nothing that a save holds grows while the context is SAVING. -/
def State.settleYields (s : State) : State :=
  let s := if s.wgs.any (·.yreq) then
      { s with wgs := s.wgs.map fun w : Workgroup =>
          if w.yreq && w.allYielded then { w with yielded := w.threads.any (·.unexited), yreq := false } else w }
    else s
  ((List.range 64).filter fun n => (s.ctx n).state == .running && (s.ctx n).saving.isSome &&
      !(s.wgs.any fun w => w.ctx == n && w.yreq)).foldl (fun s n =>
    if !s.passesSize n then s.setCtxState n .saving else
    let host := ((s.ctx n).saving.map (·.host)).getD false
    let s := { s with wgs := s.wgs.map fun w : Workgroup => if w.ctx = n then w.refused s.clk else w }
    (s.updCtx n fun c => { c with saving := none }).endSave n 3 host) s

/-- CONTEXT_SAVE_COMPLETE (R328, R324). The save of an unhandled fault that would pass SAVESIZE writes nothing: the context stands STOPPED
and resident. -/
def State.finishSave (s : State) (n : Nat) : State :=
  match (s.ctx n).saving with
  | none => s
  | some v =>
    let stopped := v.toStopped
    let refused := s.saveRefused n
    let s := s.updCtx n fun c => { c with saving := none }
    if !refused then
      let s := (s.saveAll n).updCtx n fun c => { c with resident := false, status := setBit c.status 40 false }
      let s := s.setCtxState n (if stopped then .stopped else .saved)
      let s := if stopped then s.irq 0 else s
      s.endSave n 0 v.host
    else
      let s := (s.updCtx n fun c => { c with resident := true, status := setBit c.status 40 true }).setCtxState n .stopped
      (s.irq 0).endSave n 3 v.host

def fireContextSaveComplete (s : State) : Option State :=
  ((List.range 64).find? fun n => s.saveRefused n || s.saveReady n).map s.finishSave

def execContextSaveComplete (s : State) : Host.Outcome State Fault Refusal := .next ((fireContextSaveComplete s).getD s)

/-! Resuming (R326, R327, R330). -/

/-- Tasks that were released before the save stay so (R285). -/
def keepReleased (old : List Bool) (die : List QTask) : List QTask :=
  die.zipIdx.map fun x => { x.1 with released := x.1.released || old.getD x.2 false }

/-- Workgroup records and task entries as the save area holds them. -/
def State.loadImage (s : State) (n : Nat) : State :=
  let c := s.ctx n
  let base := c.desc.save
  let k := s.mem.readNat (base + 4) 4
  let es := (List.range k).map fun i => s.mem.read (base + 4096 + 48 * i) 48
  let r := c.saved.foldl (fun (r : List Workgroup × Nat) w =>
    let len := (s.recordOf w).length
    (r.1 ++ [w.load (s.npend w.uid) (s.mem.read r.2 len)], r.2 + len)) ([], base + 4096 + roundUp (48 * k) 4096)
  s.updCtx n fun c =>
    { c with
      saved := r.1, released := []
      tqs := ((es.foldl (fun ts b => ts.modify (field b 0x20 1) fun q =>
        { q with die := q.die ++ [q.qtask (entryOf b (field b 0x20 1))] }) c.tqs).zipIdx).map fun q =>
          { q.1 with die := keepReleased ((c.released.lookup q.2).getD []) q.1.die } }

/-- The command at index DONE goes on from PROG (R186, R188). -/
def Cmd.resume (c : Cmd) (q : Option CopyQueue) : Cmd :=
  match q with
  | some q => if isCopy c.kind && c.accepted && c.num == q.done && decide (c.seg < c.segs) then { c with seg := q.prog, due := 0 } else c
  | none => c

/-- Commands go on from PROG, and ownership of the destination sectors that they have not written is taken again (R163, R188). -/
def State.retake (s : State) (n : Nat) : State :=
  let s := { s with cmds := s.cmds.map fun c : Cmd => if c.ctx = n then c.resume (s.cq? n c.queue) else c }
  (s.cmds.filter (·.ctx == n)).foldl (fun s c => s.own c c.seg) s

/-- The outcome of a resume: 0 OK, 1 BUSY, 2 BADSTATE (R346), and the state it leaves. -/
def State.resume (s : State) (n : Nat) : Nat × State :=
  let c := s.ctx n
  if c.state = .saving then (1, s)
  else if c.state = .running ∨ c.resident ∨ s.ctxtab = 0 ∨ !((List.range 4).all fun i => s.dieLive (64 + i)) then (2, s)
  else
    let bs := s.ctxDescBytes n
    if !s.descOk n bs then (2, s)
    else
      let first := c.state == .empty
      let s := s.updCtx n fun c =>
        { c with
          desc := parseDesc bs, status := 0, wdcount := 0
          dbgctl := if first then 0 else c.dbgctl, dbgstep := if first then 0 else c.dbgstep
          dbgbp := if first then [0, 0, 0, 0] else c.dbgbp }
      let s := s.setCtxState n .running
      let s := ((s.loadCqs n).loadTqs n).loadLring n
      (0, if first then s else (s.loadImage n).retake n)

/-- A thread restored on its core: a wait for a phase that has passed ends (R329). -/
def Workgroup.wakeThread (w : Workgroup) (clk : Nat) (th : Thread) : Thread :=
  match th.st with
  | .blocked (.bar k ph) => if w.phase k = ph then th else { th with wake := some clk }
  | _ => { th with since := clk, notBefore := clk }

/-- A blank that stands in the save area holds granules of no core. -/
def View.nowhere (v : View) : View :=
  { v with store := match v.store with
      | .local_ _ m => .local_ 1024 m
      | x => x }

/-- One blank of a workgroup that is restored finds granules of its core, or room in the spill area (R302, R310). -/
def State.replaceBlank (s : State) (u core : Nat) (v : View) : State :=
  match s.wg? u, v.store with
  | some w, .local_ _ m =>
    let n := viewBytes v.desc
    if roundUp n 4096 ≤ s.lsFree core then s.updView u v.entry fun v => { v with store := .local_ core m }
    else match (s.ctx w.ctx).spillTake 0 (roundUp n 4096) 4096 with
      | none => s.updView u v.entry fun v => { v with store := .local_ core m }
      | some x =>
        let va := (s.ctx w.ctx).desc.vspill + x.1
        let s := ((s.updCtx w.ctx fun _ => x.2).spillWrite w.ctx va (m.read 0 n)).updView u v.entry
          fun v => { v with store := .spill x.1 true }
        -- commands that use the blank find it where it stands now
        let pages := (spillPages va n).filterMap fun p => match s.devTranslate w.ctx .write p with
          | .ok l => some (heldLeaf p l)
          | .error _ => none
        { s with cmds := s.cmds.map fun c => if c.wg = u ∨ c.rwg = u then { c with xlate := c.xlate ++ pages } else c }
  | _, _ => s

/-- A workgroup back on a core (R330): its threads see no copy in that L1 older than what they have seen (R159). -/
def State.restoreOn (s : State) (w : Workgroup) (core : Nat) : State :=
  let age := s.nextId
  let slot := s.freeSlot core
  let s := s.l1Acquire core
  let s := if w.lserr.getLsbD 63 && !(s.lserr w.ctx core).getLsbD 63 then s.setLserr w.ctx core w.lserr else s
  let x := { w with core := core, slot := slot, age := age, yreq := false, yielded := false, ydeadline := 0,
                    threads := w.threads.map (w.wakeThread s.clk), views := w.views.map View.nowhere }
  let s := s.bump.updCtx w.ctx fun c => { c with saved := c.saved.filter (·.uid != w.uid) }
  let s := ({ s with wgs := s.wgs ++ [x] } : State).dieTrim (dieOf core)
  (w.views.foldl (fun (s : State) v => s.replaceBlank w.uid core v) s).rerequest x

/-- The blanks of a workgroup find granules of a core, or room in the spill area (R310). -/
def State.blankRoom (s : State) (w : Workgroup) (core : Nat) : Bool :=
  let ns := w.views.filterMap fun v => match v.store with
    | .local_ .. => some (roundUp (viewBytes v.desc) 4096)
    | _ => none
  decide (w.lsbytes + sumNat ns ≤ s.lsFree core) || ((s.ctx w.ctx).reserve 0 ns).isSome

/-- Where a saved workgroup can go: for a pair, with its partner. -/
def State.restorable (s : State) (w : Workgroup) : Option (List (Workgroup × Nat)) :=
  if w.gparked then none else
  let r := s.lrOf w
  match w.redun with
  | none => (r.cores.find? fun c => s.roomOn c w.need && s.blankRoom w c).map fun c => [(w, c)]
  | some d =>
    if d.trailing then none else
    match (s.ctx w.ctx).saved.find? (·.uid == d.partner) with
    | none => (r.cores.find? fun c => s.roomOn c w.need && s.blankRoom w c).map fun c => [(w, c)]
    | some v => (r.cores.find? fun c => s.roomOn c w.need && s.roomOn (r.partner c) v.need && s.blankRoom w c &&
        s.blankRoom v (r.partner c)).map fun c => [(w, c), (v, r.partner c)]

/-- Saved workgroups in ascending g (R270). -/
def Context.savedByG (c : Context) : List Workgroup :=
  (sortNat (c.saved.map (·.g)).eraseDups).flatMap fun g => c.saved.filter (·.g == g)

/-- WORKGROUP_RESTORE (R330, R270). -/
def fireWorkgroupRestore (s : State) : Option State :=
  (List.range 64).findSome? fun n => if !s.dispatches n then none else
    ((s.ctx n).savedByG.findSome? s.restorable).map fun l => l.foldl (fun s x => s.restoreOn x.1 x.2) s

def execWorkgroupRestore (s : State) : Host.Outcome State Fault Refusal := .next ((fireWorkgroupRestore s).getD s)

/-! The swap at the grid barrier (R270). -/

/-- Workgroups of a launch still wait for room: unstarted ones, or saved ones the barrier has released. -/
def State.wantsRoom (s : State) (l : Launch) : Bool :=
  l.pending.isSome || (s.ctx l.ctx).saved.any fun w => w.launch == l.id && !w.gparked

/-- A parked workgroup that can be saved within SAVESIZE, with its partner. -/
def State.swapVictim (s : State) (l : Launch) : Option (List Workgroup) :=
  if !l.lr.coop || l.complete || !s.dispatches l.ctx || !s.wantsRoom l then none else
  (s.wgs.filter (·.launch == l.id)).findSome? fun w =>
    let pair := match w.redun with
      | none => [w]
      | some r => w :: (s.wg? r.partner).toList
    if !w.trailing && pair.all s.swappable &&
        decide (4096 + sumNat (((s.ctx l.ctx).saved ++ pair).map fun w => (s.recordOf w).length) ≤ (s.ctx l.ctx).desc.savesize) then
      some pair else none

/-- GSYNC_SWAP_OUT: the save area with its header and no task entries, which stay on the die (R270, R331). -/
def fireGsyncSwapOut (s : State) : Option State :=
  s.launches.findSome? fun l => (s.swapVictim l).map fun ws =>
    let us := ws.map (·.uid)
    let s := ws.foldl (fun s w => s.saveWg w) s
    let s := s.updCtx l.ctx fun c =>
      { c with saved := c.saved.map fun w => if us.contains w.uid then { w with gparked := true } else w }
    s.writeArea l.ctx []

def execGsyncSwapOut (s : State) : Host.Outcome State Fault Refusal := .next ((fireGsyncSwapOut s).getD s)

/-! CTXSW and CTXCMD (R346, R385). -/

/-- A save asked for: its outcome at once, or the state in which it has begun. -/
def State.askSave (s : State) (n : Nat) (host : Bool) : Except Nat State :=
  let c := s.ctx n
  if c.state = .saving ∨ c.saving.isSome then .error 1
  else if c.state = .running then
    -- what workgroups that yield do not save is known when they have yielded (R332)
    (if !s.passesSize n || s.asks n then .ok (s.beginSave n false host) else .error 3)
  else if c.resident then
    let d := parseDesc (s.ctxDescBytes n)
    let s := s.updCtx n fun c => { c with desc := { c.desc with save := d.save, savesize := d.savesize } }
    if !s.passesSize n then .ok (s.beginSave n true host) else .error 3
  else .error 2

/-- A secure-capable context, as its device copy says, or for a resume the descriptor in memory. -/
def State.secureCtx (s : State) (n k : Nat) : Bool :=
  (s.ctx n).desc.cflags.testBit 1 || (k == 1 && s.ctxtab != 0 && (field (s.ctxDescBytes n) 0x65 1).testBit 1)

/-- The result of CTXSW in the threads `ts`. -/
def ctxResult (s : State) (c : Issue) (ts : List Nat) (d n o : Nat) : State :=
  fixed s c ts (4 + Config.latency s.fresh) (regWrites ts d (fun _ => BitVec.ofNat 32 (outcome (s.ctx n).state o)) noImg)

/-- CTXSW (R346). -/
def execCtxsw (g : Guard) (d : RegCode) (a : Src) (k : BitVec 2) (s : State) : Host.Outcome State Fault Refusal :=
  s.issue fun c s =>
    match s.wg? c.wg with
    | none => s
    | some w =>
      let ts := active s c g
      let ok := s.controlThreads c ts
      let s0 := s.raiseAll c (s.userThreads c ts) PERMISSION 0
      if ok.isEmpty then s0 else
      let n := (src s c a (elect ok)).toNat % 64
      if s.secureCtx n k.toNat && !w.secure then s0.raiseAll c ok WORLD 0
      else if k = 2 then ctxResult s0 c ok d.toNat n 0
      else if k = 1 then
        let r := s0.resume n
        ctxResult r.2 c ok d.toNat n r.1
      else if n = w.ctx then ctxResult s0 c ok d.toNat n 4
      else match s0.askSave n false with
        | .error o => ctxResult s0 c ok d.toNat n o
        | .ok s1 => ok.foldl (fun s t => s.block c.wg t (.ctxsw n d.toNat) none) s1

/-- A host command is done: CTXRES and vector 6. -/
def State.hostDone (s : State) (n o : Nat) : State :=
  { s with ctxres := BitVec.ofNat 64 (2^63 + outcome (s.ctx n).state o), hostCmd := false }.irq 6

/-- A write to CTXCMD (R385): ignored while a command is in progress. -/
def hostCommand (n k : Nat) (secure : Bool) (s : State) : State :=
  if s.hostCmd then s else
  let s := { s with ctxres := 0, hostCmd := true, ctxcmd := BitVec.ofNat 64 (k * 2^8 + n) }
  if s.ctxtab = 0 then s.hostDone n 2
  else if k ≠ 2 ∧ s.secureCtx n k ∧ !secure then s.hostDone n 5
  else if k = 2 then s.hostDone n 0
  else if k = 1 then
    let r := s.resume n
    r.2.hostDone n r.1
  else match s.askSave n true with
    | .error o => s.hostDone n o
    | .ok s => s

/-- CTXCMD_SAVE. -/
def execCtxcmdSave (ctx : BitVec 6) (secure : Bool) (s : State) : Host.Outcome State Fault Refusal :=
  .next (hostCommand ctx.toNat 0 secure s)

/-- CTXCMD_RESUME. -/
def execCtxcmdResume (ctx : BitVec 6) (secure : Bool) (s : State) : Host.Outcome State Fault Refusal :=
  .next (hostCommand ctx.toNat 1 secure s)

/-- CTXCMD_QUERY. -/
def execCtxcmdQuery (ctx : BitVec 6) (secure : Bool) (s : State) : Host.Outcome State Fault Refusal :=
  .next (hostCommand ctx.toNat 2 secure s)

/-- DOORBELL (R272). -/
def execDoorbell (ctx : BitVec 6) (secure : Bool) (tail : BitVec 64) (s : State) : Host.Outcome State Fault Refusal :=
  .next (s.ringDoorbell ctx.toNat secure tail)

end Sys2Proof.Machine
end

