-- ==== Sys2Proof/Machine/Dense.lean ====
section
/-! DEFINITION. The dense pipe, the scan unit and the epilogue (R247 to R259): operand maps, MMA and MMAG, NZSCAN, EPI, and
CRWR. -/

namespace Sys2Proof.Machine

/-! Operand maps (R248, R249). -/

def mapTile (m : Word64) : Nat := m.toNat % 2^6
def mapT (m : Word64) : Bool := m.toNat.testBit 8
def mapType (m : Word64) : Nat := m.toNat / 2^9 % 8
def mapRow0 (m : Word64) : Nat := m.toNat / 2^12 % 2^12
def mapCol0 (m : Word64) : Nat := m.toNat / 2^24 % 2^12
def mapRstep (m : Word64) : Nat := m.toNat / 2^36 % 2^8

/-- Element bytes of a map type. -/
def typeBytes (ty : Nat) : Nat := if ty = 0 then 8 else if ty = 1 then 4 else 2

def typeFmt (ty : Nat) : Fmt :=
  match ty with
  | 0 => f64 | 1 => f32 | 2 => f16 | _ => bf16

/-- Group size, rate and largest K of a type (R247). -/
def typeGroup (ty : Nat) : Nat := if ty = 0 then 1 else if ty = 1 then 4 else 8
def typeRate (ty : Nat) : Nat := if ty = 0 then 128 else if ty = 1 then 256 else 1024
def typeMaxK (ty : Nat) : Nat := if ty = 0 then 16 else if ty = 1 then 32 else 128

/-- The tile row and column of X[r][c]. -/
def mapAt (m : Word64) (r c : Nat) : Nat × Nat :=
  if mapT m then (mapRow0 m + mapRstep m * c, mapCol0 m + r) else (mapRow0 m + mapRstep m * r, mapCol0 m + c)

/-- An element position inside a tile (R135). -/
def Tile.holds (x : Tile) (p : Nat × Nat) : Bool := decide (p.1 < descRows x.desc) && decide (p.2 < descPitch x.desc / descSize x.desc)

/-- OMAP (R249). -/
def execOmap (g : Guard) (a : RegCode) (k : BitVec 3) (s : State) : Host.Outcome State Fault Refusal :=
  s.issue fun c s =>
    match s.wg? c.wg with
    | none => s
    | some w =>
      let ts := active s c g
      let m := reg64 s c a (elect ts)
      if ts.isEmpty then s
      else if 4 ≤ mapType m then s.raiseAll c ts FMTBAD 0
      else if w.tiles.length ≤ mapTile m ∨ mapRstep m = 0 ∨ m.toNat / 2^44 ≠ 0 ∨ m.toNat / 2^6 % 4 ≠ 0 then
        s.raiseAll c ts TILEBAD (mapTile m)
      else s.updWg c.wg fun w => { w with omaps := w.omaps.set k.toNat (some m) }

/-! MMA and MMAG (R250 to R255). -/

def dM (b : List Byte) : Nat := field b 2 1
def dN (b : List Byte) : Nat := field b 3 1
def dK (b : List Byte) : Nat := field b 4 2
def dCbank (b : List Byte) : Nat := field b 6 1
def dZero (b : List Byte) : Bool := (field b 7 1).testBit 0
def dCoff (b : List Byte) : Nat := field b 8 2
def dCld (b : List Byte) : Nat := field b 0x0A 2
def dItile (b : List Byte) : Nat := field b 0x0C 1
def dKoff (b : List Byte) : Nat := field b 0x0E 2

/-- What a tile that a dense operation reads makes of a lane. -/
def readTile (w : Workgroup) (n : Nat) : LaneOp :=
  match w.tiles[n]? with
  | none => .fault TILEBAD n
  | some x => if x.st = .free ∨ x.view.isSome then .fault TILEBAD n else if x.st ≠ .ready then .park (.ready n) else .go

/-- The first fault, else the first park, of several tiles (R251). -/
def firstTile (w : Workgroup) (ns : List Nat) : LaneOp :=
  let fs := ns.map (readTile w)
  match fs.find? fun f => match f with | .fault .. => true | _ => false with
  | some f => f
  | none => (fs.find? fun f => match f with | .park _ => true | _ => false).getD .go

/-- The tiles an operation reads. -/
def mmaTiles (gather_ : Bool) (b : List Byte) (ma mb : Word64) : List Nat :=
  [mapTile ma, mapTile mb] ++ (if gather_ then [dItile b % 64] else [])

/-- Fields and geometry (R251): single fields by their offsets, then the conditions of several. -/
def mmaFields (w : Workgroup) (gather_ : Bool) (b : List Byte) (ma mb : Word64) : Option Nat :=
  let ty := mapType ma
  let width := if ty = 0 then 2 else 1
  let tile := fun (m : Word64) (f : Tile → Bool) => ((w.tiles[mapTile m]?).map f).getD false
  let runs := matrixRuns (4096 * dCbank b + dCoff b) (dM b) (dN b) (dCld b) width
  firstFail [
    (decide (field b 0 1 < 8), 0), (decide (field b 1 1 < 8), 1), (decide (1 ≤ dM b ∧ dM b ≤ 64), 2),
    (decide (1 ≤ dN b ∧ dN b ≤ 64), 3), (decide (1 ≤ dK b ∧ dK b ≤ typeMaxK ty), 4), (decide (dCbank b < 16), 6),
    (decide (field b 7 1 < 2), 7), (decide (dCoff b < 4096), 8), (decide (dN b ≤ dCld b), 0x0A),
    (if gather_ then decide (dItile b < 64) else dItile b == 0, 0x0C), (zeroAt b 0x0D 1, 0x0D),
    (if gather_ then decide (dKoff b < 4096) else dKoff b == 0, 0x0E), (zeroAt b 0x10 48, 0x10),
    (mapType mb == ty, 1), (tile ma fun x => descSize x.desc == typeBytes ty, 0),
    (tile mb fun x => descSize x.desc == typeBytes ty, 1),
    (gather_ || tile ma fun x => x.holds (mapAt ma (dM b - 1) (dK b - 1)), 0),
    (tile mb fun x => x.holds (mapAt mb ((if gather_ then dKoff b else 0) + dK b - 1) (dN b - 1)), 1),
    (ty != 0 || dCoff b % 2 == 0, 8),
    (runs.all (fun r => decide (r.1 + r.2 ≤ 65536)) && w.holdsRuns runs, 6)]

/-- A lane of MMA or MMAG after its block is read: its maps, or what stops it. -/
def mmaLane (w : Workgroup) (gather_ : Bool) (b : List Byte) : LaneOp × Word64 × Word64 :=
  match (w.omaps.getD (field b 0 1 % 8) none), (w.omaps.getD (field b 1 1 % 8) none) with
  | none, _ => (.fault TILEBAD 0, 0, 0)
  | _, none => (.fault TILEBAD 1, 0, 0)
  | some ma, some mb =>
    match firstTile w (mmaTiles gather_ b ma mb) with
    | .go => match mmaFields w gather_ b ma mb with
      | some o => (.fault TILEBAD o, ma, mb)
      | none => (.go, ma, mb)
    | f => (f, ma, mb)

/-- MMA and MMAG: lanes in ascending home lane order (R251). -/
def mmaInstr (g : Guard) (a : RegCode) (k : MatKind) (s : State) : Host.Outcome State Fault Refusal :=
  s.issue fun c s =>
    let ts := byLane (active s c g)
    let addr := ts.map fun t => (t, reg64 s c a t)
    if s.counterFull c.wg ts .m || blocksWait s c.wg addr then s.reissue c else
    addr.foldl (fun s p =>
      match s.wg? c.wg with
      | none => s
      | some w =>
        match laneBlock s w p.1 p.2.toNat with
        | .error e => s.raise c p.1 e.1 e.2
        | .ok (_, some pa) => s.lanePoison w p.1 pa p.2
        | .ok (b, none) =>
          match mmaLane w (k == .mmag) b with
          | (.fault code x, _, _) => s.raise c p.1 code x
          | (.park q, _, _) => s.park c.wg p.1 q
          | (.go, ma, mb) => match s.leaseFate w 2 with
            | .lost => s.raise c p.1 LEASELOST 0
            | .wait n => s.leaseWait w p.1 2 n
            | .go =>
              let ns := mmaTiles (k == .mmag) b ma mb
              let o := { newOp s c p.1 k b with maps := [ma, mb], geo := w.geoOf ns }
              ns.foldl (fun s n => s.addReader c.wg n) (((s.seesReady c.wg ns).takeLease w 2).acceptOp o)) s

/-- MMA (R252). -/
def execMma (g : Guard) (a : RegCode) (s : State) : Host.Outcome State Fault Refusal := mmaInstr g a .mma s

/-- MMAG (R255). -/
def execMmag (g : Guard) (a : RegCode) (s : State) : Host.Outcome State Fault Refusal := mmaInstr g a .mmag s

/-- What stands for a poisoned element in an operation's data. -/
def poisonMark : Nat := 2^64

/-- Window addresses of an element of a tile (R135). -/
def elemAddrs (x : Tile) (p : Nat × Nat) : List Nat :=
  (descOffs x.desc p.1 (p.2 * descSize x.desc) (descSize x.desc)).map (descBase x.desc + ·)

def Workgroup.tileElem (w : Workgroup) (x : Tile) (p : Nat × Nat) : Nat :=
  let as := elemAddrs x p
  if (w.poisonAt as).isSome then poisonMark else leNat (as.map w.winByte)

/-- Logical word `k` of a tile in row-major order; none beyond it. -/
def Workgroup.tileWord (w : Workgroup) (x : Tile) (k : Nat) : Option Nat :=
  let per := descPitch x.desc / 4
  if descRows x.desc * per ≤ k then none else
  let as := (descOffs x.desc (k / per) (4 * (k % per)) 4).map (descBase x.desc + ·)
  some (if (w.poisonAt as).isSome then poisonMark else leNat (as.map w.winByte))

/-- The effective K (R252, R255). -/
def effectiveK (b : List Byte) (c : Option Nat) : Nat :=
  match c with
  | none => dK b
  | some c => if c = poisonMark then dK b else min (dK b) (c - dKoff b)

/-- A[i][p] of an MMAG: the element that the list names, +0 outside (R255). -/
def gatherElem (w : Workgroup) (x y : Tile) (ma : Word64) (b : List Byte) (i p : Nat) : Nat :=
  match w.tileWord y 0, w.tileWord y (1 + dKoff b + p) with
  | some c, some idx =>
    if c = poisonMark ∨ idx = poisonMark then poisonMark
    else let q := mapAt ma i idx; if x.holds q then w.tileElem x q else 0
  | _, _ => 0

/-- What a dense operation reads at its start: A by rows, B by rows, and the effective K (R251, R252, R255). -/
def MatOp.readDense (o : MatOp) (w : Workgroup) : List (List Nat) :=
  let b := o.blk
  let ma := o.maps.headD 0
  let mb := o.maps.getD 1 0
  match o.tile? (mapTile ma), o.tile? (mapTile mb) with
  | some x, some y =>
    let z := if o.kind = .mmag then o.tile? (dItile b) else none
    let k := effectiveK b (z.bind fun z => w.tileWord z 0)
    let a := (List.range (dM b)).flatMap fun i => (List.range k).map fun p =>
      match z with
      | some z => gatherElem w x z ma b i p
      | none => w.tileElem x (mapAt ma i p)
    [a, (List.range k).flatMap fun p => (List.range (dN b)).map fun j => w.tileElem y (mapAt mb (dKoff b + p) j), [k]]
  | _, _ => [[], [], [0]]

def MatOp.effK (o : MatOp) : Nat := (o.data.getD 2 []).headD 0

/-- The time of a dense operation (R253, R255). -/
def MatOp.denseTime (o : MatOp) : Nat :=
  let b := o.blk
  let ty := mapType (o.maps.headD 0)
  let r := typeRate ty
  20 + (roundUp (dM b) 8 * roundUp (dN b) 8 * roundUp o.effK (typeGroup ty) + r - 1) / r

/-- The dense operation of a die that starts next (R247). -/
def State.denseNext (s : State) (o : MatOp) : Bool :=
  o.dense && s.opStartable o &&
  let die := (s.opCore o).map dieOf
  decide (s.denseUsed (die.getD 0) < ((s.dies[die.getD 0]?).map (·.denseGrant)).getD 0) &&
  !(s.ops.any fun p => decide (p.id < o.id) && p.dense && s.opStartable p && (s.opCore p).map dieOf == die)

/-- Window addresses of logical word `k` of a tile. -/
def wordAddrs (x : Tile) (k : Nat) : List Nat :=
  let per := descPitch x.desc / 4
  if descRows x.desc * per ≤ k then [] else (descOffs x.desc (k / per) (4 * (k % per)) 4).map (descBase x.desc + ·)

/-- Window addresses of A[i][p] of an MMAG that lies in its tile. -/
def gatherAddrs (w : Workgroup) (x y : Tile) (ma : Word64) (b : List Byte) (i p : Nat) : List Nat :=
  match w.tileWord y (1 + dKoff b + p) with
  | some idx => let q := mapAt ma i idx; if idx ≠ poisonMark ∧ x.holds q then elemAddrs x q else []
  | none => []

/-- Window addresses that a dense operation reads, once its effective K is known. -/
def MatOp.denseAddrs (o : MatOp) (w : Workgroup) : List Nat :=
  let b := o.blk
  let ma := o.maps.headD 0
  let mb := o.maps.getD 1 0
  match o.tile? (mapTile ma), o.tile? (mapTile mb) with
  | some x, some y =>
    let z := if o.kind = .mmag then o.tile? (dItile b) else none
    ((List.range (dM b)).flatMap fun i => (List.range o.effK).flatMap fun p => match z with
      | some z => gatherAddrs w x z ma b i p
      | none => elemAddrs x (mapAt ma i p)) ++
    ((List.range o.effK).flatMap fun p => (List.range (dN b)).flatMap fun j => elemAddrs y (mapAt mb (dKoff b + p) j)) ++
    match z with
    | some z => wordAddrs z 0 ++ (List.range o.effK).flatMap fun p => wordAddrs z (1 + dKoff b + p)
    | none => []
  | _, _ => []

/-- MMA_START (R251). -/
def State.startMma (s : State) (o : MatOp) : State :=
  match s.wg? o.wg with
  | none => s
  | some w =>
    let o' := { o with data := o.readDense w }
    let s := s.updOp o.id fun o => { o with data := o'.data, st := .running (s.clk + o'.denseTime) }
    let s := (mmaTiles (o.kind == .mmag) o.blk (o.maps.headD 0) (o.maps.getD 1 0)).foldl (fun s n => s.dropReader o.wg n) s
    let addrs := o'.denseAddrs w
    ((s.lsRecord w false (addrs.map (o.tidx, ·))).winTouch w addrs).opPoison o addrs

def fireMmaStart (s : State) : Option State := (s.ops.find? s.denseNext).map s.startMma

def execMmaStart (s : State) : Host.Outcome State Fault Refusal := .next ((fireMmaStart s).getD s)

/-- One group sum, exact, added to an accumulator of FP32 (R55, R252). -/
def addGroup (f : Fmt) (acc : Nat) (ps : List (Nat × Nat)) : Nat :=
  let prods := ps.map fun p => (mulV (f.decode p.1) (f.decode p.2)).1
  match prods with
  | [] => acc
  | x :: xs => addF32 acc (f32.round 0 0 false false (xs.foldl (fun a y => (addV false a y).1) x)).bits

/-- The pairs of factors of one element of C, in ascending k. -/
def MatOp.factors (o : MatOp) (i j : Nat) : List (Nat × Nat) :=
  let a := o.data.getD 0 []
  let b := o.data.getD 1 []
  (List.range o.effK).map fun p => (a.getD (i * o.effK + p) 0, b.getD (p * dN o.blk + j) 0)

/-- A list in runs of `n`. -/
def runsOf (n : Nat) : Nat → List (Nat × Nat) → List (List (Nat × Nat))
  | 0, _ => []
  | k + 1, l => if l.isEmpty then [] else l.take n :: runsOf n k (l.drop n)

/-- An element of C from its accumulator (R252). -/
def MatOp.element (o : MatOp) (i j acc : Nat) : Nat :=
  let ty := mapType (o.maps.headD 0)
  let ps := o.factors i j
  let bad := ps.any fun p => p.1 == poisonMark || p.2 == poisonMark
  if ty = 0 then
    if bad then f64.nanBits
    else ps.foldl (fun acc p => (f64.round 0 0 false false (fmaV false (f64.decode p.1) (f64.decode p.2) (f64.decode acc)).1).bits) acc
  else if bad then f32.nanBits
  else (runsOf (typeGroup ty) ps.length ps).foldl (addGroup (typeFmt ty)) acc

/-- An entry, or a pair of entries with the low word first (R250). -/
def State.crValue (s : State) (o : MatOp) (f width : Nat) : Nat :=
  s.crEntry o f + (if width = 2 then 2^32 * s.crEntry o (f + 1) else 0)

def State.putValue (s : State) (o : MatOp) (f width x : Nat) : State :=
  let s := s.putEntry o f (x % 2^32)
  if width = 2 then s.putEntry o (f + 1) (x / 2^32) else s

/-- The entries of C written, once each. -/
def State.writeMma (s : State) (o : MatOp) : State :=
  let b := o.blk
  let width := if mapType (o.maps.headD 0) = 0 then 2 else 1
  ((List.range (dM b)).flatMap fun i => (List.range (dN b)).map fun j => (i, j)).foldl (fun s p =>
    let f := 4096 * dCbank b + dCoff b + width * (p.1 * dCld b + p.2)
    let unsound := !dZero b && (s.entryBad o f || (width == 2 && s.entryBad o (f + 1)))
    let s := if unsound then s.updOp o.id fun o => { o with bad := true } else s
    s.putValue o f width (if unsound then (if width = 2 then f64 else f32).nanBits
      else o.element p.1 p.2 (if dZero b then 0 else s.crValue o f width))) s

/-- MMA_COMPLETE (R252). -/
def fireMmaComplete (s : State) : Option State :=
  (s.ops.find? fun o => o.dense && o.due s.clk).map fun o => (s.writeMma o).endOp o

def execMmaComplete (s : State) : Host.Outcome State Fault Refusal := .next ((fireMmaComplete s).getD s)

/-! NZSCAN (R254). -/

def zSrc (e : Word64) : Nat := e.toNat % 2^6
def zDst (e : Word64) : Nat := e.toNat / 2^8 % 2^6
def zRow (e : Word64) : Nat := e.toNat / 2^16 % 2^12
def zCount (e : Word64) : Nat := e.toNat / 2^28 % 2^12 + 1
def zCol (e : Word64) : Nat := e.toNat / 2^40 % 2^12

/-- Slot elements that match a source size (R151, R254). -/
def scanElemOk (size elem : Nat) : Bool := if size = 8 then elem == 2 else tileElemOk size elem

/-- The checks of NZSCAN, for the elected thread. -/
def scanLane (s : State) (w : Workgroup) (e : Word64) (sl : Word64) : LaneOp :=
  let live := fun n => (w.tiles[n]?).bind fun x => if x.st = .free ∨ x.view.isSome then none else some x
  let x := live (zSrc e)
  let y := live (zDst e)
  if (x.map (·.st != .ready)).getD false then .park (.ready (zSrc e))
  else if zSrc e ≠ zDst e ∧ (y.map fun y => !s.fillable w.uid (zDst e) y).getD false then .park (.fill (zDst e))
  else if (x.map fun x => !(scanElemOk (descSize x.desc) (slotElem sl))).getD false || !slotResOk sl then .fault FMTBAD 0
  else
    let src := x.isNone || e.toNat / 2^52 != 0 || e.toNat / 2^14 % 4 != 0 || e.toNat / 2^6 % 4 != 0 || zSrc e == zDst e ||
      !((x.map fun x => x.holds (zRow e, zCol e + zCount e - 1)).getD true)
    let dst := y.isNone || (y.map fun y => decide (descRows y.desc * (descPitch y.desc / 4) < zCount e + 1)).getD false
    match lowestFault ((if src then [(TILEBAD, zSrc e)] else []) ++ (if dst then [(TILEBAD, zDst e)] else [])) with
    | some f => .fault f.1 f.2
    | none => .go

/-- NZSCAN: one scan for the bundle; every active thread counts it. -/
def execNzscan (g : Guard) (a : RegCode) (k : BitVec 3) (s : State) : Host.Outcome State Fault Refusal :=
  s.issue fun c s =>
    match s.wg? c.wg with
    | none => s
    | some w =>
      let ts := active s c g
      let e := reg64 s c a (elect ts)
      let sl := slotOf s c k.toNat
      if ts.isEmpty then s
      else if s.counterFull c.wg ts .m then s.reissue c
      else match scanLane s w e sl with
        | .fault code addr => s.raiseAll c ts code addr
        | .park p => ts.foldl (fun s t => s.park c.wg t p) s
        | .go =>
          let src := ((w.tiles[zSrc e]?).map (·.desc)).getD 0
          let o := { newOp s c (elect ts) .nzscan [] with slots := [sl], maps := [src], desc := e, tids := ts }
          ((s.seesReady c.wg [zSrc e, zDst e]).acceptOp o).updTile c.wg (zDst e) fun x => { x with st := .filling, arrived := 0, expected := 4 * (zCount e + 1) }

/-- A scan starts: it reads the elements of its source once, by the descriptor the tile had at issue. Nothing parks on a source
that waits to be scanned (R133, R149, R254). -/
def State.startScan (s : State) (o : MatOp) : State :=
  match s.wg? o.wg with
  | none => s
  | some w =>
      let x := { Tile.free with desc := o.maps.headD 0 }
      let ps := (List.range (zCount o.desc)).map fun k => (zRow o.desc, zCol o.desc + k)
      let addrs := ps.flatMap (elemAddrs x)
      let till := s.clk + 16 + 2 * ((zCount o.desc + 31) / 32)
      let s := s.updOp o.id fun o => { o with data := [ps.map (w.tileElem x)], st := .running till }
      ((s.lsRecord w false (addrs.map (o.tidx, ·))).winTouch w addrs).opPoison o addrs

/-- Scans whose unit is free start. -/
def State.settleScans (s : State) : State :=
  s.ops.foldl (fun s o => if o.kind == .nzscan && s.opStartable o then s.startScan o else s) s

/-- The destination words of a scan (R254); word 0 is all ones after an error in the source. -/
def MatOp.scanWords (o : MatOp) : List Nat :=
  let xs := o.data.headD []
  let elem := slotElem (o.slots.headD 0)
  let live := (xs.zipIdx.filter fun x => x.1 != poisonMark && !(elemVal elem x.1).isZero).map (·.2)
  let head := if xs.contains poisonMark then 0xFFFFFFFF else live.length
  head :: live ++ List.replicate (xs.length - live.length) 0xFFFFFFFF

/-- Bytes of a tile that an operation writes, by their offsets, wherever they stand (R303). -/
def State.opFill (s : State) (u t : Nat) (x : Tile) (os : List Nat) (bs : List Byte) : State :=
  match s.wg? u with
  | none => s
  | some w =>
    let ps := (os.map (spotOf s w x)).zip bs
    let s := s.localWrite u t (ps.filterMap fun p => match p.1 with | .win a => some (a, p.2) | _ => none)
    let s := ps.foldl (fun s p => match p.1 with
      | .spill va => s.spillWrite w.ctx va [p.2]
      | _ => s) s
    match x.view with
    | none => s
    | some e => s.updWg u (·.updView e fun v => match v.store with
        | .local_ k m => { v with store := .local_ k (m.writeCells (ps.filterMap fun p => match p.1 with
            | .blank _ o => some (o, p.2)
            | _ => none)) }
        | _ => v)

/-- NZSCAN_COMPLETE. -/
def State.finishScan (s : State) (o : MatOp) : State :=
  match s.tile? o.wg (zDst o.desc) with
  | none => s.endOp o
  | some x =>
    let ws := o.scanWords
    let per := descPitch x.desc / 4
    let os := (List.range ws.length).flatMap fun k => descOffs x.desc (k / per) (4 * (k % per)) 4
    ((s.opFill o.wg o.tidx x os (ws.flatMap (toBytes 4))).updTile o.wg (zDst o.desc) (·.arrive (4 * ws.length))).endOp o

def fireNzscanComplete (s : State) : Option State := (s.ops.find? fun o => o.kind == .nzscan && o.due s.clk).map s.finishScan

def execNzscanComplete (s : State) : Host.Outcome State Fault Refusal := .next ((fireNzscanComplete s).getD s)

/-! EPI (R256 to R258). -/

def eCbank (b : List Byte) : Nat := field b 0 1
def eSrc (b : List Byte) : Nat := field b 1 1
def eCoff (b : List Byte) : Nat := field b 2 2
def eM (b : List Byte) : Nat := field b 4 2
def eN (b : List Byte) : Nat := field b 6 2
def eCld (b : List Byte) : Nat := field b 8 2
def eTile (b : List Byte) : Nat := field b 0x0A 1
def eSlot (b : List Byte) : Nat := field b 0x0B 1
def eTrow (b : List Byte) : Nat := field b 0x0C 2
def eTcol (b : List Byte) : Nat := field b 0x0E 2
def eFlags (b : List Byte) : Nat := field b 0x10 1
def eSoff (b : List Byte) : Nat := field b 0x12 2
def eScale (b : List Byte) : Nat := field b 0x14 4
def eBaddr (b : List Byte) : Nat := field b 0x18 4
def eWidth (b : List Byte) : Nat := if eSrc b = 1 then 2 else 1

/-- Element bytes of a plain-mode code; none for another code. -/
def plainBytes (elem : Nat) : Option Nat :=
  if [0x10, 0x11, 0x40].contains elem then some 1
  else if [0x03, 0x04, 0x41].contains elem then some 2
  else if [0x01, 0x42].contains elem then some 4
  else if elem = 0x02 then some 8 else none

/-- A slot selects block mode, else plain mode (R256). -/
def blockMode (sl : Word64) : Bool := slotScale sl == 0x30 && slotBlock sl == 5 && anvFormat (slotElem sl)

def epiSlotOk (sl : Word64) (x : Tile) : Bool :=
  slotResOk sl && slotRoundOk sl &&
  (blockMode sl || (slotScale sl == 0 && plainBytes (slotElem sl) == some (descSize x.desc)))

/-- Bytes of a row's elements. -/
def epiRowBytes (b : List Byte) (sl : Word64) (x : Tile) : Nat :=
  if blockMode sl then eN b * anvWidth (slotElem sl) / 8 else eN b * descSize x.desc

/-- The first byte of a row's elements. -/
def epiCol (b : List Byte) (sl : Word64) (x : Tile) : Nat := if blockMode sl then eTcol b else eTcol b * descSize x.desc

/-- Bounds and reserved bits (R257). -/
def epiFields (b : List Byte) (sl : Word64) (x : Tile) : Option Nat :=
  let blk := blockMode sl
  firstFail [
    (decide (eCbank b < 16), 0), (decide (eSrc b < 3), 1), (decide (eCoff b < 4096) && (eSrc b != 1 || eCoff b % 2 == 0), 2),
    (decide (1 ≤ eM b ∧ eM b ≤ 64), 4),
    (decide (1 ≤ eN b ∧ eN b ≤ 4096 ∧ eM b * eN b ≤ 4096) && (!blk || eN b % 32 == 0), 6), (decide (eN b ≤ eCld b), 8),
    (decide (eTile b < 64), 0x0A), (decide (eSlot b < 8), 0x0B), (decide (eFlags b < 16), 0x10), (zeroAt b 0x11 1, 0x11),
    (blk || eSoff b == 0, 0x12), (zeroAt b 0x1C 36, 0x1C), (decide (eTrow b + eM b ≤ descRows x.desc), 0x0C),
    (decide (epiCol b sl x + epiRowBytes b sl x ≤ descPitch x.desc), 0x0E),
    (!blk || decide (eSoff b + eN b / 32 ≤ descPitch x.desc), 0x12)]

/-- The checks of a lane of EPI in the order of R257. -/
def epiLane (s : State) (w : Workgroup) (t : Nat) (b : List Byte) (sl : Word64) : LaneOp :=
  let n := eTile b % 64
  match w.tiles[n]? with
  | none => .fault TILEBAD n
  | some x =>
    if x.st = .free ∨ w.foreignTile t x then .fault TILEBAD n
    else if !s.fillable w.uid n x then .park (.fill n)
    else if !epiSlotOk sl x then .fault FMTBAD 0
    else match epiFields b sl x with
    | some o => .fault TILEBAD o
    | none =>
      let runs := matrixRuns (4096 * eCbank b + eCoff b) (eM b) (eN b) (eCld b) (eWidth b)
      if (eFlags b).testBit 1 ∧ eBaddr b % 4 ≠ 0 then .fault ALIGN (eBaddr b)
      else if !(runs.all (fun r => decide (r.1 + r.2 ≤ 65536)) && w.holdsRuns runs) then .fault TILEBAD 0
      else match x.view.bind w.view? with
        | some v => match v.store with
          | .spill off _ =>
            let va := (s.ctx w.ctx).desc.vspill + off
            let faults := (spillPages (va / 4096 * 4096) (va % 4096 + viewBytes v.desc)).filterMap fun p =>
              match s.access w .write (BitVec.ofNat 64 p) .any with
              | .error e => some (e, max va p)
              | .ok _ => none
            match lowestFault (faults ++ reachFault s w x) with
            | some f => .fault f.1 f.2
            | none => .go
          | _ => .go
        | none => .go

/-- Destination bytes of an epilogue (R257). -/
def epiBytes (b : List Byte) (sl : Word64) (x : Tile) : Nat :=
  eM b * (epiRowBytes b sl x + (if blockMode sl then eN b / 32 else 0))

/-- EPI: lanes in ascending home lane order. -/
def execEpi (g : Guard) (a : RegCode) (s : State) : Host.Outcome State Fault Refusal :=
  s.issue fun c s =>
    let ts := byLane (active s c g)
    let addr := ts.map fun t => (t, reg64 s c a t)
    if s.counterFull c.wg ts .m || blocksWait s c.wg addr then s.reissue c else
    addr.foldl (fun s p =>
      match s.wg? c.wg with
      | none => s
      | some w =>
        match laneBlock s w p.1 p.2.toNat with
        | .error e => s.raise c p.1 e.1 e.2
        | .ok (_, some pa) => s.lanePoison w p.1 pa p.2
        | .ok (b, none) =>
          let sl := slotOf s c (eSlot b % 8)
          match epiLane s w p.1 b sl with
          | .fault code x => s.raise c p.1 code x
          | .park q => s.park c.wg p.1 q
          | .go =>
            let o := { newOp s c p.1 .epi b with slots := [sl] }
            (((s.seesReady c.wg [eTile b]).reachTile w (eTile b)).acceptOp o).updTile c.wg (eTile b) fun x =>
              { x with st := .filling, arrived := 0, expected := epiBytes b sl x }) s

/-- EPI_START (R258): the bias values are read through read_local. -/
def State.startEpi (s : State) (o : MatOp) : State :=
  match s.wg? o.wg with
  | none => s
  | some w =>
    let b := o.blk
    let till := s.clk + 20 + (eM b * eN b + 31) / 32
    if (eFlags b).testBit 1 then
      let addrs := (List.range (4 * eN b)).map fun i => (eBaddr b + i) % 2^32
      let vals := (List.range (eN b)).map fun j =>
        let as := (List.range 4).map fun i => (eBaddr b + 4 * j + i) % 2^32
        if (w.poisonAt as).isSome then poisonMark else leNat (as.map w.winByte)
      let s := s.updOp o.id fun o => { o with data := [vals], st := .running till }
      (s.localRead o.wg o.tidx addrs).2.opPoison o addrs
    else s.updOp o.id fun o => { o with st := .running till }

def fireEpiStart (s : State) : Option State := (s.ops.find? fun o => o.kind == .epi && s.opStartable o).map s.startEpi

def execEpiStart (s : State) : Host.Outcome State Fault Refusal := .next ((fireEpiStart s).getD s)

/-- The exact value that an epilogue makes of an entry (R258). -/
def epiValue (b : List Byte) (x : Nat) (bias : Nat) : Val :=
  let v := match eSrc b with
    | 0 => f32.decode x
    | 1 => f64.decode x
    | _ => intVal (toInt 32 x)
  let v := if (eFlags b).testBit 0 then (mulV v (f32.decode (eScale b))).1 else v
  let v := if (eFlags b).testBit 1 then
      (if bias = poisonMark then .nan false else (addV false v (f32.decode bias)).1) else v
  if (eFlags b).testBit 2 && !v.isNan && v.sign then .zero false else v

/-- The values of row `i`. -/
def State.epiRow (s : State) (o : MatOp) (i : Nat) : List Val :=
  let b := o.blk
  (List.range (eN b)).map fun j =>
    let f := 4096 * eCbank b + eCoff b + eWidth b * (i * eCld b + j)
    if s.entryBad o f ∨ (eWidth b = 2 ∧ s.entryBad o (f + 1)) then .nan false
    else epiValue b (s.crValue o f (eWidth b)) ((o.data.headD []).getD j 0)

/-- An epilogue passes integers on (R52): INT32 entries, neither scaled nor biased. -/
def epiInts (b : List Byte) : Bool := eSrc b == 2 && !(eFlags b).testBit 0 && !(eFlags b).testBit 1

/-- 4-bit codes packed two to a byte, 8-bit ones a byte each (R216). -/
def packContainers (width : Nat) : List Nat → List Byte
  | [] => []
  | [x] => [BitVec.ofNat 8 x]
  | x :: y :: r => if width = 8 then BitVec.ofNat 8 x :: packContainers width (y :: r) else BitVec.ofNat 8 (x + 16 * y) :: packContainers width r

/-- The integer that a value is. -/
def Val.int (v : Val) : Int :=
  match v with
  | .num neg m e _ => if neg then -((m * 2^e.toNat : Nat) : Int) else (m * 2^e.toNat : Nat)
  | _ => 0

/-- A row's element bytes, its scale bytes, and how many elements saturated (R258). -/
def epiRowOut (sl : Word64) (ints : Bool) (i : Nat) (rho : Nat → Nat → BitVec 16) (size : Nat) (ys : List Val) : List Byte × List Byte × Nat :=
  let elem := slotElem sl
  if blockMode sl then
    let qs := (List.range (ys.length / 32)).map fun q =>
      let vs := (ys.drop (32 * q)).take 32
      let e := blockScale (emaxOf elem) vs
      (e, vs.zipIdx.map fun v => quantise elem (slotRound sl) (rho i (32 * q + v.2)).toNat (slotSat sl) v.1 e)
    let rs := qs.flatMap (·.2)
    (packContainers (anvWidth elem) (rs.map (·.bits)), qs.map (fun q => BitVec.ofNat 8 q.1), (rs.filter (·.sat)).length)
  else
    let rs := ys.zipIdx.map fun v =>
      if ints && !v.1.isNan then roundIntElem elem (slotRound sl) (rho i v.2).toNat (slotSat sl) v.1.int
      else roundElem elem (slotRound sl) (rho i v.2).toNat (slotSat sl) v.1
    (rs.flatMap fun r => toBytes size r.bits, [], (rs.filter (·.sat)).length)

/-- The tile's counter and trailer after saturations (R136). -/
def State.opSat (s : State) (u t n k : Nat) : State :=
  match s.tile? u n with
  | none => s
  | some x =>
    let y := x.addOvf k s.clk
    if k = 0 then s
    else
      let s := s.updTile u n fun x => x.addOvf k s.clk
      if y.ovf = x.ovf then s else s.opFill u t x ((List.range 4).map (descBytes x.desc + ·)) (trailerBytes y.ovf)

/-- The epilogue's rows written, the entries cleared with CLR, then the trailer. -/
def State.finishEpi (s : State) (o : MatOp) : State :=
  let b := o.blk
  let n := eTile b
  let sl := o.slots.headD 0
  match s.tile? o.wg n with
  | none => s.endOp o
  | some x =>
    let fresh := s.fresh
    let s := s.tickFree
    let outs := (List.range (eM b)).map fun i => (i, epiRowOut sl (epiInts b) i (Config.rho fresh) (descSize x.desc) (s.epiRow o i))
    let s := outs.foldl (fun s r =>
      let row := eTrow b + r.1
      let s := s.opFill o.wg o.tidx x (descOffs x.desc row (epiCol b sl x) r.2.1.length) r.2.1
      s.opFill o.wg o.tidx x (descOffs x.desc row (eSoff b) r.2.2.1.length) r.2.2.1) s
    let s := if o.runs.any fun r => (List.range r.2).any fun k => s.entryBad o (r.1 + k) then
      s.updOp o.id fun o => { o with bad := true } else s
    let s := if (eFlags b).testBit 3 then
        o.runs.foldl (fun s r => (List.range r.2).foldl (fun s k => s.putEntry o (r.1 + k) 0) s) s
      else s
    ((s.opSat o.wg o.tidx n (sumNat (outs.map (·.2.2.2)))).updTile o.wg n (·.arrive (epiBytes b sl x))).endOp o

/-- EPI_COMPLETE. -/
def fireEpiComplete (s : State) : Option State := (s.ops.find? fun o => o.kind == .epi && o.due s.clk).map s.finishEpi

def execEpiComplete (s : State) : Host.Outcome State Fault Refusal := .next ((fireEpiComplete s).getD s)

/-! CRWR (R259). -/

/-- The number from which on operations come after a bundle's CRWR: that at which it first came to issue. -/
def State.crwrMark (s : State) (c : Issue) : Nat := (((s.bundle? c.bundle).bind (·.crwr)).map (·.1)).getD s.nextId

/-- CRWR: it waits for the operations accepted before it; the highest active home lane's value remains in an entry that several
name. -/
def execCrwr (g : Guard) (d : RegCode) (a : Src) (k : BitVec 4) (s : State) : Host.Outcome State Fault Refusal :=
  s.issue fun c s =>
    match s.wg? c.wg with
    | none => s
    | some w =>
      let ts := active s c g
      let e := fun t => (src s c a t).toNat + t % 32
      let held := ((w.cr[k.toNat]?).map (·.held)).getD false
      let ok := sortNat (ts.filter fun t => held && decide (e t < 4096))
      let bad := ts.filter (!ok.contains ·)
      let runs := ok.map fun t => (4096 * k.toNat + e t, 1)
      let mark := s.crwrMark c
      if s.ops.any fun o => o.wg == c.wg && decide (o.id < mark) && runsOverlap o.runs runs then
        (s.reissue c).updBundle c.bundle fun b => { b with crwr := some (mark, runs) }
      else
        let s := s.updBundle c.bundle fun b => { b with crwr := none }
        let lanes := (List.range 32).flatMap fun j => ok.filter (· % 32 == j)
        let put := lanes.map fun t => (e t, (s.readReg c.wg t d.toNat).toNat)
        let s1 := s.updWg c.wg fun w => { w with cr := w.cr.modify k.toNat fun x => put.foldl (fun x p => x.put p.1 p.2) x }
        let cols := (ok.map fun t => e t / 32).eraseDups.length
        (if ok.isEmpty then s1 else s1.holdBundle c (8 + (cols - 1))).raiseAll c bad TILEBAD k.toNat

end Sys2Proof.Machine
end

