-- ==== Sys2Proof/Machine/Redundancy.lean ====
section
/-! DEFINITION. Commit points of redundant and screened workgroups (R351 to R357, R364, R365), the checkpoint mirror (R360,
R368), the error banks' instructions (R361, R362, R366), error injection (R367) and patrol scrub (R347). -/

namespace Sys2Proof.Machine

/-! Reaching a commit point (R352). -/

/-- A thread has arrived at commit point `p`, or has exited. -/
def Thread.arrivedAt (p : Nat) (th : Thread) : Bool :=
  !th.unexited || th.st == .blocked (.commit p) || ((th.wd.map (·.wait == .commit p)).getD false)

/-- Nothing of a copy is in flight that its checkpoint would have to hold. -/
def State.copyQuiet (s : State) (w : Workgroup) : Bool :=
  (w.threads.all fun th => th.sq.isEmpty) && !(s.pend.any (·.wg == w.uid)) && !(s.atoms.any fun a => a.wg == w.uid && a.result.isSome)

/-- The slack between copies: the leading one reaches point k only once the trailing one has reached k − 2. -/
def State.slackOk (s : State) (r : Redun) : Bool :=
  r.trailing || match (s.wg? r.partner).bind (·.redun) with
    | some q => decide (r.point + 1 ≤ q.point + 2)
    | none => true

/-- A copy reaches its next commit point: every unexited thread has arrived, or every thread has exited. -/
def State.reaches (s : State) (w : Workgroup) : Bool :=
  match w.redun with
  | none => false
  | some r =>
    s.wgRuns w && !r.final && (w.threads.all (Thread.arrivedAt (r.point + 1))) && s.copyQuiet w && s.slackOk r

/-- The workgroup signature (R351). -/
def Workgroup.signature (w : Workgroup) : Word64 := crc64 0 (w.threads.flatMap fun th => toBytes 8 th.sig.toNat)

/-- The copy at its next point: the signature recorded, the checkpoint taken, and the interval's counts begun anew. A workgroup that runs
once in a SCREEN launch has nothing to compare, and its point counts as matched (R351, R357). -/
def Workgroup.reach (w : Workgroup) (clk : Nat) : Workgroup :=
  match w.redun with
  | none => w
  | some r =>
    let k := r.point + 1
    let g := if r.inject then w.signature ^^^ 1 else w.signature
    let ths := w.threads.map fun th =>
      if th.unexited then { th with sig := 0, wake := if th.st = .blocked (.commit k) then some (clk + 8) else th.wake } else th
    let w := { w with threads := ths }
    { w with redun := some { r with
        point := k, sigs := (if r.solo then [] else r.sigs) ++ [(k, g)], inject := false, issued := [], final := !(ths.any Thread.unexited)
        matched := if r.solo then k else r.matched, injAt := if r.inject && !r.solo then k :: r.injAt else r.injAt
        checkpoints := if r.solo then [w.checkpoint k] else r.checkpoints ++ [w.checkpoint k] } }

/-! The comparison (R352 to R355, R357). -/

/-- A buffered atomic as it is performed after the match (R354): a reduction that the hearth takes goes on its way there. -/
def State.releaseAtom (s : State) (w : Workgroup) (t : Nat) (a : AtomOp) : State :=
  if atomPlace a.fields = 1 then { s with atoms := s.atoms ++ [{ a with due := s.clk }] }
  else (s.doAtomic w t a).2.2.countDown w.uid [t] .a a.id

/-- An entry of a matched interval can be performed: its sectors are free, and its thread's earlier writes are where it orders them (R163,
R353, R354). -/
def State.relReady (s : State) (w : Workgroup) (e : BufEntry) : Bool :=
  match e.act with
  | .store a => s.releaseReady w e.tidx a
  | .atomic a => atomPlace a.fields == 1 ||
      (!s.ownedBy (dieOf w.core) a.pa (atomSize a.fields) none && !s.sentTo w.core a.pa (atomSize a.fields))

/-- An entry released: a contained workgroup keeps its stores, until they overflow the slot or an atomic comes (R358). -/
def State.releaseEntry (s : State) (w : Workgroup) (e : BufEntry) : Option State :=
  let popped := s.updWg w.uid (·.updRedun fun r => { r with rel := r.rel.tail })
  if w.contained then
    match e.act with
    | .store a =>
      if s.containFull w.uid 1 then some (s.uncontain w.uid)
      else some (popped.updWg w.uid fun w => { w with contain := w.contain.map fun k => { k with buf := k.buf ++ [⟨e.tidx, 0, .store a⟩] } })
    | .atomic _ => some (s.uncontain w.uid)
  else if w.holding || !s.relReady w e then none
  else match e.act with
    | .store a => some (popped.performAct w e.tidx true a)
    | .atomic a => some (popped.releaseAtom w e.tidx a)

/-- The next entry of a matched interval performed (R353). -/
def State.releaseNext (s : State) : Option State :=
  s.wgs.findSome? fun w => ((w.redun.bind fun r => r.rel.head?).bind fun e => s.releaseEntry w e)

/-- Threads that waited for room in the slot go on (R353). -/
def Workgroup.freeSlotWaits (w : Workgroup) (clk : Nat) : Workgroup :=
  { w with threads := w.threads.map fun th => if th.st = .blocked .slot then th.release clk else th }

/-- A copy at matched point `k`. -/
def Workgroup.match_ (w : Workgroup) (k clk : Nat) : Workgroup :=
  (w.updRedun fun r =>
    { r with matched := k, rollbacks := 0, reexec := false, buf := r.buf.filter fun e => decide (k < e.point)
             atoms := r.atoms.filter fun a => decide (k < a.point), segs := r.segs.filter fun x => decide (k < x.1)
             checkpoints := r.checkpoints.filter fun c => decide (k ≤ c.point), sigs := r.sigs.filter fun x => decide (k ≤ x.1)
             bad := r.bad.filter fun x => decide (k < x), injAt := r.injAt.filter fun x => decide (k < x) }).freeSlotWaits clk

/-- Point `k` matched: the leading copy's interval is released, to be performed entry by entry. -/
def State.matchPoint (s : State) (u v k : Nat) (buf : List BufEntry) : State :=
  let s := (s.updWg u (·.match_ k s.clk)).updWg v (·.match_ k s.clk)
  let es := buf.filter fun e => decide (e.point ≤ k)
  s.tickFree.updWg u (·.updRedun fun r => { r with rel := r.rel ++ releaseOrder (Config.choice s.fresh) es.length es })

/-- The comparison of a pair at the point after its last matched one. -/
def State.compare (s : State) (w : Workgroup) (r q : Redun) : State :=
  let k := r.matched + 1
  let inj := s.injected r k
  let bad := r.sigs.lookup k != q.sigs.lookup k || r.bad.contains k || q.bad.contains k
  if r.screen then
    let s := if bad then
        let s := s.recordErr (dieOf w.core) { ue := true, inj := inj, unit := 0x0E, core := w.core, ctx := some w.ctx, w3 := w.g + k % 2^16 * 2^32 }
        s.updWg w.uid (·.updRedun fun r => { r with screenHit := true })
      else s
    s.matchPoint w.uid r.partner k []
  else if !bad then s.matchPoint w.uid r.partner k r.buf
  else if r.rollbacks = 0 then
    (s.recordErr (dieOf w.core)
      { ue := false, cont := true, inj := inj, unit := 0x0D, core := w.core, ctx := some w.ctx, w3 := w.g + k % 2^16 * 2^32 }).rollback
      w.uid r.matched
  else s.redunMismatch w.uid r.matched k

/-- A leading copy whose pair has reached the point after its last matched one. -/
def State.comparable (s : State) (w : Workgroup) : Option (Redun × Redun) :=
  match w.redun with
  | none => none
  | some r =>
    if r.trailing then none else
    match (s.wg? r.partner).bind (·.redun) with
    | some q => if r.matched < r.point ∧ r.matched < q.point then some (r, q) else none
    | none => none

/-- A thread that COMMIT holds goes on, 8 clk after its point (R364). -/
def Thread.commitOver (point clk : Nat) (th : Thread) : Bool :=
  match th.st with
  | .blocked (.commit p) => match th.wake with
    | some d => decide (d ≤ clk)
    | none => decide (p ≤ point)
  | _ => false

def State.commitReleases (s : State) (w : Workgroup) : Bool :=
  s.wgRuns w && match w.redun with
    | some r => w.threads.any (Thread.commitOver r.point s.clk)
    | none => false

/-- COMMIT_POINT (R352): what a match has released is performed, threads go on, a copy reaches a point, or a pair is compared. -/
def fireCommitPoint (s : State) : Option State :=
  match s.releaseNext with
  | some s => some s
  | none => match s.wgs.findSome? fun w => (s.comparable w).map fun x => s.compare w x.1 x.2 with
  | some s => some s
  | none =>
    match s.wgs.find? s.reaches with
    | some w => some (s.updWg w.uid (·.reach s.clk))
    | none => (s.wgs.find? s.commitReleases).map fun w => s.updWg w.uid fun w =>
        { w with threads := w.threads.map fun th =>
            if th.commitOver ((w.redun.map (·.point)).getD 0) s.clk then th.release s.clk else th }

def execCommitPoint (s : State) : Host.Outcome State Fault Refusal := .next ((fireCommitPoint s).getD s)

/-- COMMIT (R364). -/
def execCommit (g : Guard) (s : State) : Host.Outcome State Fault Refusal :=
  s.issue fun c s =>
    match (s.wg? c.wg).bind (·.redun) with
    | none => s
    | some r => (active s c g).foldl (fun s t => s.block c.wg t (.commit (r.point + 1)) none) s

/-- The value of SIGQ (R365). -/
def Workgroup.sigWord (w : Workgroup) (t k : Nat) : Word64 :=
  match w.redun with
  | none => 0
  | some r => match k with
    | 0 => ((w.threads[t]?).map (·.sig)).getD 0
    | 1 => w.lastSig
    | _ => BitVec.ofNat 64 (r.point + 2^32 * r.rollbacks)

/-- SIGQ (R365): 4 clk, U for k = 1 and 2. -/
def execSigq (g : Guard) (d : RegCode) (k : BitVec 2) (s : State) : Host.Outcome State Fault Refusal :=
  s.issue fun c s =>
    match s.wg? c.wg with
    | none => s
    | some w =>
      let ts := active s c g
      let v := fun t => w.sigWord t k.toNat
      fixed s c ts 4 (pairWrites ts d.toNat v (if k = 0 then noImg2 else uImg2 v))

/-! Error banks (R366). -/

/-- ERRQ (R366): sampled as it lands, about 200 clk after issue; tag G. -/
def execErrq (g : Guard) (d : RegCode) (a : Src) (k : BitVec 3) (s : State) : Host.Outcome State Fault Refusal :=
  s.issue fun c s =>
    let ts := active s c g
    let ok := s.controlThreads c ts
    let banks := ok.map fun t => (t, (src s c a t).toNat % 128)
    let s1 := if ok.isEmpty then s else s.addPend (1 + Config.latency s.fresh) { Pend.none_ c.wg ok with
      regs := pairWrites ok d.toNat (fun _ => 0) noImg2, late := some (.errq banks k.toNat, d.toNat) }
    s1.raiseAll c (s.userThreads c ts) PERMISSION 0

/-- A word of a bank (R361); a bank above 67 gives 0. -/
def State.bankWord (s : State) (b k : Nat) : Word64 :=
  match s.banks[b]? with
  | none => 0
  | some x => match k with
    | 0 => x.w0 | 1 => x.w1 | 2 => x.w2 | 3 => x.w3
    | _ => BitVec.ofNat 64 (x.corrected * 2^32 + x.overflow)

/-- ERRCLR (R366). -/
def execErrclr (g : Guard) (a : Src) (s : State) : Host.Outcome State Fault Refusal :=
  s.issue fun c s =>
    let ts := active s c g
    let bs := (s.controlThreads c ts).map fun t => (src s c a t).toNat % 128
    (bs.foldl State.clearBank s).raiseAll c (s.userThreads c ts) PERMISSION 0

/-! Injection (R367). -/

/-- The effect of ERRINJ for the elected thread: a fault code and address, or the state. Kind 4 acts on a link of the issuing die alone. -/
def State.inject (s : State) (w : Workgroup) (k : Nat) (x : Word64) : Except (Nat × Nat) State :=
  let a := x.toNat % 2^20
  match k with
  | 0 => if w.lsbytes ≤ x.toNat then .error (TILEBAD, 0) else .ok (s.updWg w.uid fun w =>
      { w with flips := if w.flips.contains (a / 4) then w.flips else a / 4 :: w.flips })
  | 1 => if w.lsbytes ≤ x.toNat then .error (TILEBAD, 0) else .ok (s.updWg w.uid fun w =>
      { w with poison := if w.poison.contains (a / 4) then w.poison else a / 4 :: w.poison })
  | 2 => .ok (s.updWg w.uid (·.updRedun fun r => { r with inject := r.inject || (!r.trailing && !r.reexec) }))
  | 3 => match s.access w .write x .any with
    | .error e => .error (e, x.toNat % 2^48)
    | .ok l => .ok (if isHbm l.pa && !s.poison.contains (sectorOf l.pa) then { s with poison := sectorOf l.pa :: s.poison } else s)
  | _ =>
    let l := x.toNat % 256
    if l / 4 ≠ dieOf w.core ∧ neighbour (l / 4) (l % 4) ≠ dieOf w.core then .ok s else
    .ok ({ s with links := s.links.map fun k : Link => if k.num = canonLink l then { k with inj := true } else k }.send
      w.secure (.flitCrcFailure (BitVec.ofNat 9 l)))

/-- ERRINJ (R367): kind 2 needs no privilege. -/
def execErrinj (g : Guard) (a : RegCode) (k : BitVec 3) (s : State) : Host.Outcome State Fault Refusal :=
  s.issue fun c s =>
    match s.wg? c.wg with
    | none => s
    | some w =>
      let ts := active s c g
      let bad := if k = 2 then [] else s.userThreads c ts
      let ok := ts.filter (!bad.contains ·)
      let s1 := if ok.isEmpty then s else match s.inject w k.toNat (if k = 2 then 0 else reg64 s c a (elect ok)) with
        | .ok s => s
        | .error e => s.raiseAll c ok e.1 e.2
      s1.raiseAll c bad PERMISSION 0

/-! The mirror (R360, R368). -/

/-- MIRF: each active thread blocks. -/
def execMirf (g : Guard) (d : PredCode) (s : State) : Host.Outcome State Fault Refusal :=
  s.issue fun c s => (active s c g).foldl (fun s t => s.block c.wg t (.mirf d.toNat) none) s

/-- What MIRF waits for (R368): the thread's stores that a contained workgroup holds, or that are being released, too (log entry 66). -/
def State.mirrorDone (s : State) (w : Workgroup) (t : Nat) (th : Thread) : Bool :=
  th.sq.isEmpty && s.remoteDone w.uid t && !((w.contain.map fun k => k.buf.any (·.tidx == t)).getD false) && !w.releasing t && !s.cmdsOf w.uid t && !s.opsOf w.uid t && match w.redun with
    | some r => r.screen || (r.matched == r.point && !(r.buf.any (·.tidx == t)))
    | none => true

/-- Threads whose MIRF is over: the predicate is written and the failure bit cleared. -/
def State.settleMirf (s : State) : State :=
  s.wgs.foldl (fun s w => if !s.wgRuns w then s else w.threads.zipIdx.foldl (fun s p => match p.1.st with
    | .blocked (.mirf d) =>
      if s.mirrorDone w p.2 p.1 then
        ((s.updThread w.uid p.2 fun th => { th with mirFail := false }).release w.uid p.2).addPend 0
          { Pend.none_ w.uid [p.2] with preds := if d = 0 then [] else [(p.2, d, !p.1.mirFail)] }
      else s
    | _ => s) s) s

/-- MIRROR_ACKNOWLEDGEMENT: the partner has acknowledged the oldest write. -/
def fireMirrorAcknowledgement (s : State) : Option State :=
  match s.mirrors with
  | [] => none
  | _ :: r => if s.pkgReachable (s.mirpart.toNat * 2^43) && Config.mirrorAcks s.fresh then some { s with mirrors := r } else none

def execMirrorAcknowledgement (s : State) : Host.Outcome State Fault Refusal := .next ((fireMirrorAcknowledgement s).getD s)

/-- MIRROR_TIMEOUT (R360): the write counts as acknowledged, with a record in the home's bank and the thread's failure
bit. -/
def fireMirrorTimeout (s : State) : Option State :=
  (s.mirrors.find? fun m => decide (m.2.2.1 ≤ s.clk)).map fun m =>
    let n := (s.wg? m.1).map (·.ctx)
    ({ s with mirrors := s.mirrors.erase m }.recordErr (homeDie m.2.2.2) { ue := true, unit := 0x0B, ctx := n, w1 := m.2.2.2 + 2^63 }).updThread
      m.1 m.2.1 fun th => { th with mirFail := true }

def execMirrorTimeout (s : State) : Host.Outcome State Fault Refusal := .next ((fireMirrorTimeout s).getD s)

/-! Patrol scrub (R347). -/

/-- PATROL_SCRUB: every protected word is read within 10 ms; flipped words of windows are corrected and recorded. -/
def firePatrolScrub (s : State) : Option State :=
  if s.clk < s.scrubAt then none else
  some (s.wgs.foldl (fun s w => s.winTouch w (w.flips.map (4 * ·))) { s with scrubAt := s.clk + 18000000 })

def execPatrolScrub (s : State) : Host.Outcome State Fault Refusal := .next ((firePatrolScrub s).getD s)

end Sys2Proof.Machine
end

