-- ==== Sys2Proof/Machine/Identity.lean ====
section
/-! DEFINITION. Identity and links (R369 to R382): the assay, link states and keys, quarantine and single-die reset; the
host's device registers (R383 to R386); other packages (R387). -/

namespace Sys2Proof.Machine

/-! Dies and links. -/

/-- 50 ms, the bound of an assay (R373). -/
def assayLimit : Nat := 50000 * Config.usClk

def State.die? (s : State) (d : Nat) : Option Die := s.dies[d]?

/-- The dies of the package at the ends of a link (R13, R369). -/
def linkEnds (n : Nat) : List Nat := if n < 256 then [n / 4, neighbour (n / 4) (n % 4)] else [ralpexDie n]

def State.updLinks (s : State) (p : Nat → Bool) (f : Link → Link) : State :=
  { s with links := s.links.map fun l => if p l.num then f l else l }

/-- A direction as State names it: the two numbers of a mesh link name it from opposite ends (R369). -/
def canonDir (n dir : Nat) : Nat := if canonLink n = n then dir else 1 - dir

def Link.dir (l : Link) (d : Nat) : LinkDir := if d = 0 then l.d0 else l.d1

def Link.updDir (l : Link) (d : Nat) (f : LinkDir → LinkDir) : Link := if d = 0 then { l with d0 := f l.d0 } else { l with d1 := f l.d1 }

/-- The state of a link that carries data: ROLLING while a direction of it rolls (R372, R374). -/
def Link.settle (l : Link) : Link :=
  if l.state == .open_ || l.state == .rolling then { l with state := if l.d0.rolling || l.d1.rolling then .rolling else .open_ } else l

/-- A direction is OPEN (R374). -/
def Link.dirOpen (l : Link) (d : Nat) : Bool := (l.state == .open_ || l.state == .rolling) && !(l.dir d).rolling

def LinkDir.closed (d : LinkDir) : LinkDir := { d with acked := false, rolling := false, switched := false }

def Link.close (l : Link) : Link := { l with state := .closed, d0 := l.d0.closed, d1 := l.d1.closed }

/-- The I/O dies are all LIVE: without that no link of the package carries data (R373). -/
def State.ioLive (s : State) : Bool := (List.range 4).all fun i => s.dieLive (64 + i)

/-- MGMT becomes OPEN: both ends LIVE and both directions keyed, which the root does as a die passes (R371, R372); a Ralpex
port once PKGID is written and its die is LIVE (R387). -/
def Link.opens (s : State) (l : Link) : Bool :=
  l.state == .mgmt && (linkEnds l.num).all s.dieLive && if l.num < 256 then s.ioLive else s.pkgidSet

def State.openLinks (s : State) : State :=
  { s with links := s.links.map fun l => if l.opens s then
      { l with state := .open_, d0 := { l.d0 with flits := 0 }, d1 := { l.d1 with flits := 0 } } else l }

/-- A die at an end of a link in training: it is being assayed, is LIVE, or has failed an assay; not one set aside (R372,
R376). -/
def Die.trains (d : Die) : Bool :=
  d.state == .assay || d.state == .reassay || d.state == .live || (d.state == .quarantined && (d.cause == 1 || d.cause == 4))

def State.linkTrains (s : State) (l : Link) : Bool :=
  s.resetEnded && l.state == .closed && !l.shut && (linkEnds l.num).all fun d => ((s.die? d).map (·.trains)).getD false

/-- LINK_TRAINING (R372): a closed link after reset, or after a die reset ends, but not one that only an error has closed, comes to MGMT, and to OPEN where both its
ends are LIVE already. -/
def fireLinkTraining (s : State) : Option State :=
  (s.links.find? s.linkTrains).map fun l => ({ s with links := s.links.map fun k : Link => if k.num = l.num then { k with state := .mgmt } else k }).openLinks

def execLinkTraining (s : State) : Host.Outcome State Fault Refusal := .next ((fireLinkTraining s).getD s)

/-! The assay (R371, R373). -/

/-- An assay or measurement of a die begins; how long it takes is free. -/
def State.beginAssay (s : State) (d : Nat) : State :=
  let s := s.tickFree
  s.updDie d fun x => { x with assayAt := some (s.clk, s.later) }

/-- Dies that are to be assayed after package reset, in the root's order: IOD1 to IOD3, then the compute dies (R373). -/
def State.assayOrder (s : State) : List Nat :=
  let waits := fun d => ((s.die? d).map fun x => x.state == .assay).getD false
  let io := [65, 66, 67].filter waits
  if io.isEmpty then (List.range 64).filter waits else io

/-- The next assays begin, at most 8 at once. -/
def State.startAssays (s : State) : State :=
  let order := s.assayOrder
  let idle := order.filter fun d => ((s.die? d).map fun x => x.assayAt.isNone).getD false
  (idle.take (8 - (order.length - idle.length))).foldl (fun s d => s.beginAssay d) s

/-- A thread's ASGN of a die is answered (R379). -/
def State.answerAsgn (s : State) (die status : Nat) : State :=
  let ws := s.wgs.flatMap fun w => w.threads.zipIdx.filterMap fun p => match p.1.st with
    | .blocked (.asgn x d) => if x = die then some (w.uid, p.2, d) else none
    | _ => none
  ws.foldl (fun s x => (s.release x.1 x.2.1).addPend 0
    { Pend.none_ x.1 [x.2.1] with regs := regWrites [x.2.1] x.2.2 (fun _ => BitVec.ofNat 32 status) noImg }) s

/-- The threads whose answer was known at issue, once it has come. -/
def State.settleAsgn (s : State) : State :=
  let ws := s.wgs.flatMap fun w => w.threads.zipIdx.filterMap fun p => match p.1.st, p.1.wake with
    | .blocked (.asgn x d), some k => if 128 ≤ x ∧ k ≤ s.clk then some (w.uid, p.2, x - 128, d) else none
    | _, _ => none
  ws.foldl (fun s x => (s.release x.1 x.2.1).addPend 0
    { Pend.none_ x.1 [x.2.1] with regs := regWrites [x.2.1] x.2.2.2 (fun _ => BitVec.ofNat 32 x.2.2.1) noImg }) s

/-- The keys of a die's links enter the root's key store (R371). -/
def State.fillKeys (s : State) (d : Nat) : State :=
  let hs := (s.links.filter fun l => (linkEnds l.num).contains d).flatMap fun l =>
    [Config.keyHandle l.num 0 % 1024, Config.keyHandle l.num 1 % 1024]
  { s with keyStore := (s.keyStore ++ hs).eraseDups }

/-! Quarantine and single-die reset (R376, R382). -/

/-- A carrier or a waiting owner whose family lost a view takes MERGEFAULT with code UNCORRECTABLE. -/
def State.mergeLost (s : State) (u t id : Nat) : State :=
  (s.updThread u t fun th => { th.rewind with mergeFault := BitVec.ofNat 32 (2^31 + UNCORRECTABLE * 2^21 + id) }).raiseAt u t MERGEFAULT 0

/-- A thread that waits for its family. -/
def State.waitsFamily (s : State) (u t : Nat) : Bool :=
  match s.thread? u t with
  | some th => th.st == .blocked .solder || th.st == .blocked .vsync
  | none => false

/-- Views of a lost workgroup: carriers of their merges, owners that wait for a lost child or for a lost parent. -/
def State.loseViews (s : State) (lost : Workgroup) : State :=
  let jobs := s.merges.filter fun m => m.src.1 == lost.uid || m.tgt.1 == lost.uid
  let s := jobs.foldl (fun s m =>
    let g := ((s.wg? m.src.1).map (·.g)).getD 0
    let s := (s.dropShadow m).updView m.src.1 m.src.2 fun v => { v with st := .faulted }
    let s := { s with merges := s.merges.filter (·.id != m.id) }
    if s.waitsFamily m.carrier.1 m.carrier.2 then s.mergeLost m.carrier.1 m.carrier.2 (viewId g m.src.2) else s) s
  (s.wgs.filter fun w : Workgroup => w.launch == lost.launch && w.uid != lost.uid).foldl (fun (s : State) w =>
    w.views.foldl (fun (s : State) (v : View) =>
      if !s.waitsFamily w.uid v.owner then s else
      let child := lost.views.find? fun c => c.parent == some (w.g, v.entry)
      let orphan := (v.parent.map fun p => p.1 == lost.g).getD false
      match child with
      | some c => s.mergeLost w.uid v.owner (viewId lost.g c.entry)
      | none => if orphan then
          (s.updView w.uid v.entry fun v => { v with st := .faulted }).mergeLost w.uid v.owner (viewId w.g v.entry) else s) s) s

/-- A workgroup of a die that stops (R376): a redundant pair is back at its last matched point and waits for the die, or is
killed when the die stays set aside; a contained one is killed and started again; any other is killed. -/
def State.dieStops (s : State) (u : Nat) (stays : Bool) : State :=
  match s.wg? u with
  | none => s
  | some w =>
    if w.copied && !stays then
      match w.redun with
      | none => s
      | some r =>
        let keep := fun (w : Workgroup) => w.updRedun fun x => { x with rollbacks := r.rollbacks }
        ((s.rollback u r.matched).updWg u keep).updWg r.partner keep
    else if w.contained && !w.copied then (s.loseViews w).killContained u
    else (s.loseViews w).killHard u

/-- A sector that a lost die held is poisoned at its home, with a record there (R376). -/
def State.poisonLost (s : State) (sec : Nat) : State :=
  let s := if s.poison.contains sec then s else { s with poison := sec :: s.poison, lost := sec :: s.lost }
  s.recordErr (homeDie (128 * sec)) { ue := true, unit := 0x02, w1 := 128 * sec + 2^63 }

/-- The die that an owner of sectors works on. -/
def State.ownerDie (s : State) (o : Owner) : Option Nat :=
  match o with
  | .cmd k => (s.cmds.find? (·.id == k)).map (·.die)
  | .hearth _ => none
  | .token u _ => (s.wg? u).map fun w => dieOf w.core

/-- What other dies have under way to a die is poisoned (R376): puts to its queues, and the data that copies send to tiles there, which is
written nowhere. -/
def State.loseRequests (s : State) (d : Nat) : State :=
  let at_ := fun u => ((s.wg? u).map fun w => dieOf w.core == d).getD false
  let ps := s.puts.filter fun p => ((s.tq? p.ctx p.queue).map (·.home == d)).getD false && !(!p.host && at_ p.wg)
  let cs := s.cmds.filter fun c => c.started && c.die != d && twoTiles c.kind c.block && at_ c.rwg
  let s := ps.foldl (fun s p => s.losePut p) s
  cs.foldl (fun s c => s.recordErr d { ue := true, unit := 0x04, ctx := some c.ctx }) s

/-- Steps 1 to 3 of R376 for a die: links closed, workgroups and copy work stopped, requests to it and what its caches held poisoned. -/
def State.dieDown (s : State) (d : Nat) (stays : Bool) : State :=
  let lostSecs := ((s.l1.filter fun c => dieOf c.core == d && !c.dirty.isEmpty).map fun c => c.pa / 128) ++
    (s.dcache.filter (·.die == d)).map (·.sec) ++ (s.owned.filter fun o => s.ownerDie o.2 == some d).map (·.1)
  let s := s.updLinks (fun n => (linkEnds n).contains d) Link.close
  let s := { s with l1 := s.l1.filter fun c => dieOf c.core != d
                    dcache := s.dcache.filter (·.die != d)
                    tlb := s.tlb.filter fun e => (if e.place < 1024 then dieOf e.place else e.place - 1024) != d
                    owned := s.owned.filter fun o => s.ownerDie o.2 != some d }
  let s := s.loseRequests d
  let us := (s.wgs.filter fun w => dieOf w.core == d).map (·.uid)
  let halted := s.cmds.filter fun c => c.accepted && c.die == d
  let s := us.foldl (fun s u => s.dieStops u stays) s
  let s := halted.foldl (fun s c => s.haltQueue c UNCORRECTABLE) s
  let s := { s with contexts := s.contexts.map fun c =>
    { c with tqs := c.tqs.map fun q => if q.home = d then { q with die := [] } else q } }
  lostSecs.eraseDups.foldl (fun s sec => s.poisonLost sec) s

/-- A measurement that was under way when its die left LIVE has failed. -/
def State.endMeasure (s : State) (d : Nat) : State :=
  if ((s.die? d).map (·.measure)).getD false then
    (s.updDie d fun x => { x with measure := false, assayAt := none }).answerAsgn d 1
  else s

/-- A compute die leaves LIVE for good or until it is reset (R373, R382). -/
def State.quarantine (s : State) (d cause : Nat) : State :=
  (((s.endMeasure d).updDie d fun x => { x with state := .quarantined, cause := cause, assayAt := none }).dieDown d true).irq 3

/-- A single-die reset (R376): steps 1 to 3 and the beginning of step 4; its links may train again. -/
def State.resetDie (s : State) (d cause : Nat) (quar : Bool) : State :=
  let s := ((s.endMeasure d).updDie d fun x =>
    { x with state := .reassay, cause := cause, assayAt := none, byQuar := quar }).dieDown d false
  ((s.updLinks (fun n => (linkEnds n).contains d) fun l => { l with shut := false }).irq 3).beginAssay d

/-- Redundant pairs that waited for a die which stays quarantined are killed (R376). -/
def State.killWaiting (s : State) (d : Nat) : State :=
  ((s.wgs.filter fun w => w.copied && dieOf w.core == d).map (·.uid)).foldl (fun s u => s.killHard u) s

/-- The end of an assay or measurement of die `d` (R371, R373, R379). -/
def State.endAssay (s : State) (d : Nat) (pass : Bool) : State :=
  match s.die? d with
  | none => s
  | some x =>
    if x.measure then
      let s := s.updDie d fun x => { x with measure := false, assayAt := none }
      let s := s.answerAsgn d (if pass then 0 else 1)
      if pass then s else if d < 64 then s.quarantine d 5 else s.irq 3
    else if pass then
      let s := s.updDie d fun x => { x with state := .live, passes := min 255 (x.passes + 1), ever := true, assayAt := none }
      ((((s.fillKeys d).openLinks).irq 3).answerAsgn d 0).startAssays
    else
      let s := s.updDie d fun y => { y with state := .quarantined, cause := if x.state = .assay then 1 else 4, assayAt := none }
      (((s.killWaiting d).irq 3).answerAsgn d 1).startAssays

/-- ASSAY (R371): an assay or measurement completes in time; whether the die passes is free. -/
def fireAssay (s : State) : Option State :=
  (s.dies.zipIdx.find? fun p => match p.1.assayAt with
    | some (b, e) => decide (e ≤ s.clk) && decide (e < b + assayLimit)
    | none => false).map fun p =>
      let s := s.tickFree
      s.endAssay p.2 (Config.assayPasses p.2 s.fresh)

def execAssay (s : State) : Host.Outcome State Fault Refusal := .next ((fireAssay s).getD s)

/-- ASSAY_TIMEOUT (R373): 50 ms without completion is a failure. -/
def fireAssayTimeout (s : State) : Option State :=
  (s.dies.zipIdx.find? fun p => match p.1.assayAt with
    | some (b, e) => decide (b + assayLimit ≤ s.clk) && decide (b + assayLimit ≤ e)
    | none => false).map fun p => s.endAssay p.2 false

def execAssayTimeout (s : State) : Host.Outcome State Fault Refusal := .next ((fireAssayTimeout s).getD s)

/-- Local memory under the number of the package (R14, R384): the cells of packages `p` and `q` change places. -/
def State.rekey (s : State) (p q : Nat) : State :=
  let move := fun a => if a / 2^43 = p then q * 2^43 + a % 2^43 else if a / 2^43 = q then p * 2^43 + a % 2^43 else a
  { s with mem := Mem.writeCells [] (s.mem.map fun c => (move c.1, c.2))
           poison := s.poison.map fun x => move (128 * x) / 128
           lost := s.lost.map fun x => move (128 * x) / 128 }

/-- The end of package reset: IOD0 runs the root; every other die goes to ASSAY (R373). -/
def State.endReset (s : State) : State :=
  ({ s with
      resetEnded := true
      dies := s.dies.zipIdx.map fun d : Die × Nat => { d.1 with state := if d.2 = 64 then .live else .assay } }.irq 3).startAssays

/-- Memory after every block of the package has lost power: its own HBM holds nothing; the host's memory and other packages'
stand (R2). -/
def State.losePower (s : State) : State :=
  let keeps := fun a => s.remote a || !isHbm a
  { s with mem := s.mem.filter fun c => keeps c.1, poison := s.poison.filter fun x => keeps (128 * x)
           lost := s.lost.filter fun x => keeps (128 * x) }

/-- Package reset: every block loses power and state (R2). -/
def State.resetPackage (s : State) : State :=
  let s := s.losePower.rekey s.pkgid.toNat 0
  { State.reset with
    fresh := s.fresh, nextId := s.nextId, mem := s.mem, poison := s.poison, lost := s.lost
    inputs := s.inputs.map fun x => { x with due := x.due - s.clk } }

/-- PACKAGE_RESET (R373). -/
def firePackageReset (s : State) : Option State := if s.resetEnded then none else some s.endReset

def execPackageReset (s : State) : Host.Outcome State Fault Refusal :=
  .next (if s.resetEnded then s.resetPackage.endReset else s.endReset)

/-! Link errors (R347, R376). -/

/-- The record of a link error, in the bank of its compute-die end, or of a Ralpex port's I/O die. -/
def State.recordLink (s : State) (n : Nat) (ue inj : Bool) : State :=
  if n < 256 then s.recordErr (n / 4) { ue := ue, inj := inj, unit := 0x0A, w3 := n }
  else s.recordErr (ralpexDie n) { ue := ue, inj := inj, unit := 0x0B, w3 := n % 256 }

/-- The end of a link that an uncorrectable error resets: its compute die, of two the one with the higher number. -/
def resetEnd (n : Nat) : Nat := ((linkEnds n).filter (· < 64)).foldl max 0

/-- An uncorrectable error of a link (R372, R376). -/
def State.linkDown (s : State) (n : Nat) : State :=
  let s := s.updLinks (· == n) fun l => { l.close with shut := true }
  if 256 ≤ n then s.irq 5
  else if s.dieLive (resetEnd n) then s.resetDie (resetEnd n) 3 false else s

/-- FLIT_CRC_FAILURE (R347): a replay corrects it; the eighth replay that fails in a row is uncorrectable. -/
def execFlitCrcFailure (link : BitVec 9) (s : State) : Host.Outcome State Fault Refusal :=
  .next (match s.link? link.toNat with
    | none => s
    | some l =>
      if l.state = .closed then s else
      let n := if s.clk ≤ l.lastFail + 1 then l.failures + 1 else 1
      let s := s.updLinks (· == l.num) fun l => { l with failures := if n < 9 then n else 0, lastFail := s.clk, inj := false }
      let s := s.recordLink l.num (decide (9 ≤ n)) l.inj
      if n < 9 then s else s.linkDown l.num)

/-! Keys (R374). -/

/-- KEY_GENERATION_DROP: the receiver has accepted the first flit of the new generation and 64 after it. -/
def execKeyGenerationDrop (link : BitVec 9) (dir : BitVec 1) (s : State) : Host.Outcome State Fault Refusal :=
  let d := canonDir link.toNat dir.toNat
  .next (s.updLinks (· == canonLink link.toNat) fun l =>
    if (l.dir d).rolling && (l.dir d).switched then (l.updDir d LinkDir.closed).settle else l)

/-- ROLLOVER_REQUEST: 2^39 flits more under one key. The first raises the interrupt; by the second the key is spent, and the next flit is
held until the switch (log entry 69). -/
def execRolloverRequest (link : BitVec 9) (dir : BitVec 1) (s : State) : Host.Outcome State Fault Refusal :=
  .next (match s.link? link.toNat with
    | none => s
    | some l =>
      let k := canonDir link.toNat dir.toNat
      let s1 := s.updLinks (· == l.num) fun l => l.updDir k fun d => { d with flits := min (d.flits + 2^39) (2^40 - 1) }
      if (l.dir k).flits < 2^39 then s1.irq 4 else s1)

/-! The instructions of major 0x7F (R377). -/

/-- Active threads that may act: at control level, in the secure world. -/
def rootThreads (s : State) (c : Issue) (w : Workgroup) (ts : List Nat) : List Nat := if w.secure then s.controlThreads c ts else []

/-- The faults of the other active threads: PERMISSION at program level, WORLD at control level. -/
def rootFaults (s0 s : State) (c : Issue) (w : Workgroup) (ts : List Nat) : State :=
  (s.raiseAll c (s0.userThreads c ts) PERMISSION 0).raiseAll c (if w.secure then [] else s0.controlThreads c ts) WORLD 0

/-- The frame of the family: the instruction acts once, and every active thread that may act shares its outcome. -/
def rootInstr (g : Guard) (f : Issue → Workgroup → List Nat → State → State) (s : State) : Host.Outcome State Fault Refusal :=
  s.issue fun c s =>
    match s.wg? c.wg with
    | none => s
    | some w =>
      let ts := active s c g
      let ok := rootThreads s c w ts
      rootFaults s (if ok.isEmpty then s else f c w ok s) c w ts

/-- A die register (R377). -/
def dieField (s : State) (c : Issue) (a : Src) (ok : List Nat) : Nat := (src s c a (elect ok)).toNat % 128

/-- The word of a hallmark record (R378). -/
def State.hmqWord (s : State) (d k : Nat) : Word64 :=
  match s.die? d with
  | none => 0
  | some x => if !x.ever then 0
    else if k < 9 then Config.hallmark d k
    else BitVec.ofNat 64 ((if d < 64 then 0 else 1) + 0xA1 * 2^8)

def LinkState.code : LinkState → Nat
  | .closed => 0 | .mgmt => 1 | .open_ => 2 | .rolling => 3

def DieState.code : DieState → Nat
  | .reset => 0 | .assay => 1 | .live => 2 | .quarantined => 3 | .reassay => 4

/-- The die state word (R378). -/
def State.dieqWord (s : State) (d : Nat) : Word :=
  match s.die? d with
  | none => 0
  | some x =>
    let links := if d < 64 then sumNat ((List.range 4).map fun p => ((s.link? (4 * d + p)).map (·.state.code)).getD 0 * 4^p) else 0
    BitVec.ofNat 32 (x.state.code * 2^29 + links * 2^16 + x.cause * 2^8 + x.passes)

/-- HMQ (R378): sampled as it lands, about 400 clk after issue. -/
def execHmq (g : Guard) (d : RegCode) (a : Src) (k : BitVec 4) (s : State) : Host.Outcome State Fault Refusal :=
  rootInstr g (fun c _ ok s => s.addPend (1 + Config.latency s.fresh) { Pend.none_ c.wg ok with
    regs := pairWrites ok d.toNat (fun _ => 0) noImg2, late := some (.hmq (dieField s c a ok) k.toNat, d.toNat) }) s

/-- DIEQ (R378). -/
def execDieq (g : Guard) (d : RegCode) (a : Src) (s : State) : Host.Outcome State Fault Refusal :=
  rootInstr g (fun c _ ok s => s.addPend (1 + Config.latency s.fresh) { Pend.none_ c.wg ok with
    regs := regWrites ok d.toNat (fun _ => 0) noImg, late := some (.dieq (dieField s c a ok), d.toNat) }) s

/-- What ASGN of a die does at once: a status known already, or an assay or measurement to wait for (R379). A die that a QUAR reset has
reset already is one that failed the REASSAY of such a reset: the model's reading (log entry 42). -/
def State.asgn (s : State) (die k : Nat) : Option Nat × State :=
  match s.die? die with
  | none => (some 3, s)
  | some x =>
    if k = 0 then
      if x.state = .quarantined ∧ x.cause = 4 ∧ x.byQuar then
        (none, (s.updDie die fun x => { x with state := .reassay }).irq 3 |>.beginAssay die)
      else (some 2, s)
    else if x.state ≠ .live then (some 2, s)
    else if x.measure then (none, s)
    else (none, (s.updDie die fun x => { x with measure := true }).beginAssay die)

/-- ASGN (R379): the thread is blocked until the root has answered. -/
def execAsgn (g : Guard) (d : RegCode) (a : Src) (k : BitVec 1) (s : State) : Host.Outcome State Fault Refusal :=
  rootInstr g (fun c _ ok s =>
    let die := dieField s c a ok
    let r := s.asgn die k.toNat
    ok.foldl (fun s t => match r.1 with
      | some n => s.block c.wg t (.asgn (128 + n) d.toNat) (some (min s.later (s.clk + assayLimit)))
      | none => s.block c.wg t (.asgn die d.toNat) none) r.2) s

/-- The checks of a KEYI block, by offset (R380). -/
def keyiFields (b : List Byte) : Option Nat :=
  let l := field b 0 2
  firstFail [(decide (l < 256 ∨ (0x100 ≤ l ∧ l ≤ 0x111)), 0), (decide (field b 2 1 ≤ 1), 2), (zeroAt b 3 1, 3),
    (decide (field b 4 4 ≤ 1023), 4), (zeroAt b 0x0C 52, 0x0C)]

/-- KEYI (R380): the key goes to the receiving end over management flits; the thread waits for the acknowledgement. -/
def execKeyi (g : Guard) (a : RegCode) (s : State) : Host.Outcome State Fault Refusal :=
  rootInstr g (fun c w ok s =>
    let t := elect ok
    let va := reg64 s c a t
    if laneWaits s w t va.toNat then s.reissue c else
    match laneBlock s w t va.toNat with
    | .error e => s.raiseAll c ok e.1 e.2
    | .ok (_, some pa) => s.lanePoison w t pa va
    | .ok (b, none) => match keyiFields b with
      | some o => s.raiseAll c ok TILEBAD o
      | none =>
        let k : KeyInst := ⟨s.nextId, field b 0 2, field b 2 1, field b 4 4, field b 8 4, s.later⟩
        ok.foldl (fun s t => s.block c.wg t (.keyi k.id) none) { s.bump with keyInsts := s.keyInsts ++ [k] }) s

/-- The receiving end takes an install: the entry is filled, the generation is the next one, the direction is OPEN. -/
def State.installs (s : State) (k : KeyInst) (l : Link) : Bool :=
  s.keyStore.contains k.handle && l.dirOpen (canonDir k.link k.dir) && (l.dir (canonDir k.link k.dir)).gen + 1 == k.gen

/-- The die at the receiving end of a link direction, or the port's own where that is another package. -/
def receiverDie (n dir : Nat) : Nat := if n < 256 then (linkEnds n).getD (1 - dir) 64 else ralpexDie n

/-- The threads that wait for an install return (R380). -/
def State.releaseKeyi (s : State) (id : Nat) : State :=
  let free := fun th : Thread => if th.st = .blocked (.keyi id) then th.release s.clk else th
  { s with wgs := s.wgs.map fun w : Workgroup => { w with threads := w.threads.map free } }

/-- KEY_INSTALL_ACKNOWLEDGEMENT (R380). -/
def fireKeyInstallAcknowledgement (s : State) : Option State :=
  match s.keyInsts.find? fun k => decide (k.due ≤ s.clk) with
  | none => none
  | some k =>
    let s := { s with keyInsts := s.keyInsts.erase k }
    let ok := ((s.link? k.link).map (s.installs k)).getD false
    let s := if ok then s.updLinks (· == canonLink k.link) fun l => l.updDir (canonDir k.link k.dir) fun d => { d with acked := true }
      else s.recordErr (receiverDie k.link k.dir) { ue := true, unit := 0x0A, w3 := k.link % 256 }
    some (s.releaseKeyi k.id)

def execKeyInstallAcknowledgement (s : State) : Host.Outcome State Fault Refusal := .next ((fireKeyInstallAcknowledgement s).getD s)

/-- KEYROLL on a direction: whether it is done, and the link after it (R381). -/
def Link.roll (l : Link) (d k : Nat) : Bool × Link :=
  if k = 0 then
    if l.dirOpen d && (l.dir d).acked then (true, (l.updDir d fun x => { x with rolling := true, switched := false }).settle) else (false, l)
  else
    if (l.dir d).rolling && !(l.dir d).switched then
      (true, l.updDir d fun x => { x with switched := true, gen := (x.gen + 1) % 2^32, flits := 0, acked := false })
    else (false, l)

/-- KEYROLL (R381). -/
def execKeyroll (g : Guard) (d : PredCode) (a : Src) (k : BitVec 1) (s : State) : Host.Outcome State Fault Refusal :=
  rootInstr g (fun c _ ok s =>
    let x := (src s c a (elect ok)).toNat
    let n := x % 512
    let r := (s.link? n).map fun l => l.roll (canonDir n (x / 2^16 % 2)) k.toNat
    let s := match r with
      | some (true, l) => s.updLinks (· == l.num) fun _ => l
      | _ => s
    fixed s c ok 4 [] (ok.map fun t => (t, d.toNat, (r.map (·.1)).getD false))) s

/-- QUAR on a die (R382). -/
def State.quar (s : State) (own d k : Nat) : State :=
  match s.die? d with
  | none => s
  | some x =>
    if 64 ≤ d ∨ d = own then s
    else if k = 0 then (if x.state = .live then s.quarantine d 2 else s)
    else match x.state with
      | .live => s.resetDie d 2 true
      | .quarantined => s.resetDie d x.cause true
      | _ => s

/-- QUAR (R382). -/
def execQuar (g : Guard) (a : Src) (k : BitVec 1) (s : State) : Host.Outcome State Fault Refusal :=
  rootInstr g (fun c w ok s => s.quar (dieOf w.core) (dieField s c a ok) k.toNat) s

/-! The host (R383 to R386). -/

/-- HOST_MEMORY_ACCESS (R383): an access of HBM or host memory at the home slices; a write to a sector that is owned
exclusively waits. A read changes nothing. -/
def execHostMemoryAccess (write : Bool) (pa : BitVec 52) (data : List (BitVec 8)) (s : State) : Host.Outcome State Fault Refusal :=
  .next (if !write || data.isEmpty || s.remote pa.toNat || !(isHbm pa.toNat || isHost pa.toNat) ||
      !((isHbm (pa.toNat + data.length - 1) || isHost (pa.toNat + data.length - 1)) && !s.remote (pa.toNat + data.length - 1)) then s
    else if s.ownedBy 64 pa.toNat data.length none then { s with inputs := s.inputs ++ [⟨s.clk + 1, s.inputSecure, .hostMemoryAccess write pa data⟩] }
    else s.pkgWrite pa.toNat data)

/-- IRQSTAT_CLEAR (R384). -/
def execIrqstatClear (mask : BitVec 64) (s : State) : Host.Outcome State Fault Refusal := .next { s with irqstat := s.irqstat &&& ~~~ mask }

/-- PKGID_WRITE (R384): the first write of a package number holds until reset. -/
def execPkgidWrite (v : BitVec 16) (s : State) : Host.Outcome State Fault Refusal :=
  .next (if s.pkgidSet || decide (431 < v.toNat) then s else { (s.rekey 0 v.toNat) with pkgid := v, pkgidSet := true }.openLinks)

/-- ALLOW_WRITE (R384): a write that is not of the secure world, as every one of the host's, changes nothing (R385). -/
def execAllowWrite (v : BitVec 32) (s : State) : Host.Outcome State Fault Refusal :=
  .next (if s.inputSecure then { s with allow := if 2360 < v.toNat then 2360 else v } else s)

/-- CTXTAB_WRITE (R384): ignored while a context is RUNNING. -/
def execCtxtabWrite (v : BitVec 64) (s : State) : Host.Outcome State Fault Refusal :=
  .next (if s.contexts.any (·.state == .running) then s else { s with ctxtab := v })

/-- The words of a task-put window with bytes written from offset `k` on (R386). -/
def TaskWin.store (w : TaskWin) (k : Nat) (bs : List Byte) : TaskWin :=
  if w.busy then w else
  let img := overlay 0 (w.words.flatMap fun x => toBytes 4 x.toNat) (cellsAt k bs)
  { w with words := (List.range 7).map fun i => BitVec.ofNat 32 (field img (4 * i) 4) }

/-- DEVICE_REGISTER_WRITE (R384): MIRPART and ROUTE bytes, which only the secure world writes, the entry words of a window; another register
stores the value. -/
def execDeviceRegisterWrite (off : BitVec 32) (wide : Bool) (v : BitVec 64) (s : State) : Host.Outcome State Fault Refusal :=
  let o := off.toNat
  let bs := toBytes (if wide then 8 else 4) v.toNat
  .next (if !s.inputSecure && (o == 0x10 || decide (0x1000 ≤ o ∧ o < 0x11B0)) then s
    else if o = 0x10 then { s with mirpart := v.setWidth 16 }
    else if 0x1000 ≤ o ∧ o < 0x11B0 then
      { s with route := s.route.writeCells ((cellsAt (o - 0x1000) (bs.map (· ^^^ 0xFF))).filter fun c => decide (c.1 < 432)) }
    else if 0x10000 ≤ o ∧ o < 0x11000 then s
    else if 0x20000 ≤ o ∧ o < 0x21000 then { s with windows := s.windows.modify ((o - 0x20000) / 64) fun w => w.store (o % 64) bs }
    else { s with ioMem := s.ioMem.write o bs })

/-! Other packages (R387). -/

/-- A request that the named package answers: whether it does is free. -/
def RalpexReq.answered (r : RalpexReq) (s : State) : Bool :=
  s.pkgReachable r.pa && !s.pathHeld 64 r.pa && decide (r.due < r.deadline) && Config.ralpexAnswers (paPkg r.pa) r.due

/-- The core that sent a request. -/
def State.ralpexCore (s : State) (r : RalpexReq) : Option Nat := if r.cmd.isSome then none else (s.wg? r.wg).map (·.core)

/-- Of the requests that wait, the first to its sector from its core: stores of one core to one location stay in order (R158,
R159). -/
def State.ralpexFirst (s : State) (r : RalpexReq) : Bool :=
  (s.ralpex.find? fun x => sectorOf x.pa == sectorOf r.pa && x.cmd == r.cmd && s.ralpexCore x == s.ralpexCore r) == some r

/-- A command's ownership of a sector ends as the last of its writes there has landed or is given up, once its segments are past it
(R163). -/
def State.landOwn (s : State) (r : RalpexReq) : State :=
  match r.cmd with
  | none => s
  | some k =>
    if ((s.cmds.find? (·.id == k)).map fun c => c.sectors.contains (sectorOf r.pa) || c.fills.contains (sectorOf r.pa)).getD false then s
    else s.disown k (· == sectorOf r.pa)

/-- RALPEX_REQUEST: a store carried to another package is performed at its home slice. A copy of the sector in the core's L1 is
older, and is discarded (R159); an engine's write leaves the copies in L1s behind (R164). -/
def fireRalpexRequest (s : State) : Option State :=
  (s.ralpex.find? fun r => decide (r.due ≤ s.clk) && r.answered s && s.ralpexFirst r).map fun r =>
    let t := { s with ralpex := s.ralpex.erase r }.pkgWrite r.pa r.bs
    if r.cmd.isSome then (t.leaveBehind (sectorOf r.pa)).landOwn r else
    match s.ralpexCore r with
    | some k => t.l1Drop k (sectorOf r.pa)
    | none => t

def execRalpexRequest (s : State) : Host.Outcome State Fault Refusal := .next ((fireRalpexRequest s).getD s)

/-- RALPEX_TIMEOUT: 100 microseconds without an answer. -/
def fireRalpexTimeout (s : State) : Option State :=
  (s.ralpex.find? fun r => decide (r.deadline ≤ s.clk)).map fun r =>
    ({ s with ralpex := s.ralpex.erase r }.unreachable (((s.wg? r.wg).map Workgroup.ctx).getD 0) r.pa).landOwn r

def execRalpexTimeout (s : State) : Host.Outcome State Fault Refusal := .next ((fireRalpexTimeout s).getD s)

end Sys2Proof.Machine
end

