-- ==== Sys2Proof/Machine/Integer.lean ====
section
/-! DEFINITION. The integer, logic and predicate instructions of the VALU class (R99 to R109). -/

namespace Sys2Proof.Machine

/-- MOV (R100): the source's tag and image, or the home lane for a = 63. -/
def execMov (g : Guard) (d a : RegCode) (s : State) : Host.Outcome State Fault Refusal :=
  s.issue fun c s =>
    let ts := active s c g
    let img := fun hw => if a = 63 then RegImg.a 0 1 else s.readImg c.wg hw a.toNat
    fixed s c ts 4 (regWrites ts d.toNat (fun t => (img (t / 32)).lane (t % 32)) fun hw => some (img hw))

/-- MOVI (R100). -/
def execMovi (g : Guard) (d : RegCode) (x : Word) (s : State) : Host.Outcome State Fault Refusal :=
  s.issue fun c s => let ts := active s c g; fixed s c ts 4 (regWrites ts d.toNat (fun _ => x) (uImg fun _ => x))

/-- MOVH (R100): the high register of the pair; vd is not written. -/
def execMovh (g : Guard) (d : RegCode) (x : Word) (s : State) : Host.Outcome State Fault Refusal :=
  s.issue fun c s => let ts := active s c g; fixed s c ts 4 (regWrites ts (d.toNat + 1) (fun _ => x) (uImg fun _ => x))

/-- A 32-bit operation whose image on affine sources is given (R80). -/
def op2Aff (g : Guard) (d : RegCode) (a b : Src) (f : Word → Word → Word) (aff : RegImg → RegImg → Option RegImg)
    (c : Issue) (s : State) : State :=
  let ts := active s c g
  fixed s c ts 4 (regWrites ts d.toNat (fun t => f (src s c a t) (src s c b t)) fun hw =>
    aff (srcImg s c hw a) (srcImg s c hw b))

/-- ADD (R101). -/
def execAdd (g : Guard) (d : RegCode) (a b : Src) (s : State) : Host.Outcome State Fault Refusal :=
  s.issue (op2Aff g d a b (· + ·) (affineSum (· + ·)))

/-- SUB (R101). -/
def execSub (g : Guard) (d : RegCode) (a b : Src) (s : State) : Host.Outcome State Fault Refusal :=
  s.issue (op2Aff g d a b (· - ·) (affineSum (· - ·)))

/-- A sum or difference with the carry in and out in p7, tag G (R101). -/
def carryOp (g : Guard) (d : RegCode) (a b : Src) (f : Nat → Nat → Nat → Nat × Bool) (c : Issue) (s : State) : State :=
  let ts := active s c g
  let r := fun t => f (src s c a t).toNat (src s c b t).toNat (if s.predOf c.wg t 7 then 1 else 0)
  fixed s c ts 4 (regWrites ts d.toNat (fun t => BitVec.ofNat 32 (r t).1) noImg) (ts.map fun t => (t, 7, (r t).2))

/-- ADDC (R101). -/
def execAddc (g : Guard) (d : RegCode) (a b : Src) (s : State) : Host.Outcome State Fault Refusal :=
  s.issue (carryOp g d a b fun x y k => (x + y + k, decide (x + y + k ≥ 2^32)))

/-- SUBB (R101). -/
def execSubb (g : Guard) (d : RegCode) (a b : Src) (s : State) : Host.Outcome State Fault Refusal :=
  s.issue (carryOp g d a b fun x y k => (x + 2^33 - y - k, decide (x < y + k)))

/-- NEG (R101). -/
def execNeg (g : Guard) (d : RegCode) (a : Src) (s : State) : Host.Outcome State Fault Refusal :=
  s.issue (op1 4 g d a fun x => -x)

/-- ABS (R101): 0x8000_0000 stays; tag G. -/
def execAbs (g : Guard) (d : RegCode) (a : Src) (s : State) : Host.Outcome State Fault Refusal :=
  s.issue fun c s =>
    let ts := active s c g
    fixed s c ts 4 (regWrites ts d.toNat (fun t => let x := src s c a t; if x.msb then -x else x) noImg)

/-- MUL (R102). -/
def execMul (g : Guard) (d : RegCode) (a b : Src) (s : State) : Host.Outcome State Fault Refusal :=
  s.issue (op2Aff g d a b (· * ·) affineMul)

/-- MULH.i (R102). -/
def execMulhI (g : Guard) (d : RegCode) (a b : Src) (s : State) : Host.Outcome State Fault Refusal :=
  s.issue (op2 6 g d a b fun x y => BitVec.ofInt 32 (x.toInt * y.toInt / 2^32))

/-- MULH.n (R102). -/
def execMulhN (g : Guard) (d : RegCode) (a b : Src) (s : State) : Host.Outcome State Fault Refusal :=
  s.issue (op2 6 g d a b fun x y => BitVec.ofNat 32 (x.toNat * y.toNat / 2^32))

/-- MAD (R102): the addend is d. -/
def execMad (g : Guard) (d : RegCode) (a b : Src) (s : State) : Host.Outcome State Fault Refusal :=
  s.issue fun c s =>
    let ts := active s c g
    let val := fun t => src s c a t * src s c b t + s.readReg c.wg t d.toNat
    fixed s c ts 4 (regWrites ts d.toNat val (uRule s c (d.toNat :: srcRegs a ++ srcRegs b) val))

/-- MADW (R102): tag G in both registers. -/
def madw (g : Guard) (d : RegCode) (a b : Src) (f : Word → Word → Word64) (c : Issue) (s : State) : State :=
  let ts := active s c g
  fixed s c ts 8 (pairWrites ts d.toNat (fun t => f (src s c a t) (src s c b t) + reg64 s c d t) noImg2)

def execMadwI (g : Guard) (d : RegCode) (a b : Src) (s : State) : Host.Outcome State Fault Refusal :=
  s.issue (madw g d a b fun x y => x.signExtend 64 * y.signExtend 64)

def execMadwN (g : Guard) (d : RegCode) (a b : Src) (s : State) : Host.Outcome State Fault Refusal :=
  s.issue (madw g d a b fun x y => x.setWidth 64 * y.setWidth 64)

/-- MIN.i, MIN.n, MAX.i, MAX.n, AND, OR, XOR, NOT (R103). -/
def execMinI (g : Guard) (d : RegCode) (a b : Src) (s : State) : Host.Outcome State Fault Refusal :=
  s.issue (op2 4 g d a b fun x y => if x.toInt ≤ y.toInt then x else y)

def execMinN (g : Guard) (d : RegCode) (a b : Src) (s : State) : Host.Outcome State Fault Refusal :=
  s.issue (op2 4 g d a b fun x y => if x.toNat ≤ y.toNat then x else y)

def execMaxI (g : Guard) (d : RegCode) (a b : Src) (s : State) : Host.Outcome State Fault Refusal :=
  s.issue (op2 4 g d a b fun x y => if x.toInt ≤ y.toInt then y else x)

def execMaxN (g : Guard) (d : RegCode) (a b : Src) (s : State) : Host.Outcome State Fault Refusal :=
  s.issue (op2 4 g d a b fun x y => if x.toNat ≤ y.toNat then y else x)

def execAnd (g : Guard) (d : RegCode) (a b : Src) (s : State) : Host.Outcome State Fault Refusal :=
  s.issue (op2 4 g d a b (· &&& ·))

def execOr (g : Guard) (d : RegCode) (a b : Src) (s : State) : Host.Outcome State Fault Refusal :=
  s.issue (op2 4 g d a b (· ||| ·))

def execXor (g : Guard) (d : RegCode) (a b : Src) (s : State) : Host.Outcome State Fault Refusal :=
  s.issue (op2 4 g d a b (· ^^^ ·))

def execNot (g : Guard) (d : RegCode) (a : Src) (s : State) : Host.Outcome State Fault Refusal :=
  s.issue (op1 4 g d a (~~~ ·))

/-- SHL, SHR, SAR by y[5:0]; ROT left by y[4:0] (R103). -/
def execShl (g : Guard) (d : RegCode) (a b : Src) (s : State) : Host.Outcome State Fault Refusal :=
  s.issue (op2 4 g d a b fun x y => x <<< (y.toNat % 64))

def execShr (g : Guard) (d : RegCode) (a b : Src) (s : State) : Host.Outcome State Fault Refusal :=
  s.issue (op2 4 g d a b fun x y => x >>> (y.toNat % 64))

def execSar (g : Guard) (d : RegCode) (a b : Src) (s : State) : Host.Outcome State Fault Refusal :=
  s.issue (op2 4 g d a b fun x y => x.sshiftRight (y.toNat % 64))

def execRot (g : Guard) (d : RegCode) (a b : Src) (s : State) : Host.Outcome State Fault Refusal :=
  s.issue (op2 4 g d a b fun x y => let n := y.toNat % 32; (x <<< n) ||| (x >>> (32 - n)))

/-- pos and len of a bit-field parameter (R104). -/
def bfPos (p : Word) : Nat := p.toNat % 32
def bfLen (p : Word) : Nat := min (p.toNat / 256 % 64) (32 - bfPos p)

/-- BFX.n and BFX.i (R104). -/
def execBfxN (g : Guard) (d : RegCode) (a b : Src) (s : State) : Host.Outcome State Fault Refusal :=
  s.issue (op2 4 g d a b fun x p => BitVec.ofNat 32 (x.toNat / 2^(bfPos p) % 2^(bfLen p)))

def execBfxI (g : Guard) (d : RegCode) (a b : Src) (s : State) : Host.Outcome State Fault Refusal :=
  s.issue (op2 4 g d a b fun x p =>
    if bfLen p = 0 then 0 else BitVec.ofNat 32 (sext (bfLen p) 32 (x.toNat / 2^(bfPos p) % 2^(bfLen p))))

/-- BFI (R104): the field of a into the base value b, placed by the extension word. -/
def execBfi (g : Guard) (d a b : RegCode) (x : Word) (s : State) : Host.Outcome State Fault Refusal :=
  s.issue (op2 4 g d (.reg a) (.reg b) fun v base =>
    let mask : Word := BitVec.ofNat 32 ((2^(bfLen x) - 1) * 2^(bfPos x))
    (base &&& ~~~ mask) ||| ((v <<< bfPos x) &&& mask))

/-- POPC, CLZ, BREV (R105). -/
def execPopc (g : Guard) (d : RegCode) (a : Src) (s : State) : Host.Outcome State Fault Refusal :=
  s.issue (op1 4 g d a fun x => BitVec.ofNat 32 (popcount 32 x.toNat))

def execClz (g : Guard) (d : RegCode) (a : Src) (s : State) : Host.Outcome State Fault Refusal :=
  s.issue (op1 4 g d a fun x => if x = 0 then 32 else BitVec.ofNat 32 (31 - Nat.log2 x.toNat))

def execBrev (g : Guard) (d : RegCode) (a : Src) (s : State) : Host.Outcome State Fault Refusal :=
  s.issue (op1 4 g d a fun x => BitVec.ofNat 32 (sumNat ((List.range 32).map fun i => if x.getLsbD i then 2^(31 - i) else 0)))

/-- SEL (R106): in a home wave written whole where the predicate holds one value, the selected source's tag and image. -/
def execSel (g : Guard) (q : BitVec 3) (d : RegCode) (a b : Src) (s : State) : Host.Outcome State Fault Refusal :=
  s.issue fun c s =>
    let ts := active s c g
    let p := fun t => s.predOf c.wg t q.toNat
    fixed s c ts 4 (regWrites ts d.toNat (fun t => if p t then src s c a t else src s c b t) fun hw =>
      let ws := ts.filter (· / 32 == hw)
      if ws.all p then some (srcImg s c hw a) else if ws.any p then none else some (srcImg s c hw b))

/-- The conditions of ICMP (R107). -/
def icmpHolds (k : BitVec 3) (x y : Word) : Bool :=
  match k.toNat with
  | 0 => x == y
  | 1 => x != y
  | 2 => decide (x.toInt < y.toInt)
  | 3 => decide (x.toInt ≤ y.toInt)
  | 4 => decide (x.toInt > y.toInt)
  | 5 => decide (x.toInt ≥ y.toInt)
  | 6 => decide (x.toNat < y.toNat)
  | _ => decide (x.toNat ≥ y.toNat)

/-- ICMP (R107). -/
def execIcmp (g : Guard) (k : BitVec 3) (d : PredCode) (a b : Src) (s : State) : Host.Outcome State Fault Refusal :=
  s.issue fun c s => opPred 4 g d (fun t => icmpHolds k (src s c a t) (src s c b t)) c s

/-- PLOP (R108): the third predicate in X[2:0], the table in X[15:8]. -/
def execPlop (g : Guard) (d a b : PredCode) (x : Word) (s : State) : Host.Outcome State Fault Refusal :=
  s.issue fun c s => opPred 4 g d (fun t =>
    let p := fun n => if s.predOf c.wg t n then 1 else 0
    x.getLsbD (8 + 4 * p a.toNat + 2 * p b.toNat + p (x.toNat % 8))) c s

/-- ADDA (R109). -/
def execAdda (g : Guard) (d a : RegCode) (b : Src) (s : State) : Host.Outcome State Fault Refusal :=
  s.issue fun c s =>
    let ts := active s c g
    let val := fun t => reg64 s c a t + src64 s c b t
    fixed s c ts 4 (pairWrites ts d.toNat val (uRule2 s c (pairCodes a ++ srcRegs64 b) val))

/-- LEA (R109): from the address of this word. -/
def execLea (g : Guard) (d : RegCode) (b : Src) (s : State) : Host.Outcome State Fault Refusal :=
  s.issue fun c s =>
    let ts := active s c g
    let val := fun t => c.addr.setWidth 64 + (src s c b t).signExtend 64
    fixed s c ts 4 (pairWrites ts d.toNat val (uRule2 s c (srcRegs b) val))

end Sys2Proof.Machine
end

