-- ==== Sys2Proof/Machine/Landing.lean ====
section
/-! DEFINITION. Results land (R27 to R29, R80, R93, R96, R141), clauses are fetched and bundles formed (R30, R73), and
breakpoints are taken (R336). -/

namespace Sys2Proof.Machine

/-- A sampled result that finds no way to where it is sampled is poisoned (R348, R375). -/
def State.lateLost (s : State) (p : Pend) : Bool :=
  match p.late, s.wg? p.wg with
  | some (.qstat n q, _), some w => !s.queueRouted (dieOf w.core) n q
  | _, _ => false

/-- The register writes of a result whose value is sampled as it lands (R203, R292, R366, R378). -/
def State.lateWrites (s : State) (p : Pend) : List RegWrite :=
  match p.late with
  | none => p.regs
  | some (.cqstat n q fn, d) => regWrites p.tids d (fun _ => s.cqWord n q fn) noImg
  | some (.qstat n q, d) => regWrites p.tids d (fun _ => if s.lateLost p then 0 else s.qstatWord n q) noImg
  | some (.errq banks k, d) => pairWrites p.tids d (fun t => s.bankWord ((banks.lookup t).getD 127) k) noImg2
  | some (.hmq die k, d) => pairWrites p.tids d (fun _ => s.hmqWord die k) noImg2
  | some (.dieq die, d) => regWrites p.tids d (fun _ => s.dieqWord die) noImg

/-- A predicate of a thread; p0 is true whatever is written (R77). -/
def Thread.setPred (th : Thread) (p : Nat) (b : Bool) : Thread :=
  if p = 0 then th else { th with preds := if b then th.preds ||| BitVec.ofNat 8 (2^p) else th.preds &&& ~~~ (BitVec.ofNat 8 (2^p)) }

/-- What a thread's register depends on once a result is written (R160): a load of this clk at the latest, or what the result was
computed from. -/
def Pend.depIn (p : Pend) (t : Nat) : Nat :=
  if p.load then p.due + 1 else match p.deps with
    | some l => (l.lookup t).getD 0
    | none => 0

/-- Predicates and flags that a result writes, and what its registers depend on. -/
def Pend.apply (p : Pend) (w : Workgroup) : Workgroup :=
  let w := p.preds.foldl (fun w x => w.updThread x.1 fun th => th.setPred x.2.1 x.2.2) w
  let w := p.flags.foldl (fun w x => w.updThread x.1 fun th => { th with fpctl := fpMerge th.fpctl x.2.toNat }) w
  p.regs.foldl (fun w r => r.lanes.foldl (fun w l =>
    let t := 32 * r.hw + l.1
    w.updThread t fun th => th.setDep r.reg (p.depIn t)) w) w

/-- DONE as CQSTAT reports it observes the commands that it counts (R164, R192). -/
def State.seesDone (s : State) (p : Pend) : State :=
  match p.late, s.wg? p.wg with
  | some (.cqstat _ _ 2, _), some w => s.l1Observe w.core
  | _, _ => s

/-- A result lands: registers, predicates, flags and system registers are written, table entries made, its counter falls, poisoned data is
consumed. -/
def State.land (s : State) (p : Pend) : State :=
  let rs := s.lateWrites p
  let bad := p.poison ++ (if s.lateLost p then p.tids.map fun t => (t, 0) else [])
  let s := s.seesDone p
  let s := { s with pend := s.pend.filter (·.id != p.id) }
  let s := s.updWg p.wg fun w => p.makes.foldl Workgroup.make (p.apply (rs.foldl (fun w r => w.applyWrite r) w))
  let s := p.sys.foldl (fun s x => s.writeSys p.wg x.1 x.2.1 x.2.2) s
  let s := match p.ctr with
    | some k => s.countDown p.wg p.tids k p.seq
    | none => s
  bad.foldl (fun s x => s.consume p.wg x.1 x.2) s

/-- Two results that write one thing of a thread: they land in program order (R29, R81). -/
def Pend.clashes (p q : Pend) : Bool :=
  p.wg == q.wg && (
    (p.regs.any fun r => q.regs.any fun x => r.hw == x.hw && r.reg == x.reg && r.lanes.any fun l => x.lanes.any (·.1 == l.1)) ||
    (p.preds.any fun r => q.preds.any fun x => r.1 == x.1 && r.2.1 == x.2.1) ||
    (p.sys.any fun r => q.sys.any fun x => r.1 == x.1 && r.2.1 == x.2.1))

/-- Whether a result writes a register of a thread. -/
def Pend.writesOf (p : Pend) (t reg : Nat) : Bool :=
  p.regs.any fun r => r.hw == t / 32 && r.reg == reg && r.lanes.any fun l => l.1 == t % 32

/-- Whether an older instruction of one of a result's threads, whose own result is still to come, will write a register or
predicate that the result writes (R29, R81): an atomic, an HSUM, a launch or a put. -/
def State.writerBefore (s : State) (p : Pend) : Bool :=
  (s.atoms.any fun a => a.wg == p.wg && decide (a.id < p.seq) && match a.result with
    | some d => p.writesOf a.tidx d || (atomSize a.fields == 8 && p.writesOf a.tidx (d + 1))
    | none => false) ||
  (s.hsums.any fun q => q.wg == p.wg && decide (q.id < p.seq) &&
    (p.writesOf q.tidx q.arg.1 || p.writesOf q.tidx (q.arg.1 + 1))) ||
  (s.launchReqs.any fun q => !q.host && q.wg == p.wg && decide (q.id < p.seq) && p.writesOf q.tidx q.d) ||
  (s.puts.any fun q => !q.host && q.wg == p.wg && decide (q.seq < p.seq) && p.preds.any fun x => x.1 == q.tidx && x.2.1 == q.d)

/-- A result can land: its time has come and no older result of its threads to the same place is still to land (R29, R81). -/
def State.canLand (s : State) (load : Bool) (p : Pend) : Bool :=
  p.load == load && decide (p.due ≤ s.clk) && !(s.pend.any fun q => decide (q.seq < p.seq) && q.clashes p) && !s.writerBefore p

/-- The first that can; an MTS before the flags of the same clk (R96). -/
def State.nextLanding (s : State) (load : Bool) : Option Pend :=
  match s.pend.find? fun p => s.canLand load p && !p.sys.isEmpty with
  | some p => some p
  | none => s.pend.find? (s.canLand load)

/-- RESULT_LANDS (R27, R93). -/
def fireResultLands (s : State) : Option State := (s.nextLanding false).map s.land

def execResultLands (s : State) : Host.Outcome State Fault Refusal := .next ((fireResultLands s).getD s)

/-- LOAD_RESULT_LANDS (R141). -/
def fireLoadResultLands (s : State) : Option State := (s.nextLanding true).map s.land

def execLoadResultLands (s : State) : Host.Outcome State Fault Refusal := .next ((fireLoadResultLands s).getD s)

/-- BUNDLE_FORMATION (R73). -/
def execBundleFormation (s : State) : Host.Outcome State Fault Refusal := .next ((fireBundleFormation s).getD s)

/-- Whether the clause at a header meets poisoned code (R348). -/
def State.codePoisoned (s : State) (w : Workgroup) (hdr : CodeAddr) : Option Nat :=
  match s.fetchClause w hdr with
  | .error (code, addr) => if code = UNCORRECTABLE then some addr else none
  | .ok _ => none

/-- Poisoned code of a redundant or contained workgroup (R348, R350, R358): the pair is back at its last matched point, or
at a second time takes REDUNMISMATCH; a CONTAIN workgroup is killed. -/
def State.fetchConsumes (s : State) (w : Workgroup) (r : Redun) : State :=
  let lead := if r.trailing then r.partner else w.uid
  if r.rollbacks = 0 then s.rollback w.uid r.matched else s.redunMismatch lead r.matched (r.matched + 1)

/-- CLAUSE_FETCH (R30, R348). -/
def fireClauseFetch (s : State) : Option State :=
  match s.bundles.find? (·.words.isNone) with
  | none => none
  | some b => match s.wg? b.wg with
    | none => some { s with bundles := s.bundles.filter (·.id != b.id) }
    | some w =>
      match s.codePoisoned w b.hdr with
      | none => some (s.fetchFor b w)
      | some a =>
        let s := match s.translate (some w.core) w.ctx w.secure .exec a with
          | .ok l => s.recordPoison w l.pa
          | .error _ => s
        if w.copied then match w.redun with
          | some r => some (s.fetchConsumes w r)
          | none => some s
        else match w.contain with
          | some _ => some (s.consume b.wg (elect b.tids) (BitVec.ofNat 64 a))
          | none => some (s.fetchFor b w)

def execClauseFetch (s : State) : Host.Outcome State Fault Refusal := .next ((fireClauseFetch s).getD s)

/-- BREAKPOINT (R336). -/
def execBreakpoint (s : State) : Host.Outcome State Fault Refusal := .next ((fireBreakpoint s).getD s)

end Sys2Proof.Machine
end

