-- ==== Sys2Proof/Machine/Power.lean ====
section
/-! DEFINITION. The power arbiter of IOD0 (R388) and thermal limits (R227, R212). -/

namespace Sys2Proof.Machine

/-- Draw of one active-slab permit and of one dense-pipe permit, in mW (R388). -/
def slabMilliwatt : Nat := 134
def denseMilliwatt : Nat := 930

def drawOf (ps : List (Nat × Nat)) : Nat := sumNat (ps.map fun p => slabMilliwatt * p.1 + denseMilliwatt * p.2)

/-- Slab and dense permits that a die's waiting and running operations need, capped by its thermal limit (R388). -/
def State.permitDemand (s : State) (die : Nat) : Nat × Nat :=
  let os := s.ops.filter fun o => (s.opCore o).map dieOf == some die
  let d := s.dies.getD die .reset
  (min d.slabCap (sumNat ((os.filter (·.isAmv)).map (·.rest))), min d.denseCap (os.filter (·.dense)).length)

/-- floor(f × demand) of each kind, f = allowance / demanded draw (R388). -/
def scaleGrants (budget : Nat) (demand : List (Nat × Nat)) : List (Nat × Nat) :=
  let draw := drawOf demand
  demand.map fun p => (budget * p.1 / draw, budget * p.2 / draw)

/-- The remainder: dies in ascending order, each one more dense permit and then one more slab permit where it fits and
where demand exceeds grant (R388). -/
def grantRemainder : Nat → List ((Nat × Nat) × (Nat × Nat)) → List (Nat × Nat)
  | _, [] => []
  | left, (dem, g) :: r =>
    let dense := decide (g.2 < dem.2) && decide (denseMilliwatt ≤ left)
    let left := if dense then left - denseMilliwatt else left
    let slab := decide (g.1 < dem.1) && decide (slabMilliwatt ≤ left)
    let left := if slab then left - slabMilliwatt else left
    (if slab then g.1 + 1 else g.1, if dense then g.2 + 1 else g.2) :: grantRemainder left r

/-- The grants of a period, by die, for a list of demands (R388). `budget` is the allowance in mW. -/
def grantsFor (budget : Nat) (demand : List (Nat × Nat)) : List (Nat × Nat) :=
  if drawOf demand ≤ budget then demand
  else
    let g := scaleGrants budget demand
    grantRemainder (budget - drawOf g) (demand.zip g)

/-- Channels of a stack that run a wave or have one waiting at the head of its queue. -/
def State.hearthDemand (s : State) (stack : Nat) : Nat :=
  s.wavesOn stack + (s.cmds.filter fun c => (c.kind == .hlut || c.kind == .hlutw) && !c.started && c.accepted &&
    hStack c.block == stack && s.atHead c).length

/-- POWER_GRANT_PERIOD (R388): every 1,800 clk. -/
def firePowerGrantPeriod (s : State) : Option State :=
  if s.clk < s.permitAt then none else
  let demand := (List.range 64).map s.permitDemand
  let grants := grantsFor (1000 * s.allow.toNat) demand
  some { s with
    permitAt := s.permitAt + Config.usClk
    dies := s.dies.zipIdx.map fun d => match grants[d.2]? with
      | some g => { d.1 with slabGrant := g.1, denseGrant := g.2 }
      | none => d.1
    stackGrant := s.stackCap.zipIdx.map fun c => min c.1 (s.hearthDemand c.2) }

def execPowerGrantPeriod (s : State) : Host.Outcome State Fault Refusal := .next ((firePowerGrantPeriod s).getD s)

/-- THERMAL_LIMIT (R227, R212): units 0 to 63 are the compute dies, 64 to 71 the stacks; a limit counts from the next
grant. -/
def execThermalLimit (unit : BitVec 7) (slabs dense : BitVec 9) (s : State) : Host.Outcome State Fault Refusal :=
  .next (if unit.toNat < 64 then s.updDie unit.toNat fun d => { d with slabCap := min 256 slabs.toNat, denseCap := min 16 dense.toNat }
    else { s with stackCap := s.stackCap.modify (unit.toNat - 64) fun _ => min 32 slabs.toNat })

end Sys2Proof.Machine
end

