-- ==== Sys2Proof/Machine/Dispatch.lean ====
section
/-! DEFINITION. One arm for each instruction and event: its meaning. -/

namespace Sys2Proof.Machine

def exec (i : Instr) (s : State) : Host.Outcome State Fault Refusal :=
  match i with
  | .nop g => Sys2Proof.Machine.execNop g s
  | .bra g o => Sys2Proof.Machine.execBra g o s
  | .brp g o => Sys2Proof.Machine.execBrp g o s
  | .brn g o => Sys2Proof.Machine.execBrn g o s
  | .brx g a => Sys2Proof.Machine.execBrx g a s
  | .jmp g a => Sys2Proof.Machine.execJmp g a s
  | .callr g d a => Sys2Proof.Machine.execCallr g d a s
  | .ret g => Sys2Proof.Machine.execRet g s
  | .call g o => Sys2Proof.Machine.execCall g o s
  | .meet g o => Sys2Proof.Machine.execMeet g o s
  | .unmeet g => Sys2Proof.Machine.execUnmeet g s
  | .exit g => Sys2Proof.Machine.execExit g s
  | .voteAny g d a inv => Sys2Proof.Machine.execVoteAny g d a inv s
  | .voteAll g d a inv => Sys2Proof.Machine.execVoteAll g d a inv s
  | .voteBallot g d a inv => Sys2Proof.Machine.execVoteBallot g d a inv s
  | .shflIdx g d a b => Sys2Proof.Machine.execShflIdx g d a b s
  | .shflUp g d a b => Sys2Proof.Machine.execShflUp g d a b s
  | .shflDown g d a b => Sys2Proof.Machine.execShflDown g d a b s
  | .shflXor g d a b => Sys2Proof.Machine.execShflXor g d a b s
  | .shape g d a t => Sys2Proof.Machine.execShape g d a t s
  | .tagq g d a => Sys2Proof.Machine.execTagq g d a s
  | .movx g d a => Sys2Proof.Machine.execMovx g d a s
  | .movxw g a b => Sys2Proof.Machine.execMovxw g a b s
  | .mov g d a => Sys2Proof.Machine.execMov g d a s
  | .movi g d x => Sys2Proof.Machine.execMovi g d x s
  | .movh g d x => Sys2Proof.Machine.execMovh g d x s
  | .add g d a b => Sys2Proof.Machine.execAdd g d a b s
  | .addc g d a b => Sys2Proof.Machine.execAddc g d a b s
  | .sub g d a b => Sys2Proof.Machine.execSub g d a b s
  | .subb g d a b => Sys2Proof.Machine.execSubb g d a b s
  | .neg g d a => Sys2Proof.Machine.execNeg g d a s
  | .abs g d a => Sys2Proof.Machine.execAbs g d a s
  | .mul g d a b => Sys2Proof.Machine.execMul g d a b s
  | .mulhI g d a b => Sys2Proof.Machine.execMulhI g d a b s
  | .mulhN g d a b => Sys2Proof.Machine.execMulhN g d a b s
  | .mad g d a b => Sys2Proof.Machine.execMad g d a b s
  | .madwI g d a b => Sys2Proof.Machine.execMadwI g d a b s
  | .madwN g d a b => Sys2Proof.Machine.execMadwN g d a b s
  | .minI g d a b => Sys2Proof.Machine.execMinI g d a b s
  | .minN g d a b => Sys2Proof.Machine.execMinN g d a b s
  | .maxI g d a b => Sys2Proof.Machine.execMaxI g d a b s
  | .maxN g d a b => Sys2Proof.Machine.execMaxN g d a b s
  | .and g d a b => Sys2Proof.Machine.execAnd g d a b s
  | .or g d a b => Sys2Proof.Machine.execOr g d a b s
  | .xor g d a b => Sys2Proof.Machine.execXor g d a b s
  | .not g d a => Sys2Proof.Machine.execNot g d a s
  | .shl g d a b => Sys2Proof.Machine.execShl g d a b s
  | .shr g d a b => Sys2Proof.Machine.execShr g d a b s
  | .sar g d a b => Sys2Proof.Machine.execSar g d a b s
  | .rot g d a b => Sys2Proof.Machine.execRot g d a b s
  | .bfxI g d a b => Sys2Proof.Machine.execBfxI g d a b s
  | .bfxN g d a b => Sys2Proof.Machine.execBfxN g d a b s
  | .bfi g d a b x => Sys2Proof.Machine.execBfi g d a b x s
  | .popc g d a => Sys2Proof.Machine.execPopc g d a s
  | .clz g d a => Sys2Proof.Machine.execClz g d a s
  | .brev g d a => Sys2Proof.Machine.execBrev g d a s
  | .sel g q d a b => Sys2Proof.Machine.execSel g q d a b s
  | .icmp g c d a b => Sys2Proof.Machine.execIcmp g c d a b s
  | .plop g d a b x => Sys2Proof.Machine.execPlop g d a b x s
  | .adda g d a b => Sys2Proof.Machine.execAdda g d a b s
  | .lea g d b => Sys2Proof.Machine.execLea g d b s
  | .fadd g t d a b => Sys2Proof.Machine.execFadd g t d a b s
  | .fsub g t d a b => Sys2Proof.Machine.execFsub g t d a b s
  | .fmul g t d a b => Sys2Proof.Machine.execFmul g t d a b s
  | .ffma g t d a b => Sys2Proof.Machine.execFfma g t d a b s
  | .fmin g t d a b => Sys2Proof.Machine.execFmin g t d a b s
  | .fmax g t d a b => Sys2Proof.Machine.execFmax g t d a b s
  | .fcmp g t d a b => Sys2Proof.Machine.execFcmp g t d a b s
  | .fclass g t d a => Sys2Proof.Machine.execFclass g t d a s
  | .fsqrt g t d a => Sys2Proof.Machine.execFsqrt g t d a s
  | .fdiv g t d a b => Sys2Proof.Machine.execFdiv g t d a b s
  | .frcp g t d a => Sys2Proof.Machine.execFrcp g t d a s
  | .frsq g t d a => Sys2Proof.Machine.execFrsq g t d a s
  | .fex2 g t d a => Sys2Proof.Machine.execFex2 g t d a s
  | .flg2 g t d a => Sys2Proof.Machine.execFlg2 g t d a s
  | .fsin g t d a => Sys2Proof.Machine.execFsin g t d a s
  | .fcos g t d a => Sys2Proof.Machine.execFcos g t d a s
  | .cvt g f d a idx => Sys2Proof.Machine.execCvt g f d a idx s
  | .cvtr g f d a idx => Sys2Proof.Machine.execCvtr g f d a idx s
  | .bpack g f d a b => Sys2Proof.Machine.execBpack g f d a b s
  | .bunpack g f d a b => Sys2Proof.Machine.execBunpack g f d a b s
  | .bscaleRead g d a k => Sys2Proof.Machine.execBscaleRead g d a k s
  | .bscaleWrite g d a k => Sys2Proof.Machine.execBscaleWrite g d a k s
  | .fmtq g d a => Sys2Proof.Machine.execFmtq g d a s
  | .fmtqSlot g d k => Sys2Proof.Machine.execFmtqSlot g d k s
  | .fmtqElem g d k => Sys2Proof.Machine.execFmtqElem g d k s
  | .fpack2 g d a b => Sys2Proof.Machine.execFpack2 g d a b s
  | .funpk2 g d a b => Sys2Proof.Machine.execFunpk2 g d a b s
  | .ld g w d a off => Sys2Proof.Machine.execLd g w d a off s
  | .st g w d a off => Sys2Proof.Machine.execSt g w d a off s
  | .ldu g w d a off => Sys2Proof.Machine.execLdu g w d a off s
  | .ldl g w d a off => Sys2Proof.Machine.execLdl g w d a off s
  | .stl g w d a off => Sys2Proof.Machine.execStl g w d a off s
  | .pref g f a off => Sys2Proof.Machine.execPref g f a off s
  | .tdef g e a k => Sys2Proof.Machine.execTdef g e a k s
  | .tfree g k => Sys2Proof.Machine.execTfree g k s
  | .tqry g f d k => Sys2Proof.Machine.execTqry g f d k s
  | .tld g f d a b x => Sys2Proof.Machine.execTld g f d a b x s
  | .tst g f d a b x => Sys2Proof.Machine.execTst g f d a b x s
  | .ldtr g d a b x => Sys2Proof.Machine.execLdtr g d a b x s
  | .lserrq g f d => Sys2Proof.Machine.execLserrq g f d s
  | .cctl g f a off => Sys2Proof.Machine.execCctl g f a off s
  | .fence g k x => Sys2Proof.Machine.execFence g k x s
  | .bar g k => Sys2Proof.Machine.execBar g k s
  | .barx g a k => Sys2Proof.Machine.execBarx g a k s
  | .gsync g => Sys2Proof.Machine.execGsync g s
  | .arrive g f d a k => Sys2Proof.Machine.execArrive g f d a k s
  | .awaitb g a k => Sys2Proof.Machine.execAwaitb g a k s
  | .waitv g c d a off => Sys2Proof.Machine.execWaitv g c d a off s
  | .lda g c d a off => Sys2Proof.Machine.execLda g c d a off s
  | .strl g c d a off => Sys2Proof.Machine.execStrl g c d a off s
  | .atom g f d a b x => Sys2Proof.Machine.execAtom g f d a b x s
  | .atomc g f d a b x => Sys2Proof.Machine.execAtomc g f d a b x s
  | .red g a b x => Sys2Proof.Machine.execRed g a b x s
  | .tbegin g o => Sys2Proof.Machine.execTbegin g o s
  | .tend g => Sys2Proof.Machine.execTend g s
  | .tabort g b => Sys2Proof.Machine.execTabort g b s
  | .tstat g d => Sys2Proof.Machine.execTstat g d s
  | .cpy g a => Sys2Proof.Machine.execCpy g a s
  | .cpyg g a => Sys2Proof.Machine.execCpyg g a s
  | .cpys g a => Sys2Proof.Machine.execCpys g a s
  | .cpyx g a => Sys2Proof.Machine.execCpyx g a s
  | .cqbind g k => Sys2Proof.Machine.execCqbind g k s
  | .cqstat g f d k => Sys2Proof.Machine.execCqstat g f d k s
  | .cqdrain g k => Sys2Proof.Machine.execCqdrain g k s
  | .hlut g a => Sys2Proof.Machine.execHlut g a s
  | .hlutw g a => Sys2Proof.Machine.execHlutw g a s
  | .hsum g f d a => Sys2Proof.Machine.execHsum g f d a s
  | .slabm g f k => Sys2Proof.Machine.execSlabm g f k s
  | .wload g f a k => Sys2Proof.Machine.execWload g f a k s
  | .wbmap g f a k => Sys2Proof.Machine.execWbmap g f a k s
  | .wscale g f a k => Sys2Proof.Machine.execWscale g f a k s
  | .elect g d => Sys2Proof.Machine.execElect g d s
  | .amv g a q => Sys2Proof.Machine.execAmv g a q s
  | .amvb g a q => Sys2Proof.Machine.execAmvb g a q s
  | .await g m => Sys2Proof.Machine.execAwait g m s
  | .cralloc g d a k => Sys2Proof.Machine.execCralloc g d a k s
  | .crfree g a k => Sys2Proof.Machine.execCrfree g a k s
  | .crzero g a k => Sys2Proof.Machine.execCrzero g a k s
  | .crrd g f d a k => Sys2Proof.Machine.execCrrd g f d a k s
  | .lease g a k => Sys2Proof.Machine.execLease g a k s
  | .unlease g k => Sys2Proof.Machine.execUnlease g k s
  | .omap g a k => Sys2Proof.Machine.execOmap g a k s
  | .mma g a => Sys2Proof.Machine.execMma g a s
  | .nzscan g a k => Sys2Proof.Machine.execNzscan g a k s
  | .mmag g a => Sys2Proof.Machine.execMmag g a s
  | .epi g a => Sys2Proof.Machine.execEpi g a s
  | .crwr g d a k => Sys2Proof.Machine.execCrwr g d a k s
  | .launch g d a => Sys2Proof.Machine.execLaunch g d a s
  | .lwait g d a => Sys2Proof.Machine.execLwait g d a s
  | .migrate g d a => Sys2Proof.Machine.execMigrate g d a s
  | .qput g d a q => Sys2Proof.Machine.execQput g d a q s
  | .qputw g d a q => Sys2Proof.Machine.execQputw g d a q s
  | .qstat g d q => Sys2Proof.Machine.execQstat g d q s
  | .targ g d k => Sys2Proof.Machine.execTarg g d k s
  | .tdone g a k => Sys2Proof.Machine.execTdone g a k s
  | .stnc g a q => Sys2Proof.Machine.execStnc g a q s
  | .vdecl g t o k => Sys2Proof.Machine.execVdecl g t o k s
  | .spawn g d a q => Sys2Proof.Machine.execSpawn g d a q s
  | .vtile g t k => Sys2Proof.Machine.execVtile g t k s
  | .solder g => Sys2Proof.Machine.execSolder g s
  | .vsync g => Sys2Proof.Machine.execVsync g s
  | .vqry g d e => Sys2Proof.Machine.execVqry g d e s
  | .trap g k => Sys2Proof.Machine.execTrap g k s
  | .eret g => Sys2Proof.Machine.execEret g s
  | .yield g a => Sys2Proof.Machine.execYield g a s
  | .dbrk g k => Sys2Proof.Machine.execDbrk g k s
  | .sleep g a => Sys2Proof.Machine.execSleep g a s
  | .scall g k => Sys2Proof.Machine.execScall g k s
  | .sret g => Sys2Proof.Machine.execSret g s
  | .mfs g d n => Sys2Proof.Machine.execMfs g d n s
  | .mts g a n => Sys2Proof.Machine.execMts g a n s
  | .tlbi g a k => Sys2Proof.Machine.execTlbi g a k s
  | .ctxsw g d a k => Sys2Proof.Machine.execCtxsw g d a k s
  | .commit g => Sys2Proof.Machine.execCommit g s
  | .sigq g d k => Sys2Proof.Machine.execSigq g d k s
  | .errq g d a k => Sys2Proof.Machine.execErrq g d a k s
  | .errclr g a => Sys2Proof.Machine.execErrclr g a s
  | .errinj g a k => Sys2Proof.Machine.execErrinj g a k s
  | .mirf g d => Sys2Proof.Machine.execMirf g d s
  | .hmq g d a k => Sys2Proof.Machine.execHmq g d a k s
  | .asgn g d a k => Sys2Proof.Machine.execAsgn g d a k s
  | .keyi g a => Sys2Proof.Machine.execKeyi g a s
  | .keyroll g d a k => Sys2Proof.Machine.execKeyroll g d a k s
  | .quar g a k => Sys2Proof.Machine.execQuar g a k s
  | .dieq g d a => Sys2Proof.Machine.execDieq g d a s
  | .bundleFormation => Sys2Proof.Machine.execBundleFormation s
  | .clauseFetch => Sys2Proof.Machine.execClauseFetch s
  | .resultLands => Sys2Proof.Machine.execResultLands s
  | .loadResultLands => Sys2Proof.Machine.execLoadResultLands s
  | .storeLeavesQueue => Sys2Proof.Machine.execStoreLeavesQueue s
  | .atomicPerformed => Sys2Proof.Machine.execAtomicPerformed s
  | .tokenGrant => Sys2Proof.Machine.execTokenGrant s
  | .barrierRelease => Sys2Proof.Machine.execBarrierRelease s
  | .gsyncSwapOut => Sys2Proof.Machine.execGsyncSwapOut s
  | .gsyncComplete => Sys2Proof.Machine.execGsyncComplete s
  | .waitvReread => Sys2Proof.Machine.execWaitvReread s
  | .l1CopyExpiry => Sys2Proof.Machine.execL1CopyExpiry s
  | .trapEntry => Sys2Proof.Machine.execTrapEntry s
  | .breakpoint => Sys2Proof.Machine.execBreakpoint s
  | .copyAcceptance => Sys2Proof.Machine.execCopyAcceptance s
  | .copyCommandStart => Sys2Proof.Machine.execCopyCommandStart s
  | .copySegmentArrival => Sys2Proof.Machine.execCopySegmentArrival s
  | .copyFinish => Sys2Proof.Machine.execCopyFinish s
  | .hsumSample => Sys2Proof.Machine.execHsumSample s
  | .hearthRedAccept => Sys2Proof.Machine.execHearthRedAccept s
  | .hearthRedApply => Sys2Proof.Machine.execHearthRedApply s
  | .hlutWaveStep => Sys2Proof.Machine.execHlutWaveStep s
  | .hearthRefresh => Sys2Proof.Machine.execHearthRefresh s
  | .anvilOperationStart => Sys2Proof.Machine.execAnvilOperationStart s
  | .permitGroupEnd => Sys2Proof.Machine.execPermitGroupEnd s
  | .anvilOperationComplete => Sys2Proof.Machine.execAnvilOperationComplete s
  | .mmaStart => Sys2Proof.Machine.execMmaStart s
  | .mmaComplete => Sys2Proof.Machine.execMmaComplete s
  | .nzscanComplete => Sys2Proof.Machine.execNzscanComplete s
  | .epiStart => Sys2Proof.Machine.execEpiStart s
  | .epiComplete => Sys2Proof.Machine.execEpiComplete s
  | .crallocGrant => Sys2Proof.Machine.execCrallocGrant s
  | .noprogress => Sys2Proof.Machine.execNoprogress s
  | .leaseGrant => Sys2Proof.Machine.execLeaseGrant s
  | .launchAcceptance => Sys2Proof.Machine.execLaunchAcceptance s
  | .workgroupPlacement => Sys2Proof.Machine.execWorkgroupPlacement s
  | .workgroupRetire => Sys2Proof.Machine.execWorkgroupRetire s
  | .launchCompletion => Sys2Proof.Machine.execLaunchCompletion s
  | .migrateMove => Sys2Proof.Machine.execMigrateMove s
  | .taskPutPlacement => Sys2Proof.Machine.execTaskPutPlacement s
  | .taskRefill => Sys2Proof.Machine.execTaskRefill s
  | .stencilEvaluation => Sys2Proof.Machine.execStencilEvaluation s
  | .taskDispatch => Sys2Proof.Machine.execTaskDispatch s
  | .merge => Sys2Proof.Machine.execMerge s
  | .mergeCommit => Sys2Proof.Machine.execMergeCommit s
  | .contextSaveComplete => Sys2Proof.Machine.execContextSaveComplete s
  | .workgroupRestore => Sys2Proof.Machine.execWorkgroupRestore s
  | .yieldDeadlineExpiry => Sys2Proof.Machine.execYieldDeadlineExpiry s
  | .watchdog => Sys2Proof.Machine.execWatchdog s
  | .sleepExpiry => Sys2Proof.Machine.execSleepExpiry s
  | .qputwTimeout => Sys2Proof.Machine.execQputwTimeout s
  | .commitPoint => Sys2Proof.Machine.execCommitPoint s
  | .mirrorTimeout => Sys2Proof.Machine.execMirrorTimeout s
  | .patrolScrub => Sys2Proof.Machine.execPatrolScrub s
  | .flitCrcFailure link => Sys2Proof.Machine.execFlitCrcFailure link s
  | .packageReset => Sys2Proof.Machine.execPackageReset s
  | .assay => Sys2Proof.Machine.execAssay s
  | .assayTimeout => Sys2Proof.Machine.execAssayTimeout s
  | .linkTraining => Sys2Proof.Machine.execLinkTraining s
  | .keyGenerationDrop link dir => Sys2Proof.Machine.execKeyGenerationDrop link dir s
  | .rolloverRequest link dir => Sys2Proof.Machine.execRolloverRequest link dir s
  | .powerGrantPeriod => Sys2Proof.Machine.execPowerGrantPeriod s
  | .ralpexTimeout => Sys2Proof.Machine.execRalpexTimeout s
  | .ralpexRequest => Sys2Proof.Machine.execRalpexRequest s
  | .hostMemoryAccess write pa data => Sys2Proof.Machine.execHostMemoryAccess write pa data s
  | .doorbell ctx secure tail => Sys2Proof.Machine.execDoorbell ctx secure tail s
  | .launchRingRead => Sys2Proof.Machine.execLaunchRingRead s
  | .ctxcmdSave ctx secure => Sys2Proof.Machine.execCtxcmdSave ctx secure s
  | .ctxcmdResume ctx secure => Sys2Proof.Machine.execCtxcmdResume ctx secure s
  | .ctxcmdQuery ctx secure => Sys2Proof.Machine.execCtxcmdQuery ctx secure s
  | .taskPut ctx queue => Sys2Proof.Machine.execTaskPut ctx queue s
  | .irqstatClear mask => Sys2Proof.Machine.execIrqstatClear mask s
  | .pkgidWrite v => Sys2Proof.Machine.execPkgidWrite v s
  | .allowWrite v => Sys2Proof.Machine.execAllowWrite v s
  | .ctxtabWrite v => Sys2Proof.Machine.execCtxtabWrite v s
  | .deviceRegisterWrite off wide v => Sys2Proof.Machine.execDeviceRegisterWrite off wide v s
  | .keyInstallAcknowledgement => Sys2Proof.Machine.execKeyInstallAcknowledgement s
  | .mirrorAcknowledgement => Sys2Proof.Machine.execMirrorAcknowledgement s
  | .thermalLimit unit slabs dense => Sys2Proof.Machine.execThermalLimit unit slabs dense s
  | .migrateArrival => Sys2Proof.Machine.execMigrateArrival s

end Sys2Proof.Machine
end

