-- ==== Sys2Proof/Machine/Schedule.lean ====
section
/-! DEFINITION. What happens next: inputs from outside, due events in a fixed order, what settles after every step, and the
passing of a clk. -/

namespace Sys2Proof.Machine

/-- The events that the machine's own state makes due, in the order in which those of one clk are taken (log entry 12). -/
def events : List (Instr × (State → Option State)) :=
  [(.packageReset, firePackageReset), (.linkTraining, fireLinkTraining), (.assay, fireAssay), (.assayTimeout, fireAssayTimeout),
   (.keyInstallAcknowledgement, fireKeyInstallAcknowledgement), (.powerGrantPeriod, firePowerGrantPeriod),
   (.patrolScrub, firePatrolScrub), (.l1CopyExpiry, fireL1CopyExpiry), (.resultLands, fireResultLands),
   (.loadResultLands, fireLoadResultLands), (.storeLeavesQueue, fireStoreLeavesQueue), (.atomicPerformed, fireAtomicPerformed),
   (.mirrorAcknowledgement, fireMirrorAcknowledgement), (.mirrorTimeout, fireMirrorTimeout), (.ralpexRequest, fireRalpexRequest),
   (.ralpexTimeout, fireRalpexTimeout), (.hearthRedAccept, fireHearthRedAccept), (.hearthRedApply, fireHearthRedApply),
   (.hearthRefresh, fireHearthRefresh), (.hlutWaveStep, fireHlutWaveStep), (.hsumSample, fireHsumSample),
   (.copyAcceptance, fireCopyAcceptance), (.copySegmentArrival, fireCopySegmentArrival), (.copyFinish, fireCopyFinish),
   (.copyCommandStart, fireCopyCommandStart), (.permitGroupEnd, firePermitGroupEnd),
   (.anvilOperationComplete, fireAnvilOperationComplete), (.mmaComplete, fireMmaComplete), (.nzscanComplete, fireNzscanComplete),
   (.epiComplete, fireEpiComplete), (.anvilOperationStart, fireAnvilOperationStart), (.mmaStart, fireMmaStart),
   (.epiStart, fireEpiStart), (.crallocGrant, fireCrallocGrant), (.noprogress, fireNoprogress), (.leaseGrant, fireLeaseGrant),
   (.tokenGrant, fireTokenGrant), (.barrierRelease, fireBarrierRelease), (.gsyncComplete, fireGsyncComplete),
   (.waitvReread, fireWaitvReread), (.sleepExpiry, fireSleepExpiry), (.commitPoint, fireCommitPoint), (.merge, fireMerge),
   (.mergeCommit, fireMergeCommit), (.taskPutPlacement, fireTaskPutPlacement), (.qputwTimeout, fireQputwTimeout),
   (.taskRefill, fireTaskRefill), (.stencilEvaluation, fireStencilEvaluation), (.launchRingRead, fireLaunchRingRead),
   (.launchAcceptance, fireLaunchAcceptance), (.workgroupRetire, fireWorkgroupRetire), (.launchCompletion, fireLaunchCompletion),
   (.migrateMove, fireMigrateMove), (.migrateArrival, fireMigrateArrival), (.contextSaveComplete, fireContextSaveComplete),
   (.workgroupRestore, fireWorkgroupRestore), (.workgroupPlacement, fireWorkgroupPlacement), (.gsyncSwapOut, fireGsyncSwapOut),
   (.taskDispatch, fireTaskDispatch), (.watchdog, fireWatchdog), (.trapEntry, fireTrapEntry),
   (.yieldDeadlineExpiry, fireYieldDeadlineExpiry), (.clauseFetch, fireClauseFetch), (.breakpoint, fireBreakpoint),
   (.bundleFormation, fireBundleFormation)]

/-- The first event that is due. -/
def dueEvent (s : State) : Option Instr := (events.find? fun e => (e.2 s).isSome).map (·.1)

/-- What may come from outside: the host, the links' hardware, thermal control. -/
def isInput : Instr → Bool
  | .flitCrcFailure .. | .packageReset | .keyGenerationDrop .. | .rolloverRequest .. | .hostMemoryAccess .. | .doorbell ..
  | .ctxcmdSave .. | .ctxcmdResume .. | .ctxcmdQuery .. | .taskPut .. | .irqstatClear .. | .pkgidWrite .. | .allowWrite ..
  | .ctxtabWrite .. | .deviceRegisterWrite .. | .thermalLimit .. => true
  | _ => false

/-! What settles after every step. -/

/-- A tile that is defined and in no state that `ok` allows. -/
def Workgroup.holdsTile (w : Workgroup) (k : Nat) (ok : Tile → Bool) : Bool :=
  match w.tiles[k]? with
  | some x => x.st != .free && !ok x
  | none => false

/-- A tile that is defined. -/
def Workgroup.hasTile (w : Workgroup) (k : Nat) : Bool := ((w.tiles[k]?).map (·.st != .free)).getD false

/-- A thread that parked still waits: the tile or tiles it names are in a state that holds it (R28, R133, R197, R307, R315). -/
def State.stillParked (s : State) (w : Workgroup) (t : Nat) (p : Park) : Bool :=
  match p with
  | .ready k => w.holdsTile k (·.st == .ready)
  | .empty k => w.holdsTile k fun x => x.st == .ready && !s.mergeHolds w.uid k
  | .fill k => w.holdsTile k (s.fillable w.uid k)
  | .free k => w.holdsTile k fun x => !x.busy
  | .pair k u r => match s.wg? u with
    | none => false
    | some v => v.hasTile r && w.hasTile k && (w.holdsTile k (·.st == .ready) || v.holdsTile r (s.fillable u r))
  | .views => (w.viewTiles t).any Tile.moving

/-- Threads released from a park issue their word again. -/
def State.settleParks (s : State) : State :=
  { s with wgs := s.wgs.map fun w : Workgroup => { w with threads := w.threads.zipIdx.map fun x : Thread × Nat =>
      match x.1.st with
      | .parked p => if s.stillParked w x.2 p then x.1 else x.1.release s.clk
      | _ => x.1 } }

/-- Contexts whose stepped instruction is done (R337). -/
def State.settleSteps (s : State) : State := (List.range 64).foldl (fun s n => if (s.ctx n).stepping.isSome then s.stepSettle n else s) s

/-- Everything that follows at once from what a step has done. -/
def State.settle (s : State) : State :=
  let s := s.tickFree.settleSplits.settleSlabs.settleScans.settleParks.settleAwaits.settleLeases.settleRequests.watchProgress
  s.settleDrains.settleViews.settleMirf.settleAsgn.settleSteps.settleYields.settleStops.settleMeets

/-! The passing of a clk. -/

/-- The watchdog counts of the contexts: 0 after a clk in which a thread of the context issued (R333). -/
def State.tickWatchdogs (s : State) : List Context :=
  s.contexts.zipIdx.map fun c =>
    { c.1 with wdcount := if s.issuedCtx.contains c.2 then 0 else if s.wdAdvances c.2 then c.1.wdcount + 1 else c.1.wdcount }

/-- A tile that a command of 0 bytes fills is READY in the clk after its issue (R191). -/
def Tile.tick (x : Tile) : Tile := if x.st = .filling ∧ x.expected = 0 then { x with st := .ready } else x

/-- The grace counts of workgroups asked to yield (R332). -/
def Workgroup.tickYield (w : Workgroup) : Workgroup :=
  if w.yreq ∧ w.ydeadline % 2^32 ≠ 0 then { w with ydeadline := w.ydeadline - 1 } else w

/-- The ages of candidates (R73): a thread that is ready and no candidate in this clk does not grow older. Tiles that were filled
with nothing are READY (R191). -/
def State.tickWg (s : State) (w : Workgroup) : Workgroup :=
  { w with tiles := w.tiles.map Tile.tick, threads := w.threads.zipIdx.map fun x =>
      if x.1.st = .ready ∧ s.candidate w x.2 x.1 = false then { x.1 with since := x.1.since + 1 } else x.1 }

/-- One clk passes; dirty sectors that a die's cache has evicted leave it (R157). -/
def tick (s : State) : State :=
  { s with
    clk := s.clk + 1, errs := [], ports := [], issuedCtx := [], contexts := s.tickWatchdogs, wgs := s.wgs.map fun w => (s.tickWg w).tickYield
    dcache := s.dcache.filter fun x => decide (s.clk + 1 < x.expire)
    pipes := s.pipes.filter fun p => decide (s.clk + 1 < p.2.2) }

end Sys2Proof.Machine
end

