-- ==== Sys2Proof/Machine/Step.lean ====
section
/-! DEFINITION. One step of the package: the first input that is due, else the first event that is due, else the issue of
one word, else the passing of one clk. Each is one indivisible row of spec/opcode_table.json, or a clk. -/

namespace Sys2Proof.Machine

/-- What stands after a meaning: `f` of the state it leaves, and all that follows at once from it. -/
def finish (o : Host.Outcome State Fault Refusal) (f : State → State) : Host.Outcome State Fault Refusal :=
  match o with
  | .next s => .next (f s).settle
  | .fault r => .fault r
  | .refused r => .refused r

/-- The issue of the next word of a bundle (R74). -/
def issueStep (b : Bundle) (w : Workgroup) (s : State) : Host.Outcome State Fault Refusal :=
  let word := ((b.words.getD []).getD b.idx 0).toNat
  match s.prepare b w with
  | (s1, none) => finish (.next s1) (·.endIssue word)
  | (s1, some i) => finish (exec i s1) (·.endInstr i word)

def step (s : State) : Host.Outcome State Fault Refusal :=
  match s.inputs.find? fun x => decide (x.due ≤ s.clk) with
  | some x =>
    let s1 := { s with inputs := s.inputs.erase x, inputSecure := x.secure }
    if isInput x.msg then finish (exec x.msg s1) id else .next s1
  | none =>
    match dueEvent s with
    | some e => finish (exec e s) id
    | none =>
      match s.nextIssue with
      | some b => match s.wg? b.wg with
        | some w => issueStep b w s
        | none => .next (tick s).settle
      | none => .next (tick s).settle

/-- A launch record for the machine that `withFetchWord` sets up: 64 registers, one workgroup of 32 threads. -/
def probeRecord : LaunchRec := { LaunchRec.zero with regs := 64, lsbytes := 65536, slabs := 1, tiles := 8, views := 4 }

def probeLaunch : Launch :=
  { id := 1, ctx := 0, handle := 1, lr := probeRecord, next := 1, again := [], retired := 0, killed := false, status := [],
    tokenHolder := none, tokenQueue := [], complete := false, rr := 0, rrq := 0 }

def probeThread : Thread := { Thread.start 0x1004 0 with mid := some (0x1000, 0), st := .live }

def probeWorkgroup : Workgroup :=
  { uid := 2, launch := 1, ctx := 0, g := 0, core := 0, slot := 0, age := 0, served := 0, secure := false, regs := 64,
    threads := List.replicate 32 probeThread, waves := [List.replicate 64 (.u 0)], window := [], lsbytes := 65536,
    poison := [], flips := [], slabs := [⟨false, [], [], []⟩], slabQ := [], tiles := List.replicate 8 .free, views := [],
    nviews := 4, barriers := List.replicate 16 ⟨0, 0, 0⟩, omaps := List.replicate 8 none,
    cr := List.replicate 16 .free, leases := [.none, .none, .none], cq := 0, lserr := 0, ydeadline := 0, yreq := false,
    yielded := false, gparked := false, redun := none, contain := none, kills := 0 }

/-- The state with an instruction about to issue: the package runs a launch of one workgroup whose one live bundle has
fetched a clause of that instruction's word and its extension word (log entry 15). -/
def State.withFetchWord (s : State) (nbits w : Nat) : State :=
  let v := w % 2^nbits
  let m := majorOf (v % 2^32)
  { s with
    dies := List.replicate 68 { Die.reset with state := .live, passes := 1, ever := true }
    links := s.links.map fun l => { l with state := .open_ }
    resetEnded := true
    contexts := s.contexts.modify 0 fun c => { c with state := .running }
    launches := [probeLaunch]
    wgs := [probeWorkgroup]
    nextId := 4
    bundles := [{ id := 3, core := 0, wg := 2, tids := List.range 32, hdr := 0x1000,
                  words := some [BitVec.ofNat 32 (v % 2^32), BitVec.ofNat 32 (v / 2^32 % 2^32)], idx := 0,
                  cls := classOf m, formed := 0, notBefore := 0, rest := [], crwr := none, tlbi := none }] }

end Sys2Proof.Machine
end

