-- ==== Sys2Proof/Laws/State.lean ====
section
/-! SUPPORT. What each named update of the package's state leaves in every field: one lemma per field, true by `rfl`. -/

namespace Sys2Proof.Machine

@[simp] theorem State.tickFree_clk (s : State) : s.tickFree.clk = s.clk := rfl
@[simp] theorem State.tickFree_fresh (s : State) : s.tickFree.fresh = s.fresh + 1 := rfl
@[simp] theorem State.tickFree_inputs (s : State) : s.tickFree.inputs = s.inputs := rfl
@[simp] theorem State.tickFree_inputSecure (s : State) : s.tickFree.inputSecure = s.inputSecure := rfl
@[simp] theorem State.tickFree_cur (s : State) : s.tickFree.cur = s.cur := rfl
@[simp] theorem State.tickFree_ports (s : State) : s.tickFree.ports = s.ports := rfl
@[simp] theorem State.tickFree_issuedCtx (s : State) : s.tickFree.issuedCtx = s.issuedCtx := rfl
@[simp] theorem State.tickFree_pipes (s : State) : s.tickFree.pipes = s.pipes := rfl
@[simp] theorem State.tickFree_nextId (s : State) : s.tickFree.nextId = s.nextId := rfl
@[simp] theorem State.tickFree_mem (s : State) : s.tickFree.mem = s.mem := rfl
@[simp] theorem State.tickFree_poison (s : State) : s.tickFree.poison = s.poison := rfl
@[simp] theorem State.tickFree_owned (s : State) : s.tickFree.owned = s.owned := rfl
@[simp] theorem State.tickFree_l1 (s : State) : s.tickFree.l1 = s.l1 := rfl
@[simp] theorem State.tickFree_tlb (s : State) : s.tickFree.tlb = s.tlb := rfl
@[simp] theorem State.tickFree_wgs (s : State) : s.tickFree.wgs = s.wgs := rfl
@[simp] theorem State.tickFree_bundles (s : State) : s.tickFree.bundles = s.bundles := rfl
@[simp] theorem State.tickFree_pend (s : State) : s.tickFree.pend = s.pend := rfl
@[simp] theorem State.tickFree_atoms (s : State) : s.tickFree.atoms = s.atoms := rfl
@[simp] theorem State.tickFree_cmds (s : State) : s.tickFree.cmds = s.cmds := rfl
@[simp] theorem State.tickFree_ops (s : State) : s.tickFree.ops = s.ops := rfl
@[simp] theorem State.tickFree_crReqs (s : State) : s.tickFree.crReqs = s.crReqs := rfl
@[simp] theorem State.tickFree_crBusy (s : State) : s.tickFree.crBusy = s.crBusy := rfl
@[simp] theorem State.tickFree_noProg (s : State) : s.tickFree.noProg = s.noProg := rfl
@[simp] theorem State.tickFree_engines (s : State) : s.tickFree.engines = s.engines := rfl
@[simp] theorem State.tickFree_leaseReqs (s : State) : s.tickFree.leaseReqs = s.leaseReqs := rfl
@[simp] theorem State.tickFree_puts (s : State) : s.tickFree.puts = s.puts := rfl
@[simp] theorem State.tickFree_merges (s : State) : s.tickFree.merges = s.merges := rfl
@[simp] theorem State.tickFree_launchReqs (s : State) : s.tickFree.launchReqs = s.launchReqs := rfl
@[simp] theorem State.tickFree_launches (s : State) : s.tickFree.launches = s.launches := rfl
@[simp] theorem State.tickFree_migrations (s : State) : s.tickFree.migrations = s.migrations := rfl
@[simp] theorem State.tickFree_contexts (s : State) : s.tickFree.contexts = s.contexts := rfl
@[simp] theorem State.tickFree_channels (s : State) : s.tickFree.channels = s.channels := rfl
@[simp] theorem State.tickFree_mirrors (s : State) : s.tickFree.mirrors = s.mirrors := rfl
@[simp] theorem State.tickFree_ralpex (s : State) : s.tickFree.ralpex = s.ralpex := rfl
@[simp] theorem State.tickFree_dcache (s : State) : s.tickFree.dcache = s.dcache := rfl
@[simp] theorem State.tickFree_slices (s : State) : s.tickFree.slices = s.slices := rfl
@[simp] theorem State.tickFree_lost (s : State) : s.tickFree.lost = s.lost := rfl
@[simp] theorem State.tickFree_cwords (s : State) : s.tickFree.cwords = s.cwords := rfl
@[simp] theorem State.tickFree_cqNext (s : State) : s.tickFree.cqNext = s.cqNext := rfl
@[simp] theorem State.tickFree_mergeEvents (s : State) : s.tickFree.mergeEvents = s.mergeEvents := rfl
@[simp] theorem State.tickFree_groupAt (s : State) : s.tickFree.groupAt = s.groupAt := rfl
@[simp] theorem State.tickFree_errs (s : State) : s.tickFree.errs = s.errs := rfl
@[simp] theorem State.tickFree_keyInsts (s : State) : s.tickFree.keyInsts = s.keyInsts := rfl
@[simp] theorem State.tickFree_banks (s : State) : s.tickFree.banks = s.banks := rfl
@[simp] theorem State.tickFree_dies (s : State) : s.tickFree.dies = s.dies := rfl
@[simp] theorem State.tickFree_stackCap (s : State) : s.tickFree.stackCap = s.stackCap := rfl
@[simp] theorem State.tickFree_stackGrant (s : State) : s.tickFree.stackGrant = s.stackGrant := rfl
@[simp] theorem State.tickFree_links (s : State) : s.tickFree.links = s.links := rfl
@[simp] theorem State.tickFree_keyStore (s : State) : s.tickFree.keyStore = s.keyStore := rfl
@[simp] theorem State.tickFree_resetEnded (s : State) : s.tickFree.resetEnded = s.resetEnded := rfl
@[simp] theorem State.tickFree_permitAt (s : State) : s.tickFree.permitAt = s.permitAt := rfl
@[simp] theorem State.tickFree_scrubAt (s : State) : s.tickFree.scrubAt = s.scrubAt := rfl
@[simp] theorem State.tickFree_ctxtab (s : State) : s.tickFree.ctxtab = s.ctxtab := rfl
@[simp] theorem State.tickFree_pkgid (s : State) : s.tickFree.pkgid = s.pkgid := rfl
@[simp] theorem State.tickFree_pkgidSet (s : State) : s.tickFree.pkgidSet = s.pkgidSet := rfl
@[simp] theorem State.tickFree_mirpart (s : State) : s.tickFree.mirpart = s.mirpart := rfl
@[simp] theorem State.tickFree_allow (s : State) : s.tickFree.allow = s.allow := rfl
@[simp] theorem State.tickFree_irqstat (s : State) : s.tickFree.irqstat = s.irqstat := rfl
@[simp] theorem State.tickFree_ctxcmd (s : State) : s.tickFree.ctxcmd = s.ctxcmd := rfl
@[simp] theorem State.tickFree_ctxres (s : State) : s.tickFree.ctxres = s.ctxres := rfl
@[simp] theorem State.tickFree_hostCmd (s : State) : s.tickFree.hostCmd = s.hostCmd := rfl
@[simp] theorem State.tickFree_route (s : State) : s.tickFree.route = s.route := rfl
@[simp] theorem State.tickFree_windows (s : State) : s.tickFree.windows = s.windows := rfl
@[simp] theorem State.tickFree_ioMem (s : State) : s.tickFree.ioMem = s.ioMem := rfl

@[simp] theorem State.bump_clk (s : State) : s.bump.clk = s.clk := rfl
@[simp] theorem State.bump_fresh (s : State) : s.bump.fresh = s.fresh := rfl
@[simp] theorem State.bump_inputs (s : State) : s.bump.inputs = s.inputs := rfl
@[simp] theorem State.bump_inputSecure (s : State) : s.bump.inputSecure = s.inputSecure := rfl
@[simp] theorem State.bump_cur (s : State) : s.bump.cur = s.cur := rfl
@[simp] theorem State.bump_ports (s : State) : s.bump.ports = s.ports := rfl
@[simp] theorem State.bump_issuedCtx (s : State) : s.bump.issuedCtx = s.issuedCtx := rfl
@[simp] theorem State.bump_pipes (s : State) : s.bump.pipes = s.pipes := rfl
@[simp] theorem State.bump_nextId (s : State) : s.bump.nextId = s.nextId + 1 := rfl
@[simp] theorem State.bump_mem (s : State) : s.bump.mem = s.mem := rfl
@[simp] theorem State.bump_poison (s : State) : s.bump.poison = s.poison := rfl
@[simp] theorem State.bump_owned (s : State) : s.bump.owned = s.owned := rfl
@[simp] theorem State.bump_l1 (s : State) : s.bump.l1 = s.l1 := rfl
@[simp] theorem State.bump_tlb (s : State) : s.bump.tlb = s.tlb := rfl
@[simp] theorem State.bump_wgs (s : State) : s.bump.wgs = s.wgs := rfl
@[simp] theorem State.bump_bundles (s : State) : s.bump.bundles = s.bundles := rfl
@[simp] theorem State.bump_pend (s : State) : s.bump.pend = s.pend := rfl
@[simp] theorem State.bump_atoms (s : State) : s.bump.atoms = s.atoms := rfl
@[simp] theorem State.bump_cmds (s : State) : s.bump.cmds = s.cmds := rfl
@[simp] theorem State.bump_ops (s : State) : s.bump.ops = s.ops := rfl
@[simp] theorem State.bump_crReqs (s : State) : s.bump.crReqs = s.crReqs := rfl
@[simp] theorem State.bump_crBusy (s : State) : s.bump.crBusy = s.crBusy := rfl
@[simp] theorem State.bump_noProg (s : State) : s.bump.noProg = s.noProg := rfl
@[simp] theorem State.bump_engines (s : State) : s.bump.engines = s.engines := rfl
@[simp] theorem State.bump_leaseReqs (s : State) : s.bump.leaseReqs = s.leaseReqs := rfl
@[simp] theorem State.bump_puts (s : State) : s.bump.puts = s.puts := rfl
@[simp] theorem State.bump_merges (s : State) : s.bump.merges = s.merges := rfl
@[simp] theorem State.bump_launchReqs (s : State) : s.bump.launchReqs = s.launchReqs := rfl
@[simp] theorem State.bump_launches (s : State) : s.bump.launches = s.launches := rfl
@[simp] theorem State.bump_migrations (s : State) : s.bump.migrations = s.migrations := rfl
@[simp] theorem State.bump_contexts (s : State) : s.bump.contexts = s.contexts := rfl
@[simp] theorem State.bump_channels (s : State) : s.bump.channels = s.channels := rfl
@[simp] theorem State.bump_mirrors (s : State) : s.bump.mirrors = s.mirrors := rfl
@[simp] theorem State.bump_ralpex (s : State) : s.bump.ralpex = s.ralpex := rfl
@[simp] theorem State.bump_dcache (s : State) : s.bump.dcache = s.dcache := rfl
@[simp] theorem State.bump_slices (s : State) : s.bump.slices = s.slices := rfl
@[simp] theorem State.bump_lost (s : State) : s.bump.lost = s.lost := rfl
@[simp] theorem State.bump_cwords (s : State) : s.bump.cwords = s.cwords := rfl
@[simp] theorem State.bump_cqNext (s : State) : s.bump.cqNext = s.cqNext := rfl
@[simp] theorem State.bump_mergeEvents (s : State) : s.bump.mergeEvents = s.mergeEvents := rfl
@[simp] theorem State.bump_groupAt (s : State) : s.bump.groupAt = s.groupAt := rfl
@[simp] theorem State.bump_errs (s : State) : s.bump.errs = s.errs := rfl
@[simp] theorem State.bump_keyInsts (s : State) : s.bump.keyInsts = s.keyInsts := rfl
@[simp] theorem State.bump_banks (s : State) : s.bump.banks = s.banks := rfl
@[simp] theorem State.bump_dies (s : State) : s.bump.dies = s.dies := rfl
@[simp] theorem State.bump_stackCap (s : State) : s.bump.stackCap = s.stackCap := rfl
@[simp] theorem State.bump_stackGrant (s : State) : s.bump.stackGrant = s.stackGrant := rfl
@[simp] theorem State.bump_links (s : State) : s.bump.links = s.links := rfl
@[simp] theorem State.bump_keyStore (s : State) : s.bump.keyStore = s.keyStore := rfl
@[simp] theorem State.bump_resetEnded (s : State) : s.bump.resetEnded = s.resetEnded := rfl
@[simp] theorem State.bump_permitAt (s : State) : s.bump.permitAt = s.permitAt := rfl
@[simp] theorem State.bump_scrubAt (s : State) : s.bump.scrubAt = s.scrubAt := rfl
@[simp] theorem State.bump_ctxtab (s : State) : s.bump.ctxtab = s.ctxtab := rfl
@[simp] theorem State.bump_pkgid (s : State) : s.bump.pkgid = s.pkgid := rfl
@[simp] theorem State.bump_pkgidSet (s : State) : s.bump.pkgidSet = s.pkgidSet := rfl
@[simp] theorem State.bump_mirpart (s : State) : s.bump.mirpart = s.mirpart := rfl
@[simp] theorem State.bump_allow (s : State) : s.bump.allow = s.allow := rfl
@[simp] theorem State.bump_irqstat (s : State) : s.bump.irqstat = s.irqstat := rfl
@[simp] theorem State.bump_ctxcmd (s : State) : s.bump.ctxcmd = s.ctxcmd := rfl
@[simp] theorem State.bump_ctxres (s : State) : s.bump.ctxres = s.ctxres := rfl
@[simp] theorem State.bump_hostCmd (s : State) : s.bump.hostCmd = s.hostCmd := rfl
@[simp] theorem State.bump_route (s : State) : s.bump.route = s.route := rfl
@[simp] theorem State.bump_windows (s : State) : s.bump.windows = s.windows := rfl
@[simp] theorem State.bump_ioMem (s : State) : s.bump.ioMem = s.ioMem := rfl

@[simp] theorem State.updWg_clk (s : State) (u : Nat) (f : Workgroup → Workgroup) : (s.updWg u f).clk = s.clk := rfl
@[simp] theorem State.updWg_fresh (s : State) (u : Nat) (f : Workgroup → Workgroup) : (s.updWg u f).fresh = s.fresh := rfl
@[simp] theorem State.updWg_inputs (s : State) (u : Nat) (f : Workgroup → Workgroup) : (s.updWg u f).inputs = s.inputs := rfl
@[simp] theorem State.updWg_inputSecure (s : State) (u : Nat) (f : Workgroup → Workgroup) : (s.updWg u f).inputSecure = s.inputSecure := rfl
@[simp] theorem State.updWg_cur (s : State) (u : Nat) (f : Workgroup → Workgroup) : (s.updWg u f).cur = s.cur := rfl
@[simp] theorem State.updWg_ports (s : State) (u : Nat) (f : Workgroup → Workgroup) : (s.updWg u f).ports = s.ports := rfl
@[simp] theorem State.updWg_issuedCtx (s : State) (u : Nat) (f : Workgroup → Workgroup) : (s.updWg u f).issuedCtx = s.issuedCtx := rfl
@[simp] theorem State.updWg_pipes (s : State) (u : Nat) (f : Workgroup → Workgroup) : (s.updWg u f).pipes = s.pipes := rfl
@[simp] theorem State.updWg_nextId (s : State) (u : Nat) (f : Workgroup → Workgroup) : (s.updWg u f).nextId = s.nextId := rfl
@[simp] theorem State.updWg_mem (s : State) (u : Nat) (f : Workgroup → Workgroup) : (s.updWg u f).mem = s.mem := rfl
@[simp] theorem State.updWg_poison (s : State) (u : Nat) (f : Workgroup → Workgroup) : (s.updWg u f).poison = s.poison := rfl
@[simp] theorem State.updWg_owned (s : State) (u : Nat) (f : Workgroup → Workgroup) : (s.updWg u f).owned = s.owned := rfl
@[simp] theorem State.updWg_l1 (s : State) (u : Nat) (f : Workgroup → Workgroup) : (s.updWg u f).l1 = s.l1 := rfl
@[simp] theorem State.updWg_tlb (s : State) (u : Nat) (f : Workgroup → Workgroup) : (s.updWg u f).tlb = s.tlb := rfl
@[simp] theorem State.updWg_wgs (s : State) (u : Nat) (f : Workgroup → Workgroup) : (s.updWg u f).wgs = s.wgs.map fun w => if w.uid = u then f w else w := rfl
@[simp] theorem State.updWg_bundles (s : State) (u : Nat) (f : Workgroup → Workgroup) : (s.updWg u f).bundles = s.bundles := rfl
@[simp] theorem State.updWg_pend (s : State) (u : Nat) (f : Workgroup → Workgroup) : (s.updWg u f).pend = s.pend := rfl
@[simp] theorem State.updWg_atoms (s : State) (u : Nat) (f : Workgroup → Workgroup) : (s.updWg u f).atoms = s.atoms := rfl
@[simp] theorem State.updWg_cmds (s : State) (u : Nat) (f : Workgroup → Workgroup) : (s.updWg u f).cmds = s.cmds := rfl
@[simp] theorem State.updWg_ops (s : State) (u : Nat) (f : Workgroup → Workgroup) : (s.updWg u f).ops = s.ops := rfl
@[simp] theorem State.updWg_crReqs (s : State) (u : Nat) (f : Workgroup → Workgroup) : (s.updWg u f).crReqs = s.crReqs := rfl
@[simp] theorem State.updWg_crBusy (s : State) (u : Nat) (f : Workgroup → Workgroup) : (s.updWg u f).crBusy = s.crBusy := rfl
@[simp] theorem State.updWg_noProg (s : State) (u : Nat) (f : Workgroup → Workgroup) : (s.updWg u f).noProg = s.noProg := rfl
@[simp] theorem State.updWg_engines (s : State) (u : Nat) (f : Workgroup → Workgroup) : (s.updWg u f).engines = s.engines := rfl
@[simp] theorem State.updWg_leaseReqs (s : State) (u : Nat) (f : Workgroup → Workgroup) : (s.updWg u f).leaseReqs = s.leaseReqs := rfl
@[simp] theorem State.updWg_puts (s : State) (u : Nat) (f : Workgroup → Workgroup) : (s.updWg u f).puts = s.puts := rfl
@[simp] theorem State.updWg_merges (s : State) (u : Nat) (f : Workgroup → Workgroup) : (s.updWg u f).merges = s.merges := rfl
@[simp] theorem State.updWg_launchReqs (s : State) (u : Nat) (f : Workgroup → Workgroup) : (s.updWg u f).launchReqs = s.launchReqs := rfl
@[simp] theorem State.updWg_launches (s : State) (u : Nat) (f : Workgroup → Workgroup) : (s.updWg u f).launches = s.launches := rfl
@[simp] theorem State.updWg_migrations (s : State) (u : Nat) (f : Workgroup → Workgroup) : (s.updWg u f).migrations = s.migrations := rfl
@[simp] theorem State.updWg_contexts (s : State) (u : Nat) (f : Workgroup → Workgroup) : (s.updWg u f).contexts = s.contexts := rfl
@[simp] theorem State.updWg_channels (s : State) (u : Nat) (f : Workgroup → Workgroup) : (s.updWg u f).channels = s.channels := rfl
@[simp] theorem State.updWg_mirrors (s : State) (u : Nat) (f : Workgroup → Workgroup) : (s.updWg u f).mirrors = s.mirrors := rfl
@[simp] theorem State.updWg_ralpex (s : State) (u : Nat) (f : Workgroup → Workgroup) : (s.updWg u f).ralpex = s.ralpex := rfl
@[simp] theorem State.updWg_dcache (s : State) (u : Nat) (f : Workgroup → Workgroup) : (s.updWg u f).dcache = s.dcache := rfl
@[simp] theorem State.updWg_slices (s : State) (u : Nat) (f : Workgroup → Workgroup) : (s.updWg u f).slices = s.slices := rfl
@[simp] theorem State.updWg_lost (s : State) (u : Nat) (f : Workgroup → Workgroup) : (s.updWg u f).lost = s.lost := rfl
@[simp] theorem State.updWg_cwords (s : State) (u : Nat) (f : Workgroup → Workgroup) : (s.updWg u f).cwords = s.cwords := rfl
@[simp] theorem State.updWg_cqNext (s : State) (u : Nat) (f : Workgroup → Workgroup) : (s.updWg u f).cqNext = s.cqNext := rfl
@[simp] theorem State.updWg_mergeEvents (s : State) (u : Nat) (f : Workgroup → Workgroup) : (s.updWg u f).mergeEvents = s.mergeEvents := rfl
@[simp] theorem State.updWg_groupAt (s : State) (u : Nat) (f : Workgroup → Workgroup) : (s.updWg u f).groupAt = s.groupAt := rfl
@[simp] theorem State.updWg_errs (s : State) (u : Nat) (f : Workgroup → Workgroup) : (s.updWg u f).errs = s.errs := rfl
@[simp] theorem State.updWg_keyInsts (s : State) (u : Nat) (f : Workgroup → Workgroup) : (s.updWg u f).keyInsts = s.keyInsts := rfl
@[simp] theorem State.updWg_banks (s : State) (u : Nat) (f : Workgroup → Workgroup) : (s.updWg u f).banks = s.banks := rfl
@[simp] theorem State.updWg_dies (s : State) (u : Nat) (f : Workgroup → Workgroup) : (s.updWg u f).dies = s.dies := rfl
@[simp] theorem State.updWg_stackCap (s : State) (u : Nat) (f : Workgroup → Workgroup) : (s.updWg u f).stackCap = s.stackCap := rfl
@[simp] theorem State.updWg_stackGrant (s : State) (u : Nat) (f : Workgroup → Workgroup) : (s.updWg u f).stackGrant = s.stackGrant := rfl
@[simp] theorem State.updWg_links (s : State) (u : Nat) (f : Workgroup → Workgroup) : (s.updWg u f).links = s.links := rfl
@[simp] theorem State.updWg_keyStore (s : State) (u : Nat) (f : Workgroup → Workgroup) : (s.updWg u f).keyStore = s.keyStore := rfl
@[simp] theorem State.updWg_resetEnded (s : State) (u : Nat) (f : Workgroup → Workgroup) : (s.updWg u f).resetEnded = s.resetEnded := rfl
@[simp] theorem State.updWg_permitAt (s : State) (u : Nat) (f : Workgroup → Workgroup) : (s.updWg u f).permitAt = s.permitAt := rfl
@[simp] theorem State.updWg_scrubAt (s : State) (u : Nat) (f : Workgroup → Workgroup) : (s.updWg u f).scrubAt = s.scrubAt := rfl
@[simp] theorem State.updWg_ctxtab (s : State) (u : Nat) (f : Workgroup → Workgroup) : (s.updWg u f).ctxtab = s.ctxtab := rfl
@[simp] theorem State.updWg_pkgid (s : State) (u : Nat) (f : Workgroup → Workgroup) : (s.updWg u f).pkgid = s.pkgid := rfl
@[simp] theorem State.updWg_pkgidSet (s : State) (u : Nat) (f : Workgroup → Workgroup) : (s.updWg u f).pkgidSet = s.pkgidSet := rfl
@[simp] theorem State.updWg_mirpart (s : State) (u : Nat) (f : Workgroup → Workgroup) : (s.updWg u f).mirpart = s.mirpart := rfl
@[simp] theorem State.updWg_allow (s : State) (u : Nat) (f : Workgroup → Workgroup) : (s.updWg u f).allow = s.allow := rfl
@[simp] theorem State.updWg_irqstat (s : State) (u : Nat) (f : Workgroup → Workgroup) : (s.updWg u f).irqstat = s.irqstat := rfl
@[simp] theorem State.updWg_ctxcmd (s : State) (u : Nat) (f : Workgroup → Workgroup) : (s.updWg u f).ctxcmd = s.ctxcmd := rfl
@[simp] theorem State.updWg_ctxres (s : State) (u : Nat) (f : Workgroup → Workgroup) : (s.updWg u f).ctxres = s.ctxres := rfl
@[simp] theorem State.updWg_hostCmd (s : State) (u : Nat) (f : Workgroup → Workgroup) : (s.updWg u f).hostCmd = s.hostCmd := rfl
@[simp] theorem State.updWg_route (s : State) (u : Nat) (f : Workgroup → Workgroup) : (s.updWg u f).route = s.route := rfl
@[simp] theorem State.updWg_windows (s : State) (u : Nat) (f : Workgroup → Workgroup) : (s.updWg u f).windows = s.windows := rfl
@[simp] theorem State.updWg_ioMem (s : State) (u : Nat) (f : Workgroup → Workgroup) : (s.updWg u f).ioMem = s.ioMem := rfl

@[simp] theorem State.updThread_clk (s : State) (u t : Nat) (f : Thread → Thread) : (s.updThread u t f).clk = s.clk := rfl
@[simp] theorem State.updThread_fresh (s : State) (u t : Nat) (f : Thread → Thread) : (s.updThread u t f).fresh = s.fresh := rfl
@[simp] theorem State.updThread_inputs (s : State) (u t : Nat) (f : Thread → Thread) : (s.updThread u t f).inputs = s.inputs := rfl
@[simp] theorem State.updThread_inputSecure (s : State) (u t : Nat) (f : Thread → Thread) : (s.updThread u t f).inputSecure = s.inputSecure := rfl
@[simp] theorem State.updThread_cur (s : State) (u t : Nat) (f : Thread → Thread) : (s.updThread u t f).cur = s.cur := rfl
@[simp] theorem State.updThread_ports (s : State) (u t : Nat) (f : Thread → Thread) : (s.updThread u t f).ports = s.ports := rfl
@[simp] theorem State.updThread_issuedCtx (s : State) (u t : Nat) (f : Thread → Thread) : (s.updThread u t f).issuedCtx = s.issuedCtx := rfl
@[simp] theorem State.updThread_pipes (s : State) (u t : Nat) (f : Thread → Thread) : (s.updThread u t f).pipes = s.pipes := rfl
@[simp] theorem State.updThread_nextId (s : State) (u t : Nat) (f : Thread → Thread) : (s.updThread u t f).nextId = s.nextId := rfl
@[simp] theorem State.updThread_mem (s : State) (u t : Nat) (f : Thread → Thread) : (s.updThread u t f).mem = s.mem := rfl
@[simp] theorem State.updThread_poison (s : State) (u t : Nat) (f : Thread → Thread) : (s.updThread u t f).poison = s.poison := rfl
@[simp] theorem State.updThread_owned (s : State) (u t : Nat) (f : Thread → Thread) : (s.updThread u t f).owned = s.owned := rfl
@[simp] theorem State.updThread_l1 (s : State) (u t : Nat) (f : Thread → Thread) : (s.updThread u t f).l1 = s.l1 := rfl
@[simp] theorem State.updThread_tlb (s : State) (u t : Nat) (f : Thread → Thread) : (s.updThread u t f).tlb = s.tlb := rfl
@[simp] theorem State.updThread_wgs (s : State) (u t : Nat) (f : Thread → Thread) : (s.updThread u t f).wgs = s.wgs.map fun w => if w.uid = u then w.updThread t f else w := rfl
@[simp] theorem State.updThread_bundles (s : State) (u t : Nat) (f : Thread → Thread) : (s.updThread u t f).bundles = s.bundles := rfl
@[simp] theorem State.updThread_pend (s : State) (u t : Nat) (f : Thread → Thread) : (s.updThread u t f).pend = s.pend := rfl
@[simp] theorem State.updThread_atoms (s : State) (u t : Nat) (f : Thread → Thread) : (s.updThread u t f).atoms = s.atoms := rfl
@[simp] theorem State.updThread_cmds (s : State) (u t : Nat) (f : Thread → Thread) : (s.updThread u t f).cmds = s.cmds := rfl
@[simp] theorem State.updThread_ops (s : State) (u t : Nat) (f : Thread → Thread) : (s.updThread u t f).ops = s.ops := rfl
@[simp] theorem State.updThread_crReqs (s : State) (u t : Nat) (f : Thread → Thread) : (s.updThread u t f).crReqs = s.crReqs := rfl
@[simp] theorem State.updThread_crBusy (s : State) (u t : Nat) (f : Thread → Thread) : (s.updThread u t f).crBusy = s.crBusy := rfl
@[simp] theorem State.updThread_noProg (s : State) (u t : Nat) (f : Thread → Thread) : (s.updThread u t f).noProg = s.noProg := rfl
@[simp] theorem State.updThread_engines (s : State) (u t : Nat) (f : Thread → Thread) : (s.updThread u t f).engines = s.engines := rfl
@[simp] theorem State.updThread_leaseReqs (s : State) (u t : Nat) (f : Thread → Thread) : (s.updThread u t f).leaseReqs = s.leaseReqs := rfl
@[simp] theorem State.updThread_puts (s : State) (u t : Nat) (f : Thread → Thread) : (s.updThread u t f).puts = s.puts := rfl
@[simp] theorem State.updThread_merges (s : State) (u t : Nat) (f : Thread → Thread) : (s.updThread u t f).merges = s.merges := rfl
@[simp] theorem State.updThread_launchReqs (s : State) (u t : Nat) (f : Thread → Thread) : (s.updThread u t f).launchReqs = s.launchReqs := rfl
@[simp] theorem State.updThread_launches (s : State) (u t : Nat) (f : Thread → Thread) : (s.updThread u t f).launches = s.launches := rfl
@[simp] theorem State.updThread_migrations (s : State) (u t : Nat) (f : Thread → Thread) : (s.updThread u t f).migrations = s.migrations := rfl
@[simp] theorem State.updThread_contexts (s : State) (u t : Nat) (f : Thread → Thread) : (s.updThread u t f).contexts = s.contexts := rfl
@[simp] theorem State.updThread_channels (s : State) (u t : Nat) (f : Thread → Thread) : (s.updThread u t f).channels = s.channels := rfl
@[simp] theorem State.updThread_mirrors (s : State) (u t : Nat) (f : Thread → Thread) : (s.updThread u t f).mirrors = s.mirrors := rfl
@[simp] theorem State.updThread_ralpex (s : State) (u t : Nat) (f : Thread → Thread) : (s.updThread u t f).ralpex = s.ralpex := rfl
@[simp] theorem State.updThread_dcache (s : State) (u t : Nat) (f : Thread → Thread) : (s.updThread u t f).dcache = s.dcache := rfl
@[simp] theorem State.updThread_slices (s : State) (u t : Nat) (f : Thread → Thread) : (s.updThread u t f).slices = s.slices := rfl
@[simp] theorem State.updThread_lost (s : State) (u t : Nat) (f : Thread → Thread) : (s.updThread u t f).lost = s.lost := rfl
@[simp] theorem State.updThread_cwords (s : State) (u t : Nat) (f : Thread → Thread) : (s.updThread u t f).cwords = s.cwords := rfl
@[simp] theorem State.updThread_cqNext (s : State) (u t : Nat) (f : Thread → Thread) : (s.updThread u t f).cqNext = s.cqNext := rfl
@[simp] theorem State.updThread_mergeEvents (s : State) (u t : Nat) (f : Thread → Thread) : (s.updThread u t f).mergeEvents = s.mergeEvents := rfl
@[simp] theorem State.updThread_groupAt (s : State) (u t : Nat) (f : Thread → Thread) : (s.updThread u t f).groupAt = s.groupAt := rfl
@[simp] theorem State.updThread_errs (s : State) (u t : Nat) (f : Thread → Thread) : (s.updThread u t f).errs = s.errs := rfl
@[simp] theorem State.updThread_keyInsts (s : State) (u t : Nat) (f : Thread → Thread) : (s.updThread u t f).keyInsts = s.keyInsts := rfl
@[simp] theorem State.updThread_banks (s : State) (u t : Nat) (f : Thread → Thread) : (s.updThread u t f).banks = s.banks := rfl
@[simp] theorem State.updThread_dies (s : State) (u t : Nat) (f : Thread → Thread) : (s.updThread u t f).dies = s.dies := rfl
@[simp] theorem State.updThread_stackCap (s : State) (u t : Nat) (f : Thread → Thread) : (s.updThread u t f).stackCap = s.stackCap := rfl
@[simp] theorem State.updThread_stackGrant (s : State) (u t : Nat) (f : Thread → Thread) : (s.updThread u t f).stackGrant = s.stackGrant := rfl
@[simp] theorem State.updThread_links (s : State) (u t : Nat) (f : Thread → Thread) : (s.updThread u t f).links = s.links := rfl
@[simp] theorem State.updThread_keyStore (s : State) (u t : Nat) (f : Thread → Thread) : (s.updThread u t f).keyStore = s.keyStore := rfl
@[simp] theorem State.updThread_resetEnded (s : State) (u t : Nat) (f : Thread → Thread) : (s.updThread u t f).resetEnded = s.resetEnded := rfl
@[simp] theorem State.updThread_permitAt (s : State) (u t : Nat) (f : Thread → Thread) : (s.updThread u t f).permitAt = s.permitAt := rfl
@[simp] theorem State.updThread_scrubAt (s : State) (u t : Nat) (f : Thread → Thread) : (s.updThread u t f).scrubAt = s.scrubAt := rfl
@[simp] theorem State.updThread_ctxtab (s : State) (u t : Nat) (f : Thread → Thread) : (s.updThread u t f).ctxtab = s.ctxtab := rfl
@[simp] theorem State.updThread_pkgid (s : State) (u t : Nat) (f : Thread → Thread) : (s.updThread u t f).pkgid = s.pkgid := rfl
@[simp] theorem State.updThread_pkgidSet (s : State) (u t : Nat) (f : Thread → Thread) : (s.updThread u t f).pkgidSet = s.pkgidSet := rfl
@[simp] theorem State.updThread_mirpart (s : State) (u t : Nat) (f : Thread → Thread) : (s.updThread u t f).mirpart = s.mirpart := rfl
@[simp] theorem State.updThread_allow (s : State) (u t : Nat) (f : Thread → Thread) : (s.updThread u t f).allow = s.allow := rfl
@[simp] theorem State.updThread_irqstat (s : State) (u t : Nat) (f : Thread → Thread) : (s.updThread u t f).irqstat = s.irqstat := rfl
@[simp] theorem State.updThread_ctxcmd (s : State) (u t : Nat) (f : Thread → Thread) : (s.updThread u t f).ctxcmd = s.ctxcmd := rfl
@[simp] theorem State.updThread_ctxres (s : State) (u t : Nat) (f : Thread → Thread) : (s.updThread u t f).ctxres = s.ctxres := rfl
@[simp] theorem State.updThread_hostCmd (s : State) (u t : Nat) (f : Thread → Thread) : (s.updThread u t f).hostCmd = s.hostCmd := rfl
@[simp] theorem State.updThread_route (s : State) (u t : Nat) (f : Thread → Thread) : (s.updThread u t f).route = s.route := rfl
@[simp] theorem State.updThread_windows (s : State) (u t : Nat) (f : Thread → Thread) : (s.updThread u t f).windows = s.windows := rfl
@[simp] theorem State.updThread_ioMem (s : State) (u t : Nat) (f : Thread → Thread) : (s.updThread u t f).ioMem = s.ioMem := rfl

@[simp] theorem State.updCtx_clk (s : State) (n : Nat) (f : Context → Context) : (s.updCtx n f).clk = s.clk := rfl
@[simp] theorem State.updCtx_fresh (s : State) (n : Nat) (f : Context → Context) : (s.updCtx n f).fresh = s.fresh := rfl
@[simp] theorem State.updCtx_inputs (s : State) (n : Nat) (f : Context → Context) : (s.updCtx n f).inputs = s.inputs := rfl
@[simp] theorem State.updCtx_inputSecure (s : State) (n : Nat) (f : Context → Context) : (s.updCtx n f).inputSecure = s.inputSecure := rfl
@[simp] theorem State.updCtx_cur (s : State) (n : Nat) (f : Context → Context) : (s.updCtx n f).cur = s.cur := rfl
@[simp] theorem State.updCtx_ports (s : State) (n : Nat) (f : Context → Context) : (s.updCtx n f).ports = s.ports := rfl
@[simp] theorem State.updCtx_issuedCtx (s : State) (n : Nat) (f : Context → Context) : (s.updCtx n f).issuedCtx = s.issuedCtx := rfl
@[simp] theorem State.updCtx_pipes (s : State) (n : Nat) (f : Context → Context) : (s.updCtx n f).pipes = s.pipes := rfl
@[simp] theorem State.updCtx_nextId (s : State) (n : Nat) (f : Context → Context) : (s.updCtx n f).nextId = s.nextId := rfl
@[simp] theorem State.updCtx_mem (s : State) (n : Nat) (f : Context → Context) : (s.updCtx n f).mem = s.mem := rfl
@[simp] theorem State.updCtx_poison (s : State) (n : Nat) (f : Context → Context) : (s.updCtx n f).poison = s.poison := rfl
@[simp] theorem State.updCtx_owned (s : State) (n : Nat) (f : Context → Context) : (s.updCtx n f).owned = s.owned := rfl
@[simp] theorem State.updCtx_l1 (s : State) (n : Nat) (f : Context → Context) : (s.updCtx n f).l1 = s.l1 := rfl
@[simp] theorem State.updCtx_tlb (s : State) (n : Nat) (f : Context → Context) : (s.updCtx n f).tlb = s.tlb := rfl
@[simp] theorem State.updCtx_wgs (s : State) (n : Nat) (f : Context → Context) : (s.updCtx n f).wgs = s.wgs := rfl
@[simp] theorem State.updCtx_bundles (s : State) (n : Nat) (f : Context → Context) : (s.updCtx n f).bundles = s.bundles := rfl
@[simp] theorem State.updCtx_pend (s : State) (n : Nat) (f : Context → Context) : (s.updCtx n f).pend = s.pend := rfl
@[simp] theorem State.updCtx_atoms (s : State) (n : Nat) (f : Context → Context) : (s.updCtx n f).atoms = s.atoms := rfl
@[simp] theorem State.updCtx_cmds (s : State) (n : Nat) (f : Context → Context) : (s.updCtx n f).cmds = s.cmds := rfl
@[simp] theorem State.updCtx_ops (s : State) (n : Nat) (f : Context → Context) : (s.updCtx n f).ops = s.ops := rfl
@[simp] theorem State.updCtx_crReqs (s : State) (n : Nat) (f : Context → Context) : (s.updCtx n f).crReqs = s.crReqs := rfl
@[simp] theorem State.updCtx_crBusy (s : State) (n : Nat) (f : Context → Context) : (s.updCtx n f).crBusy = s.crBusy := rfl
@[simp] theorem State.updCtx_noProg (s : State) (n : Nat) (f : Context → Context) : (s.updCtx n f).noProg = s.noProg := rfl
@[simp] theorem State.updCtx_engines (s : State) (n : Nat) (f : Context → Context) : (s.updCtx n f).engines = s.engines := rfl
@[simp] theorem State.updCtx_leaseReqs (s : State) (n : Nat) (f : Context → Context) : (s.updCtx n f).leaseReqs = s.leaseReqs := rfl
@[simp] theorem State.updCtx_puts (s : State) (n : Nat) (f : Context → Context) : (s.updCtx n f).puts = s.puts := rfl
@[simp] theorem State.updCtx_merges (s : State) (n : Nat) (f : Context → Context) : (s.updCtx n f).merges = s.merges := rfl
@[simp] theorem State.updCtx_launchReqs (s : State) (n : Nat) (f : Context → Context) : (s.updCtx n f).launchReqs = s.launchReqs := rfl
@[simp] theorem State.updCtx_launches (s : State) (n : Nat) (f : Context → Context) : (s.updCtx n f).launches = s.launches := rfl
@[simp] theorem State.updCtx_migrations (s : State) (n : Nat) (f : Context → Context) : (s.updCtx n f).migrations = s.migrations := rfl
@[simp] theorem State.updCtx_contexts (s : State) (n : Nat) (f : Context → Context) : (s.updCtx n f).contexts = s.contexts.modify n f := rfl
@[simp] theorem State.updCtx_channels (s : State) (n : Nat) (f : Context → Context) : (s.updCtx n f).channels = s.channels := rfl
@[simp] theorem State.updCtx_mirrors (s : State) (n : Nat) (f : Context → Context) : (s.updCtx n f).mirrors = s.mirrors := rfl
@[simp] theorem State.updCtx_ralpex (s : State) (n : Nat) (f : Context → Context) : (s.updCtx n f).ralpex = s.ralpex := rfl
@[simp] theorem State.updCtx_dcache (s : State) (n : Nat) (f : Context → Context) : (s.updCtx n f).dcache = s.dcache := rfl
@[simp] theorem State.updCtx_slices (s : State) (n : Nat) (f : Context → Context) : (s.updCtx n f).slices = s.slices := rfl
@[simp] theorem State.updCtx_lost (s : State) (n : Nat) (f : Context → Context) : (s.updCtx n f).lost = s.lost := rfl
@[simp] theorem State.updCtx_cwords (s : State) (n : Nat) (f : Context → Context) : (s.updCtx n f).cwords = s.cwords := rfl
@[simp] theorem State.updCtx_cqNext (s : State) (n : Nat) (f : Context → Context) : (s.updCtx n f).cqNext = s.cqNext := rfl
@[simp] theorem State.updCtx_mergeEvents (s : State) (n : Nat) (f : Context → Context) : (s.updCtx n f).mergeEvents = s.mergeEvents := rfl
@[simp] theorem State.updCtx_groupAt (s : State) (n : Nat) (f : Context → Context) : (s.updCtx n f).groupAt = s.groupAt := rfl
@[simp] theorem State.updCtx_errs (s : State) (n : Nat) (f : Context → Context) : (s.updCtx n f).errs = s.errs := rfl
@[simp] theorem State.updCtx_keyInsts (s : State) (n : Nat) (f : Context → Context) : (s.updCtx n f).keyInsts = s.keyInsts := rfl
@[simp] theorem State.updCtx_banks (s : State) (n : Nat) (f : Context → Context) : (s.updCtx n f).banks = s.banks := rfl
@[simp] theorem State.updCtx_dies (s : State) (n : Nat) (f : Context → Context) : (s.updCtx n f).dies = s.dies := rfl
@[simp] theorem State.updCtx_stackCap (s : State) (n : Nat) (f : Context → Context) : (s.updCtx n f).stackCap = s.stackCap := rfl
@[simp] theorem State.updCtx_stackGrant (s : State) (n : Nat) (f : Context → Context) : (s.updCtx n f).stackGrant = s.stackGrant := rfl
@[simp] theorem State.updCtx_links (s : State) (n : Nat) (f : Context → Context) : (s.updCtx n f).links = s.links := rfl
@[simp] theorem State.updCtx_keyStore (s : State) (n : Nat) (f : Context → Context) : (s.updCtx n f).keyStore = s.keyStore := rfl
@[simp] theorem State.updCtx_resetEnded (s : State) (n : Nat) (f : Context → Context) : (s.updCtx n f).resetEnded = s.resetEnded := rfl
@[simp] theorem State.updCtx_permitAt (s : State) (n : Nat) (f : Context → Context) : (s.updCtx n f).permitAt = s.permitAt := rfl
@[simp] theorem State.updCtx_scrubAt (s : State) (n : Nat) (f : Context → Context) : (s.updCtx n f).scrubAt = s.scrubAt := rfl
@[simp] theorem State.updCtx_ctxtab (s : State) (n : Nat) (f : Context → Context) : (s.updCtx n f).ctxtab = s.ctxtab := rfl
@[simp] theorem State.updCtx_pkgid (s : State) (n : Nat) (f : Context → Context) : (s.updCtx n f).pkgid = s.pkgid := rfl
@[simp] theorem State.updCtx_pkgidSet (s : State) (n : Nat) (f : Context → Context) : (s.updCtx n f).pkgidSet = s.pkgidSet := rfl
@[simp] theorem State.updCtx_mirpart (s : State) (n : Nat) (f : Context → Context) : (s.updCtx n f).mirpart = s.mirpart := rfl
@[simp] theorem State.updCtx_allow (s : State) (n : Nat) (f : Context → Context) : (s.updCtx n f).allow = s.allow := rfl
@[simp] theorem State.updCtx_irqstat (s : State) (n : Nat) (f : Context → Context) : (s.updCtx n f).irqstat = s.irqstat := rfl
@[simp] theorem State.updCtx_ctxcmd (s : State) (n : Nat) (f : Context → Context) : (s.updCtx n f).ctxcmd = s.ctxcmd := rfl
@[simp] theorem State.updCtx_ctxres (s : State) (n : Nat) (f : Context → Context) : (s.updCtx n f).ctxres = s.ctxres := rfl
@[simp] theorem State.updCtx_hostCmd (s : State) (n : Nat) (f : Context → Context) : (s.updCtx n f).hostCmd = s.hostCmd := rfl
@[simp] theorem State.updCtx_route (s : State) (n : Nat) (f : Context → Context) : (s.updCtx n f).route = s.route := rfl
@[simp] theorem State.updCtx_windows (s : State) (n : Nat) (f : Context → Context) : (s.updCtx n f).windows = s.windows := rfl
@[simp] theorem State.updCtx_ioMem (s : State) (n : Nat) (f : Context → Context) : (s.updCtx n f).ioMem = s.ioMem := rfl

@[simp] theorem State.updLaunch_clk (s : State) (i : Nat) (f : Launch → Launch) : (s.updLaunch i f).clk = s.clk := rfl
@[simp] theorem State.updLaunch_fresh (s : State) (i : Nat) (f : Launch → Launch) : (s.updLaunch i f).fresh = s.fresh := rfl
@[simp] theorem State.updLaunch_inputs (s : State) (i : Nat) (f : Launch → Launch) : (s.updLaunch i f).inputs = s.inputs := rfl
@[simp] theorem State.updLaunch_inputSecure (s : State) (i : Nat) (f : Launch → Launch) : (s.updLaunch i f).inputSecure = s.inputSecure := rfl
@[simp] theorem State.updLaunch_cur (s : State) (i : Nat) (f : Launch → Launch) : (s.updLaunch i f).cur = s.cur := rfl
@[simp] theorem State.updLaunch_ports (s : State) (i : Nat) (f : Launch → Launch) : (s.updLaunch i f).ports = s.ports := rfl
@[simp] theorem State.updLaunch_issuedCtx (s : State) (i : Nat) (f : Launch → Launch) : (s.updLaunch i f).issuedCtx = s.issuedCtx := rfl
@[simp] theorem State.updLaunch_pipes (s : State) (i : Nat) (f : Launch → Launch) : (s.updLaunch i f).pipes = s.pipes := rfl
@[simp] theorem State.updLaunch_nextId (s : State) (i : Nat) (f : Launch → Launch) : (s.updLaunch i f).nextId = s.nextId := rfl
@[simp] theorem State.updLaunch_mem (s : State) (i : Nat) (f : Launch → Launch) : (s.updLaunch i f).mem = s.mem := rfl
@[simp] theorem State.updLaunch_poison (s : State) (i : Nat) (f : Launch → Launch) : (s.updLaunch i f).poison = s.poison := rfl
@[simp] theorem State.updLaunch_owned (s : State) (i : Nat) (f : Launch → Launch) : (s.updLaunch i f).owned = s.owned := rfl
@[simp] theorem State.updLaunch_l1 (s : State) (i : Nat) (f : Launch → Launch) : (s.updLaunch i f).l1 = s.l1 := rfl
@[simp] theorem State.updLaunch_tlb (s : State) (i : Nat) (f : Launch → Launch) : (s.updLaunch i f).tlb = s.tlb := rfl
@[simp] theorem State.updLaunch_wgs (s : State) (i : Nat) (f : Launch → Launch) : (s.updLaunch i f).wgs = s.wgs := rfl
@[simp] theorem State.updLaunch_bundles (s : State) (i : Nat) (f : Launch → Launch) : (s.updLaunch i f).bundles = s.bundles := rfl
@[simp] theorem State.updLaunch_pend (s : State) (i : Nat) (f : Launch → Launch) : (s.updLaunch i f).pend = s.pend := rfl
@[simp] theorem State.updLaunch_atoms (s : State) (i : Nat) (f : Launch → Launch) : (s.updLaunch i f).atoms = s.atoms := rfl
@[simp] theorem State.updLaunch_cmds (s : State) (i : Nat) (f : Launch → Launch) : (s.updLaunch i f).cmds = s.cmds := rfl
@[simp] theorem State.updLaunch_ops (s : State) (i : Nat) (f : Launch → Launch) : (s.updLaunch i f).ops = s.ops := rfl
@[simp] theorem State.updLaunch_crReqs (s : State) (i : Nat) (f : Launch → Launch) : (s.updLaunch i f).crReqs = s.crReqs := rfl
@[simp] theorem State.updLaunch_crBusy (s : State) (i : Nat) (f : Launch → Launch) : (s.updLaunch i f).crBusy = s.crBusy := rfl
@[simp] theorem State.updLaunch_noProg (s : State) (i : Nat) (f : Launch → Launch) : (s.updLaunch i f).noProg = s.noProg := rfl
@[simp] theorem State.updLaunch_engines (s : State) (i : Nat) (f : Launch → Launch) : (s.updLaunch i f).engines = s.engines := rfl
@[simp] theorem State.updLaunch_leaseReqs (s : State) (i : Nat) (f : Launch → Launch) : (s.updLaunch i f).leaseReqs = s.leaseReqs := rfl
@[simp] theorem State.updLaunch_puts (s : State) (i : Nat) (f : Launch → Launch) : (s.updLaunch i f).puts = s.puts := rfl
@[simp] theorem State.updLaunch_merges (s : State) (i : Nat) (f : Launch → Launch) : (s.updLaunch i f).merges = s.merges := rfl
@[simp] theorem State.updLaunch_launchReqs (s : State) (i : Nat) (f : Launch → Launch) : (s.updLaunch i f).launchReqs = s.launchReqs := rfl
@[simp] theorem State.updLaunch_launches (s : State) (i : Nat) (f : Launch → Launch) : (s.updLaunch i f).launches = s.launches.map fun l => if l.id = i then f l else l := rfl
@[simp] theorem State.updLaunch_migrations (s : State) (i : Nat) (f : Launch → Launch) : (s.updLaunch i f).migrations = s.migrations := rfl
@[simp] theorem State.updLaunch_contexts (s : State) (i : Nat) (f : Launch → Launch) : (s.updLaunch i f).contexts = s.contexts := rfl
@[simp] theorem State.updLaunch_channels (s : State) (i : Nat) (f : Launch → Launch) : (s.updLaunch i f).channels = s.channels := rfl
@[simp] theorem State.updLaunch_mirrors (s : State) (i : Nat) (f : Launch → Launch) : (s.updLaunch i f).mirrors = s.mirrors := rfl
@[simp] theorem State.updLaunch_ralpex (s : State) (i : Nat) (f : Launch → Launch) : (s.updLaunch i f).ralpex = s.ralpex := rfl
@[simp] theorem State.updLaunch_dcache (s : State) (i : Nat) (f : Launch → Launch) : (s.updLaunch i f).dcache = s.dcache := rfl
@[simp] theorem State.updLaunch_slices (s : State) (i : Nat) (f : Launch → Launch) : (s.updLaunch i f).slices = s.slices := rfl
@[simp] theorem State.updLaunch_lost (s : State) (i : Nat) (f : Launch → Launch) : (s.updLaunch i f).lost = s.lost := rfl
@[simp] theorem State.updLaunch_cwords (s : State) (i : Nat) (f : Launch → Launch) : (s.updLaunch i f).cwords = s.cwords := rfl
@[simp] theorem State.updLaunch_cqNext (s : State) (i : Nat) (f : Launch → Launch) : (s.updLaunch i f).cqNext = s.cqNext := rfl
@[simp] theorem State.updLaunch_mergeEvents (s : State) (i : Nat) (f : Launch → Launch) : (s.updLaunch i f).mergeEvents = s.mergeEvents := rfl
@[simp] theorem State.updLaunch_groupAt (s : State) (i : Nat) (f : Launch → Launch) : (s.updLaunch i f).groupAt = s.groupAt := rfl
@[simp] theorem State.updLaunch_errs (s : State) (i : Nat) (f : Launch → Launch) : (s.updLaunch i f).errs = s.errs := rfl
@[simp] theorem State.updLaunch_keyInsts (s : State) (i : Nat) (f : Launch → Launch) : (s.updLaunch i f).keyInsts = s.keyInsts := rfl
@[simp] theorem State.updLaunch_banks (s : State) (i : Nat) (f : Launch → Launch) : (s.updLaunch i f).banks = s.banks := rfl
@[simp] theorem State.updLaunch_dies (s : State) (i : Nat) (f : Launch → Launch) : (s.updLaunch i f).dies = s.dies := rfl
@[simp] theorem State.updLaunch_stackCap (s : State) (i : Nat) (f : Launch → Launch) : (s.updLaunch i f).stackCap = s.stackCap := rfl
@[simp] theorem State.updLaunch_stackGrant (s : State) (i : Nat) (f : Launch → Launch) : (s.updLaunch i f).stackGrant = s.stackGrant := rfl
@[simp] theorem State.updLaunch_links (s : State) (i : Nat) (f : Launch → Launch) : (s.updLaunch i f).links = s.links := rfl
@[simp] theorem State.updLaunch_keyStore (s : State) (i : Nat) (f : Launch → Launch) : (s.updLaunch i f).keyStore = s.keyStore := rfl
@[simp] theorem State.updLaunch_resetEnded (s : State) (i : Nat) (f : Launch → Launch) : (s.updLaunch i f).resetEnded = s.resetEnded := rfl
@[simp] theorem State.updLaunch_permitAt (s : State) (i : Nat) (f : Launch → Launch) : (s.updLaunch i f).permitAt = s.permitAt := rfl
@[simp] theorem State.updLaunch_scrubAt (s : State) (i : Nat) (f : Launch → Launch) : (s.updLaunch i f).scrubAt = s.scrubAt := rfl
@[simp] theorem State.updLaunch_ctxtab (s : State) (i : Nat) (f : Launch → Launch) : (s.updLaunch i f).ctxtab = s.ctxtab := rfl
@[simp] theorem State.updLaunch_pkgid (s : State) (i : Nat) (f : Launch → Launch) : (s.updLaunch i f).pkgid = s.pkgid := rfl
@[simp] theorem State.updLaunch_pkgidSet (s : State) (i : Nat) (f : Launch → Launch) : (s.updLaunch i f).pkgidSet = s.pkgidSet := rfl
@[simp] theorem State.updLaunch_mirpart (s : State) (i : Nat) (f : Launch → Launch) : (s.updLaunch i f).mirpart = s.mirpart := rfl
@[simp] theorem State.updLaunch_allow (s : State) (i : Nat) (f : Launch → Launch) : (s.updLaunch i f).allow = s.allow := rfl
@[simp] theorem State.updLaunch_irqstat (s : State) (i : Nat) (f : Launch → Launch) : (s.updLaunch i f).irqstat = s.irqstat := rfl
@[simp] theorem State.updLaunch_ctxcmd (s : State) (i : Nat) (f : Launch → Launch) : (s.updLaunch i f).ctxcmd = s.ctxcmd := rfl
@[simp] theorem State.updLaunch_ctxres (s : State) (i : Nat) (f : Launch → Launch) : (s.updLaunch i f).ctxres = s.ctxres := rfl
@[simp] theorem State.updLaunch_hostCmd (s : State) (i : Nat) (f : Launch → Launch) : (s.updLaunch i f).hostCmd = s.hostCmd := rfl
@[simp] theorem State.updLaunch_route (s : State) (i : Nat) (f : Launch → Launch) : (s.updLaunch i f).route = s.route := rfl
@[simp] theorem State.updLaunch_windows (s : State) (i : Nat) (f : Launch → Launch) : (s.updLaunch i f).windows = s.windows := rfl
@[simp] theorem State.updLaunch_ioMem (s : State) (i : Nat) (f : Launch → Launch) : (s.updLaunch i f).ioMem = s.ioMem := rfl

@[simp] theorem State.updBundle_clk (s : State) (i : Nat) (f : Bundle → Bundle) : (s.updBundle i f).clk = s.clk := rfl
@[simp] theorem State.updBundle_fresh (s : State) (i : Nat) (f : Bundle → Bundle) : (s.updBundle i f).fresh = s.fresh := rfl
@[simp] theorem State.updBundle_inputs (s : State) (i : Nat) (f : Bundle → Bundle) : (s.updBundle i f).inputs = s.inputs := rfl
@[simp] theorem State.updBundle_inputSecure (s : State) (i : Nat) (f : Bundle → Bundle) : (s.updBundle i f).inputSecure = s.inputSecure := rfl
@[simp] theorem State.updBundle_cur (s : State) (i : Nat) (f : Bundle → Bundle) : (s.updBundle i f).cur = s.cur := rfl
@[simp] theorem State.updBundle_ports (s : State) (i : Nat) (f : Bundle → Bundle) : (s.updBundle i f).ports = s.ports := rfl
@[simp] theorem State.updBundle_issuedCtx (s : State) (i : Nat) (f : Bundle → Bundle) : (s.updBundle i f).issuedCtx = s.issuedCtx := rfl
@[simp] theorem State.updBundle_pipes (s : State) (i : Nat) (f : Bundle → Bundle) : (s.updBundle i f).pipes = s.pipes := rfl
@[simp] theorem State.updBundle_nextId (s : State) (i : Nat) (f : Bundle → Bundle) : (s.updBundle i f).nextId = s.nextId := rfl
@[simp] theorem State.updBundle_mem (s : State) (i : Nat) (f : Bundle → Bundle) : (s.updBundle i f).mem = s.mem := rfl
@[simp] theorem State.updBundle_poison (s : State) (i : Nat) (f : Bundle → Bundle) : (s.updBundle i f).poison = s.poison := rfl
@[simp] theorem State.updBundle_owned (s : State) (i : Nat) (f : Bundle → Bundle) : (s.updBundle i f).owned = s.owned := rfl
@[simp] theorem State.updBundle_l1 (s : State) (i : Nat) (f : Bundle → Bundle) : (s.updBundle i f).l1 = s.l1 := rfl
@[simp] theorem State.updBundle_tlb (s : State) (i : Nat) (f : Bundle → Bundle) : (s.updBundle i f).tlb = s.tlb := rfl
@[simp] theorem State.updBundle_wgs (s : State) (i : Nat) (f : Bundle → Bundle) : (s.updBundle i f).wgs = s.wgs := rfl
@[simp] theorem State.updBundle_bundles (s : State) (i : Nat) (f : Bundle → Bundle) : (s.updBundle i f).bundles = s.bundles.map fun b => if b.id = i then f b else b := rfl
@[simp] theorem State.updBundle_pend (s : State) (i : Nat) (f : Bundle → Bundle) : (s.updBundle i f).pend = s.pend := rfl
@[simp] theorem State.updBundle_atoms (s : State) (i : Nat) (f : Bundle → Bundle) : (s.updBundle i f).atoms = s.atoms := rfl
@[simp] theorem State.updBundle_cmds (s : State) (i : Nat) (f : Bundle → Bundle) : (s.updBundle i f).cmds = s.cmds := rfl
@[simp] theorem State.updBundle_ops (s : State) (i : Nat) (f : Bundle → Bundle) : (s.updBundle i f).ops = s.ops := rfl
@[simp] theorem State.updBundle_crReqs (s : State) (i : Nat) (f : Bundle → Bundle) : (s.updBundle i f).crReqs = s.crReqs := rfl
@[simp] theorem State.updBundle_crBusy (s : State) (i : Nat) (f : Bundle → Bundle) : (s.updBundle i f).crBusy = s.crBusy := rfl
@[simp] theorem State.updBundle_noProg (s : State) (i : Nat) (f : Bundle → Bundle) : (s.updBundle i f).noProg = s.noProg := rfl
@[simp] theorem State.updBundle_engines (s : State) (i : Nat) (f : Bundle → Bundle) : (s.updBundle i f).engines = s.engines := rfl
@[simp] theorem State.updBundle_leaseReqs (s : State) (i : Nat) (f : Bundle → Bundle) : (s.updBundle i f).leaseReqs = s.leaseReqs := rfl
@[simp] theorem State.updBundle_puts (s : State) (i : Nat) (f : Bundle → Bundle) : (s.updBundle i f).puts = s.puts := rfl
@[simp] theorem State.updBundle_merges (s : State) (i : Nat) (f : Bundle → Bundle) : (s.updBundle i f).merges = s.merges := rfl
@[simp] theorem State.updBundle_launchReqs (s : State) (i : Nat) (f : Bundle → Bundle) : (s.updBundle i f).launchReqs = s.launchReqs := rfl
@[simp] theorem State.updBundle_launches (s : State) (i : Nat) (f : Bundle → Bundle) : (s.updBundle i f).launches = s.launches := rfl
@[simp] theorem State.updBundle_migrations (s : State) (i : Nat) (f : Bundle → Bundle) : (s.updBundle i f).migrations = s.migrations := rfl
@[simp] theorem State.updBundle_contexts (s : State) (i : Nat) (f : Bundle → Bundle) : (s.updBundle i f).contexts = s.contexts := rfl
@[simp] theorem State.updBundle_channels (s : State) (i : Nat) (f : Bundle → Bundle) : (s.updBundle i f).channels = s.channels := rfl
@[simp] theorem State.updBundle_mirrors (s : State) (i : Nat) (f : Bundle → Bundle) : (s.updBundle i f).mirrors = s.mirrors := rfl
@[simp] theorem State.updBundle_ralpex (s : State) (i : Nat) (f : Bundle → Bundle) : (s.updBundle i f).ralpex = s.ralpex := rfl
@[simp] theorem State.updBundle_dcache (s : State) (i : Nat) (f : Bundle → Bundle) : (s.updBundle i f).dcache = s.dcache := rfl
@[simp] theorem State.updBundle_slices (s : State) (i : Nat) (f : Bundle → Bundle) : (s.updBundle i f).slices = s.slices := rfl
@[simp] theorem State.updBundle_lost (s : State) (i : Nat) (f : Bundle → Bundle) : (s.updBundle i f).lost = s.lost := rfl
@[simp] theorem State.updBundle_cwords (s : State) (i : Nat) (f : Bundle → Bundle) : (s.updBundle i f).cwords = s.cwords := rfl
@[simp] theorem State.updBundle_cqNext (s : State) (i : Nat) (f : Bundle → Bundle) : (s.updBundle i f).cqNext = s.cqNext := rfl
@[simp] theorem State.updBundle_mergeEvents (s : State) (i : Nat) (f : Bundle → Bundle) : (s.updBundle i f).mergeEvents = s.mergeEvents := rfl
@[simp] theorem State.updBundle_groupAt (s : State) (i : Nat) (f : Bundle → Bundle) : (s.updBundle i f).groupAt = s.groupAt := rfl
@[simp] theorem State.updBundle_errs (s : State) (i : Nat) (f : Bundle → Bundle) : (s.updBundle i f).errs = s.errs := rfl
@[simp] theorem State.updBundle_keyInsts (s : State) (i : Nat) (f : Bundle → Bundle) : (s.updBundle i f).keyInsts = s.keyInsts := rfl
@[simp] theorem State.updBundle_banks (s : State) (i : Nat) (f : Bundle → Bundle) : (s.updBundle i f).banks = s.banks := rfl
@[simp] theorem State.updBundle_dies (s : State) (i : Nat) (f : Bundle → Bundle) : (s.updBundle i f).dies = s.dies := rfl
@[simp] theorem State.updBundle_stackCap (s : State) (i : Nat) (f : Bundle → Bundle) : (s.updBundle i f).stackCap = s.stackCap := rfl
@[simp] theorem State.updBundle_stackGrant (s : State) (i : Nat) (f : Bundle → Bundle) : (s.updBundle i f).stackGrant = s.stackGrant := rfl
@[simp] theorem State.updBundle_links (s : State) (i : Nat) (f : Bundle → Bundle) : (s.updBundle i f).links = s.links := rfl
@[simp] theorem State.updBundle_keyStore (s : State) (i : Nat) (f : Bundle → Bundle) : (s.updBundle i f).keyStore = s.keyStore := rfl
@[simp] theorem State.updBundle_resetEnded (s : State) (i : Nat) (f : Bundle → Bundle) : (s.updBundle i f).resetEnded = s.resetEnded := rfl
@[simp] theorem State.updBundle_permitAt (s : State) (i : Nat) (f : Bundle → Bundle) : (s.updBundle i f).permitAt = s.permitAt := rfl
@[simp] theorem State.updBundle_scrubAt (s : State) (i : Nat) (f : Bundle → Bundle) : (s.updBundle i f).scrubAt = s.scrubAt := rfl
@[simp] theorem State.updBundle_ctxtab (s : State) (i : Nat) (f : Bundle → Bundle) : (s.updBundle i f).ctxtab = s.ctxtab := rfl
@[simp] theorem State.updBundle_pkgid (s : State) (i : Nat) (f : Bundle → Bundle) : (s.updBundle i f).pkgid = s.pkgid := rfl
@[simp] theorem State.updBundle_pkgidSet (s : State) (i : Nat) (f : Bundle → Bundle) : (s.updBundle i f).pkgidSet = s.pkgidSet := rfl
@[simp] theorem State.updBundle_mirpart (s : State) (i : Nat) (f : Bundle → Bundle) : (s.updBundle i f).mirpart = s.mirpart := rfl
@[simp] theorem State.updBundle_allow (s : State) (i : Nat) (f : Bundle → Bundle) : (s.updBundle i f).allow = s.allow := rfl
@[simp] theorem State.updBundle_irqstat (s : State) (i : Nat) (f : Bundle → Bundle) : (s.updBundle i f).irqstat = s.irqstat := rfl
@[simp] theorem State.updBundle_ctxcmd (s : State) (i : Nat) (f : Bundle → Bundle) : (s.updBundle i f).ctxcmd = s.ctxcmd := rfl
@[simp] theorem State.updBundle_ctxres (s : State) (i : Nat) (f : Bundle → Bundle) : (s.updBundle i f).ctxres = s.ctxres := rfl
@[simp] theorem State.updBundle_hostCmd (s : State) (i : Nat) (f : Bundle → Bundle) : (s.updBundle i f).hostCmd = s.hostCmd := rfl
@[simp] theorem State.updBundle_route (s : State) (i : Nat) (f : Bundle → Bundle) : (s.updBundle i f).route = s.route := rfl
@[simp] theorem State.updBundle_windows (s : State) (i : Nat) (f : Bundle → Bundle) : (s.updBundle i f).windows = s.windows := rfl
@[simp] theorem State.updBundle_ioMem (s : State) (i : Nat) (f : Bundle → Bundle) : (s.updBundle i f).ioMem = s.ioMem := rfl

@[simp] theorem State.updDie_clk (s : State) (d : Nat) (f : Die → Die) : (s.updDie d f).clk = s.clk := rfl
@[simp] theorem State.updDie_fresh (s : State) (d : Nat) (f : Die → Die) : (s.updDie d f).fresh = s.fresh := rfl
@[simp] theorem State.updDie_inputs (s : State) (d : Nat) (f : Die → Die) : (s.updDie d f).inputs = s.inputs := rfl
@[simp] theorem State.updDie_inputSecure (s : State) (d : Nat) (f : Die → Die) : (s.updDie d f).inputSecure = s.inputSecure := rfl
@[simp] theorem State.updDie_cur (s : State) (d : Nat) (f : Die → Die) : (s.updDie d f).cur = s.cur := rfl
@[simp] theorem State.updDie_ports (s : State) (d : Nat) (f : Die → Die) : (s.updDie d f).ports = s.ports := rfl
@[simp] theorem State.updDie_issuedCtx (s : State) (d : Nat) (f : Die → Die) : (s.updDie d f).issuedCtx = s.issuedCtx := rfl
@[simp] theorem State.updDie_pipes (s : State) (d : Nat) (f : Die → Die) : (s.updDie d f).pipes = s.pipes := rfl
@[simp] theorem State.updDie_nextId (s : State) (d : Nat) (f : Die → Die) : (s.updDie d f).nextId = s.nextId := rfl
@[simp] theorem State.updDie_mem (s : State) (d : Nat) (f : Die → Die) : (s.updDie d f).mem = s.mem := rfl
@[simp] theorem State.updDie_poison (s : State) (d : Nat) (f : Die → Die) : (s.updDie d f).poison = s.poison := rfl
@[simp] theorem State.updDie_owned (s : State) (d : Nat) (f : Die → Die) : (s.updDie d f).owned = s.owned := rfl
@[simp] theorem State.updDie_l1 (s : State) (d : Nat) (f : Die → Die) : (s.updDie d f).l1 = s.l1 := rfl
@[simp] theorem State.updDie_tlb (s : State) (d : Nat) (f : Die → Die) : (s.updDie d f).tlb = s.tlb := rfl
@[simp] theorem State.updDie_wgs (s : State) (d : Nat) (f : Die → Die) : (s.updDie d f).wgs = s.wgs := rfl
@[simp] theorem State.updDie_bundles (s : State) (d : Nat) (f : Die → Die) : (s.updDie d f).bundles = s.bundles := rfl
@[simp] theorem State.updDie_pend (s : State) (d : Nat) (f : Die → Die) : (s.updDie d f).pend = s.pend := rfl
@[simp] theorem State.updDie_atoms (s : State) (d : Nat) (f : Die → Die) : (s.updDie d f).atoms = s.atoms := rfl
@[simp] theorem State.updDie_cmds (s : State) (d : Nat) (f : Die → Die) : (s.updDie d f).cmds = s.cmds := rfl
@[simp] theorem State.updDie_ops (s : State) (d : Nat) (f : Die → Die) : (s.updDie d f).ops = s.ops := rfl
@[simp] theorem State.updDie_crReqs (s : State) (d : Nat) (f : Die → Die) : (s.updDie d f).crReqs = s.crReqs := rfl
@[simp] theorem State.updDie_crBusy (s : State) (d : Nat) (f : Die → Die) : (s.updDie d f).crBusy = s.crBusy := rfl
@[simp] theorem State.updDie_noProg (s : State) (d : Nat) (f : Die → Die) : (s.updDie d f).noProg = s.noProg := rfl
@[simp] theorem State.updDie_engines (s : State) (d : Nat) (f : Die → Die) : (s.updDie d f).engines = s.engines := rfl
@[simp] theorem State.updDie_leaseReqs (s : State) (d : Nat) (f : Die → Die) : (s.updDie d f).leaseReqs = s.leaseReqs := rfl
@[simp] theorem State.updDie_puts (s : State) (d : Nat) (f : Die → Die) : (s.updDie d f).puts = s.puts := rfl
@[simp] theorem State.updDie_merges (s : State) (d : Nat) (f : Die → Die) : (s.updDie d f).merges = s.merges := rfl
@[simp] theorem State.updDie_launchReqs (s : State) (d : Nat) (f : Die → Die) : (s.updDie d f).launchReqs = s.launchReqs := rfl
@[simp] theorem State.updDie_launches (s : State) (d : Nat) (f : Die → Die) : (s.updDie d f).launches = s.launches := rfl
@[simp] theorem State.updDie_migrations (s : State) (d : Nat) (f : Die → Die) : (s.updDie d f).migrations = s.migrations := rfl
@[simp] theorem State.updDie_contexts (s : State) (d : Nat) (f : Die → Die) : (s.updDie d f).contexts = s.contexts := rfl
@[simp] theorem State.updDie_channels (s : State) (d : Nat) (f : Die → Die) : (s.updDie d f).channels = s.channels := rfl
@[simp] theorem State.updDie_mirrors (s : State) (d : Nat) (f : Die → Die) : (s.updDie d f).mirrors = s.mirrors := rfl
@[simp] theorem State.updDie_ralpex (s : State) (d : Nat) (f : Die → Die) : (s.updDie d f).ralpex = s.ralpex := rfl
@[simp] theorem State.updDie_dcache (s : State) (d : Nat) (f : Die → Die) : (s.updDie d f).dcache = s.dcache := rfl
@[simp] theorem State.updDie_slices (s : State) (d : Nat) (f : Die → Die) : (s.updDie d f).slices = s.slices := rfl
@[simp] theorem State.updDie_lost (s : State) (d : Nat) (f : Die → Die) : (s.updDie d f).lost = s.lost := rfl
@[simp] theorem State.updDie_cwords (s : State) (d : Nat) (f : Die → Die) : (s.updDie d f).cwords = s.cwords := rfl
@[simp] theorem State.updDie_cqNext (s : State) (d : Nat) (f : Die → Die) : (s.updDie d f).cqNext = s.cqNext := rfl
@[simp] theorem State.updDie_mergeEvents (s : State) (d : Nat) (f : Die → Die) : (s.updDie d f).mergeEvents = s.mergeEvents := rfl
@[simp] theorem State.updDie_groupAt (s : State) (d : Nat) (f : Die → Die) : (s.updDie d f).groupAt = s.groupAt := rfl
@[simp] theorem State.updDie_errs (s : State) (d : Nat) (f : Die → Die) : (s.updDie d f).errs = s.errs := rfl
@[simp] theorem State.updDie_keyInsts (s : State) (d : Nat) (f : Die → Die) : (s.updDie d f).keyInsts = s.keyInsts := rfl
@[simp] theorem State.updDie_banks (s : State) (d : Nat) (f : Die → Die) : (s.updDie d f).banks = s.banks := rfl
@[simp] theorem State.updDie_dies (s : State) (d : Nat) (f : Die → Die) : (s.updDie d f).dies = s.dies.modify d f := rfl
@[simp] theorem State.updDie_stackCap (s : State) (d : Nat) (f : Die → Die) : (s.updDie d f).stackCap = s.stackCap := rfl
@[simp] theorem State.updDie_stackGrant (s : State) (d : Nat) (f : Die → Die) : (s.updDie d f).stackGrant = s.stackGrant := rfl
@[simp] theorem State.updDie_links (s : State) (d : Nat) (f : Die → Die) : (s.updDie d f).links = s.links := rfl
@[simp] theorem State.updDie_keyStore (s : State) (d : Nat) (f : Die → Die) : (s.updDie d f).keyStore = s.keyStore := rfl
@[simp] theorem State.updDie_resetEnded (s : State) (d : Nat) (f : Die → Die) : (s.updDie d f).resetEnded = s.resetEnded := rfl
@[simp] theorem State.updDie_permitAt (s : State) (d : Nat) (f : Die → Die) : (s.updDie d f).permitAt = s.permitAt := rfl
@[simp] theorem State.updDie_scrubAt (s : State) (d : Nat) (f : Die → Die) : (s.updDie d f).scrubAt = s.scrubAt := rfl
@[simp] theorem State.updDie_ctxtab (s : State) (d : Nat) (f : Die → Die) : (s.updDie d f).ctxtab = s.ctxtab := rfl
@[simp] theorem State.updDie_pkgid (s : State) (d : Nat) (f : Die → Die) : (s.updDie d f).pkgid = s.pkgid := rfl
@[simp] theorem State.updDie_pkgidSet (s : State) (d : Nat) (f : Die → Die) : (s.updDie d f).pkgidSet = s.pkgidSet := rfl
@[simp] theorem State.updDie_mirpart (s : State) (d : Nat) (f : Die → Die) : (s.updDie d f).mirpart = s.mirpart := rfl
@[simp] theorem State.updDie_allow (s : State) (d : Nat) (f : Die → Die) : (s.updDie d f).allow = s.allow := rfl
@[simp] theorem State.updDie_irqstat (s : State) (d : Nat) (f : Die → Die) : (s.updDie d f).irqstat = s.irqstat := rfl
@[simp] theorem State.updDie_ctxcmd (s : State) (d : Nat) (f : Die → Die) : (s.updDie d f).ctxcmd = s.ctxcmd := rfl
@[simp] theorem State.updDie_ctxres (s : State) (d : Nat) (f : Die → Die) : (s.updDie d f).ctxres = s.ctxres := rfl
@[simp] theorem State.updDie_hostCmd (s : State) (d : Nat) (f : Die → Die) : (s.updDie d f).hostCmd = s.hostCmd := rfl
@[simp] theorem State.updDie_route (s : State) (d : Nat) (f : Die → Die) : (s.updDie d f).route = s.route := rfl
@[simp] theorem State.updDie_windows (s : State) (d : Nat) (f : Die → Die) : (s.updDie d f).windows = s.windows := rfl
@[simp] theorem State.updDie_ioMem (s : State) (d : Nat) (f : Die → Die) : (s.updDie d f).ioMem = s.ioMem := rfl

@[simp] theorem State.irq_clk (s : State) (v : Nat) : (s.irq v).clk = s.clk := rfl
@[simp] theorem State.irq_fresh (s : State) (v : Nat) : (s.irq v).fresh = s.fresh := rfl
@[simp] theorem State.irq_inputs (s : State) (v : Nat) : (s.irq v).inputs = s.inputs := rfl
@[simp] theorem State.irq_inputSecure (s : State) (v : Nat) : (s.irq v).inputSecure = s.inputSecure := rfl
@[simp] theorem State.irq_cur (s : State) (v : Nat) : (s.irq v).cur = s.cur := rfl
@[simp] theorem State.irq_ports (s : State) (v : Nat) : (s.irq v).ports = s.ports := rfl
@[simp] theorem State.irq_issuedCtx (s : State) (v : Nat) : (s.irq v).issuedCtx = s.issuedCtx := rfl
@[simp] theorem State.irq_pipes (s : State) (v : Nat) : (s.irq v).pipes = s.pipes := rfl
@[simp] theorem State.irq_nextId (s : State) (v : Nat) : (s.irq v).nextId = s.nextId := rfl
@[simp] theorem State.irq_mem (s : State) (v : Nat) : (s.irq v).mem = s.mem := rfl
@[simp] theorem State.irq_poison (s : State) (v : Nat) : (s.irq v).poison = s.poison := rfl
@[simp] theorem State.irq_owned (s : State) (v : Nat) : (s.irq v).owned = s.owned := rfl
@[simp] theorem State.irq_l1 (s : State) (v : Nat) : (s.irq v).l1 = s.l1 := rfl
@[simp] theorem State.irq_tlb (s : State) (v : Nat) : (s.irq v).tlb = s.tlb := rfl
@[simp] theorem State.irq_wgs (s : State) (v : Nat) : (s.irq v).wgs = s.wgs := rfl
@[simp] theorem State.irq_bundles (s : State) (v : Nat) : (s.irq v).bundles = s.bundles := rfl
@[simp] theorem State.irq_pend (s : State) (v : Nat) : (s.irq v).pend = s.pend := rfl
@[simp] theorem State.irq_atoms (s : State) (v : Nat) : (s.irq v).atoms = s.atoms := rfl
@[simp] theorem State.irq_cmds (s : State) (v : Nat) : (s.irq v).cmds = s.cmds := rfl
@[simp] theorem State.irq_ops (s : State) (v : Nat) : (s.irq v).ops = s.ops := rfl
@[simp] theorem State.irq_crReqs (s : State) (v : Nat) : (s.irq v).crReqs = s.crReqs := rfl
@[simp] theorem State.irq_crBusy (s : State) (v : Nat) : (s.irq v).crBusy = s.crBusy := rfl
@[simp] theorem State.irq_noProg (s : State) (v : Nat) : (s.irq v).noProg = s.noProg := rfl
@[simp] theorem State.irq_engines (s : State) (v : Nat) : (s.irq v).engines = s.engines := rfl
@[simp] theorem State.irq_leaseReqs (s : State) (v : Nat) : (s.irq v).leaseReqs = s.leaseReqs := rfl
@[simp] theorem State.irq_puts (s : State) (v : Nat) : (s.irq v).puts = s.puts := rfl
@[simp] theorem State.irq_merges (s : State) (v : Nat) : (s.irq v).merges = s.merges := rfl
@[simp] theorem State.irq_launchReqs (s : State) (v : Nat) : (s.irq v).launchReqs = s.launchReqs := rfl
@[simp] theorem State.irq_launches (s : State) (v : Nat) : (s.irq v).launches = s.launches := rfl
@[simp] theorem State.irq_migrations (s : State) (v : Nat) : (s.irq v).migrations = s.migrations := rfl
@[simp] theorem State.irq_contexts (s : State) (v : Nat) : (s.irq v).contexts = s.contexts := rfl
@[simp] theorem State.irq_channels (s : State) (v : Nat) : (s.irq v).channels = s.channels := rfl
@[simp] theorem State.irq_mirrors (s : State) (v : Nat) : (s.irq v).mirrors = s.mirrors := rfl
@[simp] theorem State.irq_ralpex (s : State) (v : Nat) : (s.irq v).ralpex = s.ralpex := rfl
@[simp] theorem State.irq_dcache (s : State) (v : Nat) : (s.irq v).dcache = s.dcache := rfl
@[simp] theorem State.irq_slices (s : State) (v : Nat) : (s.irq v).slices = s.slices := rfl
@[simp] theorem State.irq_lost (s : State) (v : Nat) : (s.irq v).lost = s.lost := rfl
@[simp] theorem State.irq_cwords (s : State) (v : Nat) : (s.irq v).cwords = s.cwords := rfl
@[simp] theorem State.irq_cqNext (s : State) (v : Nat) : (s.irq v).cqNext = s.cqNext := rfl
@[simp] theorem State.irq_mergeEvents (s : State) (v : Nat) : (s.irq v).mergeEvents = s.mergeEvents := rfl
@[simp] theorem State.irq_groupAt (s : State) (v : Nat) : (s.irq v).groupAt = s.groupAt := rfl
@[simp] theorem State.irq_errs (s : State) (v : Nat) : (s.irq v).errs = s.errs := rfl
@[simp] theorem State.irq_keyInsts (s : State) (v : Nat) : (s.irq v).keyInsts = s.keyInsts := rfl
@[simp] theorem State.irq_banks (s : State) (v : Nat) : (s.irq v).banks = s.banks := rfl
@[simp] theorem State.irq_dies (s : State) (v : Nat) : (s.irq v).dies = s.dies := rfl
@[simp] theorem State.irq_stackCap (s : State) (v : Nat) : (s.irq v).stackCap = s.stackCap := rfl
@[simp] theorem State.irq_stackGrant (s : State) (v : Nat) : (s.irq v).stackGrant = s.stackGrant := rfl
@[simp] theorem State.irq_links (s : State) (v : Nat) : (s.irq v).links = s.links := rfl
@[simp] theorem State.irq_keyStore (s : State) (v : Nat) : (s.irq v).keyStore = s.keyStore := rfl
@[simp] theorem State.irq_resetEnded (s : State) (v : Nat) : (s.irq v).resetEnded = s.resetEnded := rfl
@[simp] theorem State.irq_permitAt (s : State) (v : Nat) : (s.irq v).permitAt = s.permitAt := rfl
@[simp] theorem State.irq_scrubAt (s : State) (v : Nat) : (s.irq v).scrubAt = s.scrubAt := rfl
@[simp] theorem State.irq_ctxtab (s : State) (v : Nat) : (s.irq v).ctxtab = s.ctxtab := rfl
@[simp] theorem State.irq_pkgid (s : State) (v : Nat) : (s.irq v).pkgid = s.pkgid := rfl
@[simp] theorem State.irq_pkgidSet (s : State) (v : Nat) : (s.irq v).pkgidSet = s.pkgidSet := rfl
@[simp] theorem State.irq_mirpart (s : State) (v : Nat) : (s.irq v).mirpart = s.mirpart := rfl
@[simp] theorem State.irq_allow (s : State) (v : Nat) : (s.irq v).allow = s.allow := rfl
@[simp] theorem State.irq_irqstat (s : State) (v : Nat) : (s.irq v).irqstat = setBit s.irqstat v true := rfl
@[simp] theorem State.irq_ctxcmd (s : State) (v : Nat) : (s.irq v).ctxcmd = s.ctxcmd := rfl
@[simp] theorem State.irq_ctxres (s : State) (v : Nat) : (s.irq v).ctxres = s.ctxres := rfl
@[simp] theorem State.irq_hostCmd (s : State) (v : Nat) : (s.irq v).hostCmd = s.hostCmd := rfl
@[simp] theorem State.irq_route (s : State) (v : Nat) : (s.irq v).route = s.route := rfl
@[simp] theorem State.irq_windows (s : State) (v : Nat) : (s.irq v).windows = s.windows := rfl
@[simp] theorem State.irq_ioMem (s : State) (v : Nat) : (s.irq v).ioMem = s.ioMem := rfl

@[simp] theorem State.addPend_clk (s : State) (k : Nat) (p : Pend) : (s.addPend k p).clk = s.clk := rfl
@[simp] theorem State.addPend_fresh (s : State) (k : Nat) (p : Pend) : (s.addPend k p).fresh = s.fresh := rfl
@[simp] theorem State.addPend_inputs (s : State) (k : Nat) (p : Pend) : (s.addPend k p).inputs = s.inputs := rfl
@[simp] theorem State.addPend_inputSecure (s : State) (k : Nat) (p : Pend) : (s.addPend k p).inputSecure = s.inputSecure := rfl
@[simp] theorem State.addPend_cur (s : State) (k : Nat) (p : Pend) : (s.addPend k p).cur = s.cur := rfl
@[simp] theorem State.addPend_ports (s : State) (k : Nat) (p : Pend) : (s.addPend k p).ports = s.ports := rfl
@[simp] theorem State.addPend_issuedCtx (s : State) (k : Nat) (p : Pend) : (s.addPend k p).issuedCtx = s.issuedCtx := rfl
@[simp] theorem State.addPend_pipes (s : State) (k : Nat) (p : Pend) : (s.addPend k p).pipes = s.pipes := rfl
@[simp] theorem State.addPend_nextId (s : State) (k : Nat) (p : Pend) : (s.addPend k p).nextId = s.nextId + 1 := rfl
@[simp] theorem State.addPend_mem (s : State) (k : Nat) (p : Pend) : (s.addPend k p).mem = s.mem := rfl
@[simp] theorem State.addPend_poison (s : State) (k : Nat) (p : Pend) : (s.addPend k p).poison = s.poison := rfl
@[simp] theorem State.addPend_owned (s : State) (k : Nat) (p : Pend) : (s.addPend k p).owned = s.owned := rfl
@[simp] theorem State.addPend_l1 (s : State) (k : Nat) (p : Pend) : (s.addPend k p).l1 = s.l1 := rfl
@[simp] theorem State.addPend_tlb (s : State) (k : Nat) (p : Pend) : (s.addPend k p).tlb = s.tlb := rfl
@[simp] theorem State.addPend_wgs (s : State) (k : Nat) (p : Pend) : (s.addPend k p).wgs = s.wgs := rfl
@[simp] theorem State.addPend_bundles (s : State) (k : Nat) (p : Pend) : (s.addPend k p).bundles = s.bundles := rfl
@[simp] theorem State.addPend_atoms (s : State) (k : Nat) (p : Pend) : (s.addPend k p).atoms = s.atoms := rfl
@[simp] theorem State.addPend_cmds (s : State) (k : Nat) (p : Pend) : (s.addPend k p).cmds = s.cmds := rfl
@[simp] theorem State.addPend_ops (s : State) (k : Nat) (p : Pend) : (s.addPend k p).ops = s.ops := rfl
@[simp] theorem State.addPend_crReqs (s : State) (k : Nat) (p : Pend) : (s.addPend k p).crReqs = s.crReqs := rfl
@[simp] theorem State.addPend_crBusy (s : State) (k : Nat) (p : Pend) : (s.addPend k p).crBusy = s.crBusy := rfl
@[simp] theorem State.addPend_noProg (s : State) (k : Nat) (p : Pend) : (s.addPend k p).noProg = s.noProg := rfl
@[simp] theorem State.addPend_engines (s : State) (k : Nat) (p : Pend) : (s.addPend k p).engines = s.engines := rfl
@[simp] theorem State.addPend_leaseReqs (s : State) (k : Nat) (p : Pend) : (s.addPend k p).leaseReqs = s.leaseReqs := rfl
@[simp] theorem State.addPend_puts (s : State) (k : Nat) (p : Pend) : (s.addPend k p).puts = s.puts := rfl
@[simp] theorem State.addPend_merges (s : State) (k : Nat) (p : Pend) : (s.addPend k p).merges = s.merges := rfl
@[simp] theorem State.addPend_launchReqs (s : State) (k : Nat) (p : Pend) : (s.addPend k p).launchReqs = s.launchReqs := rfl
@[simp] theorem State.addPend_launches (s : State) (k : Nat) (p : Pend) : (s.addPend k p).launches = s.launches := rfl
@[simp] theorem State.addPend_migrations (s : State) (k : Nat) (p : Pend) : (s.addPend k p).migrations = s.migrations := rfl
@[simp] theorem State.addPend_contexts (s : State) (k : Nat) (p : Pend) : (s.addPend k p).contexts = s.contexts := rfl
@[simp] theorem State.addPend_channels (s : State) (k : Nat) (p : Pend) : (s.addPend k p).channels = s.channels := rfl
@[simp] theorem State.addPend_mirrors (s : State) (k : Nat) (p : Pend) : (s.addPend k p).mirrors = s.mirrors := rfl
@[simp] theorem State.addPend_ralpex (s : State) (k : Nat) (p : Pend) : (s.addPend k p).ralpex = s.ralpex := rfl
@[simp] theorem State.addPend_dcache (s : State) (k : Nat) (p : Pend) : (s.addPend k p).dcache = s.dcache := rfl
@[simp] theorem State.addPend_slices (s : State) (k : Nat) (p : Pend) : (s.addPend k p).slices = s.slices := rfl
@[simp] theorem State.addPend_lost (s : State) (k : Nat) (p : Pend) : (s.addPend k p).lost = s.lost := rfl
@[simp] theorem State.addPend_cwords (s : State) (k : Nat) (p : Pend) : (s.addPend k p).cwords = s.cwords := rfl
@[simp] theorem State.addPend_cqNext (s : State) (k : Nat) (p : Pend) : (s.addPend k p).cqNext = s.cqNext := rfl
@[simp] theorem State.addPend_mergeEvents (s : State) (k : Nat) (p : Pend) : (s.addPend k p).mergeEvents = s.mergeEvents := rfl
@[simp] theorem State.addPend_groupAt (s : State) (k : Nat) (p : Pend) : (s.addPend k p).groupAt = s.groupAt := rfl
@[simp] theorem State.addPend_errs (s : State) (k : Nat) (p : Pend) : (s.addPend k p).errs = s.errs := rfl
@[simp] theorem State.addPend_keyInsts (s : State) (k : Nat) (p : Pend) : (s.addPend k p).keyInsts = s.keyInsts := rfl
@[simp] theorem State.addPend_banks (s : State) (k : Nat) (p : Pend) : (s.addPend k p).banks = s.banks := rfl
@[simp] theorem State.addPend_dies (s : State) (k : Nat) (p : Pend) : (s.addPend k p).dies = s.dies := rfl
@[simp] theorem State.addPend_stackCap (s : State) (k : Nat) (p : Pend) : (s.addPend k p).stackCap = s.stackCap := rfl
@[simp] theorem State.addPend_stackGrant (s : State) (k : Nat) (p : Pend) : (s.addPend k p).stackGrant = s.stackGrant := rfl
@[simp] theorem State.addPend_links (s : State) (k : Nat) (p : Pend) : (s.addPend k p).links = s.links := rfl
@[simp] theorem State.addPend_keyStore (s : State) (k : Nat) (p : Pend) : (s.addPend k p).keyStore = s.keyStore := rfl
@[simp] theorem State.addPend_resetEnded (s : State) (k : Nat) (p : Pend) : (s.addPend k p).resetEnded = s.resetEnded := rfl
@[simp] theorem State.addPend_permitAt (s : State) (k : Nat) (p : Pend) : (s.addPend k p).permitAt = s.permitAt := rfl
@[simp] theorem State.addPend_scrubAt (s : State) (k : Nat) (p : Pend) : (s.addPend k p).scrubAt = s.scrubAt := rfl
@[simp] theorem State.addPend_ctxtab (s : State) (k : Nat) (p : Pend) : (s.addPend k p).ctxtab = s.ctxtab := rfl
@[simp] theorem State.addPend_pkgid (s : State) (k : Nat) (p : Pend) : (s.addPend k p).pkgid = s.pkgid := rfl
@[simp] theorem State.addPend_pkgidSet (s : State) (k : Nat) (p : Pend) : (s.addPend k p).pkgidSet = s.pkgidSet := rfl
@[simp] theorem State.addPend_mirpart (s : State) (k : Nat) (p : Pend) : (s.addPend k p).mirpart = s.mirpart := rfl
@[simp] theorem State.addPend_allow (s : State) (k : Nat) (p : Pend) : (s.addPend k p).allow = s.allow := rfl
@[simp] theorem State.addPend_irqstat (s : State) (k : Nat) (p : Pend) : (s.addPend k p).irqstat = s.irqstat := rfl
@[simp] theorem State.addPend_ctxcmd (s : State) (k : Nat) (p : Pend) : (s.addPend k p).ctxcmd = s.ctxcmd := rfl
@[simp] theorem State.addPend_ctxres (s : State) (k : Nat) (p : Pend) : (s.addPend k p).ctxres = s.ctxres := rfl
@[simp] theorem State.addPend_hostCmd (s : State) (k : Nat) (p : Pend) : (s.addPend k p).hostCmd = s.hostCmd := rfl
@[simp] theorem State.addPend_route (s : State) (k : Nat) (p : Pend) : (s.addPend k p).route = s.route := rfl
@[simp] theorem State.addPend_windows (s : State) (k : Nat) (p : Pend) : (s.addPend k p).windows = s.windows := rfl
@[simp] theorem State.addPend_ioMem (s : State) (k : Nat) (p : Pend) : (s.addPend k p).ioMem = s.ioMem := rfl

end Sys2Proof.Machine
end

