-- ==== Sys2Proof/Certificates/Slice0/Obligations.lean ====
section
/-! DEFINITION. The statements about the model, one `def Obligations.<Name> : Prop` each, listed in OBLIGATIONS.json. The
definitions in `Sys2Proof.Claim` are the words they share. In all of them `s` is the state in which a word issues and `c` the
issue it holds; the free counter advances by one at every issue, so that an instruction reads its operands in `s.tickFree`. -/

namespace Sys2Proof.Claim

open Sys2Proof.Machine

/-- The threads of the issuing bundle whose guard is true. -/
def act (s : State) (c : Issue) (g : Guard) : List Nat := active s.tickFree c g

/-- The value a source field has in a thread as the word issues. -/
def val (s : State) (c : Issue) (a : Src) (l : Nat) : Word := src s.tickFree c a l

/-- A source pair, or the sign-extended extension word. -/
def val64 (s : State) (c : Issue) (a : Src) (l : Nat) : Word64 := src64 s.tickFree c a l

/-- A register of a thread as the word issues. -/
def reg (s : State) (c : Issue) (r : Nat) (l : Nat) : Word := s.tickFree.readReg c.wg l r

/-- A predicate of a thread as the word issues. -/
def pred (s : State) (c : Issue) (p : Nat) (l : Nat) : Bool := s.tickFree.predOf c.wg l p

/-- The low and the high word of a pair. -/
def lo (x : Word64) : Word := x.setWidth 32
def hi (x : Word64) : Word := (x >>> 32).setWidth 32

/-- A result in flight gives exactly these registers, in exactly the threads `ts`, these values; and it writes these
predicates, p0 never. -/
def Gives (p : Pend) (u : Nat) (ts : List Nat) (regs : List (Nat × (Nat → Word))) (preds : List (Nat × (Nat → Bool))) : Prop :=
  (∀ hw r j, p.laneWrite u hw r j = if j < 32 ∧ 32 * hw + j ∈ ts then (regs.lookup r).map (fun f => f (32 * hw + j)) else none) ∧
  (∀ l n b, (l, n, b) ∈ p.preds ↔ l ∈ ts ∧ n ≠ 0 ∧ ∃ f, preds.lookup n = some f ∧ f l = b)

/-- The whole effect of an instruction of fixed latency: one result in flight that lands `lat` clk from now, counted by no
counter. Every other field of the state is as it was, memory and the threads among them. -/
def Lands (s : State) (c : Issue) (lat : Nat) (ts : List Nat) (regs : List (Nat × (Nat → Word)))
    (preds : List (Nat × (Nat → Bool))) (t : State) : Prop :=
  ∃ p : Pend, t = { s with fresh := s.fresh + 1, nextId := s.nextId + 1, pend := s.pend ++ [p] } ∧
    p.id = s.nextId ∧ p.due = s.clk + lat ∧ p.wg = c.wg ∧ p.tids = ts ∧ p.ctr = none ∧ p.load = false ∧ p.late = none ∧
    p.flags = [] ∧ p.sys = [] ∧ p.poison = [] ∧ Gives p c.wg ts regs preds

/-- Every thread of a list changed, each by the function of its number; the rest of the state as it was. -/
def onThreads (s : State) (u : Nat) (ts : List Nat) (f : Nat → Thread → Thread) : State :=
  { s with wgs := s.wgs.map fun w : Workgroup =>
      if w.uid = u then { w with threads := w.threads.mapIdx fun i th => if i ∈ ts then f i th else th } else w }

end Sys2Proof.Claim

open Sys2Proof Sys2Proof.Machine Sys2Proof.Claim

/-! Vector arithmetic: integer, logic and predicates (R99 to R109). -/

/-- R101 to R104, R67: the two-source 32-bit operations write their result in every active thread, after the entry's latency,
and change nothing else. -/
def Sys2Proof.Claim.IntegerTwoSourceResults : Prop :=
  ∀ (s : State) (c : Issue) (g : Guard) (d : RegCode) (a b : Src), s.cur = some c →
    let R := fun (i : Instr) (lat : Nat) (f : Word → Word → Word) =>
      ∃ t, exec i s = .next t ∧ Lands s c lat (act s c g) [(d.toNat, fun l => f (val s c a l) (val s c b l))] [] t
    R (.add g d a b) 4 (fun x y => BitVec.ofNat 32 (x.toNat + y.toNat)) ∧
    R (.sub g d a b) 4 (fun x y => BitVec.ofInt 32 (x.toInt - y.toInt)) ∧
    R (.mul g d a b) 4 (fun x y => BitVec.ofNat 32 (x.toNat * y.toNat)) ∧
    R (.mulhI g d a b) 6 (fun x y => hi (x.signExtend 64 * y.signExtend 64)) ∧
    R (.mulhN g d a b) 6 (fun x y => hi (x.setWidth 64 * y.setWidth 64)) ∧
    R (.minI g d a b) 4 (fun x y => if x.sle y then x else y) ∧ R (.minN g d a b) 4 (fun x y => if x.ule y then x else y) ∧
    R (.maxI g d a b) 4 (fun x y => if x.sle y then y else x) ∧ R (.maxN g d a b) 4 (fun x y => if x.ule y then y else x) ∧
    R (.and g d a b) 4 (· &&& ·) ∧ R (.or g d a b) 4 (· ||| ·) ∧ R (.xor g d a b) 4 (· ^^^ ·) ∧
    R (.shl g d a b) 4 (fun x y => if y.toNat % 64 ≥ 32 then 0 else x <<< (y.toNat % 64)) ∧
    R (.shr g d a b) 4 (fun x y => if y.toNat % 64 ≥ 32 then 0 else x >>> (y.toNat % 64)) ∧
    R (.sar g d a b) 4 (fun x y => x.sshiftRight (min (y.toNat % 64) 31)) ∧
    R (.rot g d a b) 4 (fun x y => x.rotateLeft (y.toNat % 32)) ∧
    R (.bfxN g d a b) 4 (fun x y => (x >>> bfPos y) &&& BitVec.ofNat 32 (2^(bfLen y) - 1)) ∧
    R (.bfxI g d a b) 4 (fun x y => ((x >>> bfPos y).setWidth (bfLen y)).signExtend 32) ∧
    R (.fpack2 g d a b) 4 (fun x y => (y.setWidth 16 : BitVec 16) ++ (x.setWidth 16 : BitVec 16)) ∧
    R (.funpk2 g d a b) 4 (fun x y => if y.getLsbD 0 then x >>> 16 else (x.setWidth 16).setWidth 32)

/-- R100 to R106, R66: moves, one-source operations, multiply-adds, BFI and SEL. -/
def Sys2Proof.Claim.IntegerOneSourceAndMoveResults : Prop :=
  ∀ (s : State) (c : Issue) (g : Guard) (d ra rb : RegCode) (a b : Src) (x : Word) (q k : BitVec 3), s.cur = some c →
    let A := act s c g
    let R := fun (i : Instr) (lat : Nat) (regs : List (Nat × (Nat → Word))) => ∃ t, exec i s = .next t ∧ Lands s c lat A regs [] t
    let one := fun (f : Nat → Word) => [(d.toNat, f)]
    let two := fun (f : Nat → Word64) => [(d.toNat, fun l => lo (f l)), (d.toNat + 1, fun l => hi (f l))]
    let pair := fun (r : RegCode) (l : Nat) => (reg s c (r.toNat + 1) l ++ reg s c r.toNat l : Word64)
    let fmtSlot := ((s.wg? c.wg).map fun w => (s.lrOf w).fmt.getD k.toNat 0).getD 0
    R (.mov g d ra) 4 (one fun l => if ra = 63 then BitVec.ofNat 32 (l % 32) else reg s c ra.toNat l) ∧
    R (.movi g d x) 4 (one fun _ => x) ∧ R (.movh g d x) 4 [(d.toNat + 1, fun _ => x)] ∧
    R (.neg g d a) 4 (one fun l => 0 - val s c a l) ∧ R (.not g d a) 4 (one fun l => val s c a l ^^^ 0xFFFFFFFF) ∧
    R (.abs g d a) 4 (one fun l => if (val s c a l).slt 0 then 0 - val s c a l else val s c a l) ∧
    R (.popc g d a) 4 (one fun l => BitVec.ofNat 32 ((List.range 32).countP fun i => (val s c a l).getLsbD i)) ∧
    R (.clz g d a) 4 (one fun l => BitVec.ofNat 32 ((List.range 32).takeWhile fun i => !(val s c a l).getMsbD i).length) ∧
    R (.brev g d a) 4 (one fun l => (val s c a l).reverse) ∧
    R (.fmtq g d a) 4 (one fun l => BitVec.ofNat 32 (fmtWord ((val s c a l).toNat % 256))) ∧
    R (.fmtqSlot g d k) 4 (one fun _ => lo fmtSlot) ∧
    R (.fmtqElem g d k) 4 (one fun _ => BitVec.ofNat 32 (fmtWord (slotElem fmtSlot))) ∧
    R (.mad g d a b) 4 (one fun l => val s c a l * val s c b l + reg s c d.toNat l) ∧
    R (.madwI g d a b) 8 (two fun l => (val s c a l).signExtend 64 * (val s c b l).signExtend 64 + pair d l) ∧
    R (.madwN g d a b) 8 (two fun l => (val s c a l).setWidth 64 * (val s c b l).setWidth 64 + pair d l) ∧
    R (.bfi g d ra rb x) 4 (one fun l =>
      let m : Word := BitVec.ofNat 32 (2^(bfLen x) - 1) <<< bfPos x
      (reg s c rb.toNat l &&& ~~~ m) ||| ((reg s c ra.toNat l <<< bfPos x) &&& m)) ∧
    R (.sel g q d a b) 4 (one fun l => if pred s c q.toNat l then val s c a l else val s c b l) ∧
    R (.adda g d ra b) 4 (two fun l => pair ra l + val64 s c b l) ∧
    R (.lea g d b) 4 (two fun l => c.addr.setWidth 64 + (val s c b l).signExtend 64)

/-- R101: ADDC adds p7 and leaves the carry in p7; SUBB subtracts p7 and leaves the borrow in p7. -/
def Sys2Proof.Claim.CarryAndBorrowThroughPredicate7 : Prop :=
  ∀ (s : State) (c : Issue) (g : Guard) (d : RegCode) (a b : Src), s.cur = some c →
    let k := fun l => (pred s c 7 l).toNat
    let x := fun l => (val s c a l).toNat
    let y := fun l => (val s c b l).toNat
    (∃ t, exec (.addc g d a b) s = .next t ∧ Lands s c 4 (act s c g)
      [(d.toNat, fun l => BitVec.ofNat 32 (x l + y l + k l))] [(7, fun l => decide (2^32 ≤ x l + y l + k l))] t) ∧
    (∃ t, exec (.subb g d a b) s = .next t ∧ Lands s c 4 (act s c g)
      [(d.toNat, fun l => BitVec.ofInt 32 ((x l : Int) - y l - k l))] [(7, fun l => decide (x l < y l + k l))] t)

/-- R107, R108: ICMP gives each active thread the comparison that fn names of its two sources, signed for 2 to 5 and unsigned for 6
and 7; PLOP gives it the bit of the table that its three predicates number, and a table word with a reserved bit set is no instruction.
A write to p0 writes nothing. -/
def Obligations.PredicateResults : Prop :=
  ∀ (s : State) (c : Issue) (g : Guard) (d pa pb : PredCode) (a b : Src) (x : Word), s.cur = some c →
    let R := fun (i : Instr) (f : Nat → Bool) => ∃ t, exec i s = .next t ∧ Lands s c 4 (act s c g) [] [(d.toNat, f)] t
    let u := val s c a
    let v := val s c b
    R (.icmp g 0 d a b) (fun l => u l == v l) ∧ R (.icmp g 1 d a b) (fun l => u l != v l) ∧
    R (.icmp g 2 d a b) (fun l => (u l).slt (v l)) ∧ R (.icmp g 3 d a b) (fun l => (u l).sle (v l)) ∧
    R (.icmp g 4 d a b) (fun l => (v l).slt (u l)) ∧ R (.icmp g 5 d a b) (fun l => (v l).sle (u l)) ∧
    R (.icmp g 6 d a b) (fun l => (u l).ult (v l)) ∧ R (.icmp g 7 d a b) (fun l => (v l).ule (u l)) ∧
    R (.plop g d pa pb x) (fun l => x.getLsbD
      (8 + 4 * (pred s c pa.toNat l).toNat + 2 * (pred s c pb.toNat l).toNat + (pred s c (x.toNat % 8) l).toNat)) ∧
    (wellFormed (.plop g d pa pb x) = true ↔ ∀ i, (3 ≤ i ∧ i < 8) ∨ 16 ≤ i → x.getLsbD i = false)

/-- R89: the votes give every active thread whether any, or whether all, active threads have the predicate. -/
def Sys2Proof.Claim.VoteResults : Prop :=
  ∀ (s : State) (c : Issue) (g : Guard) (d pa : PredCode) (inv : BitVec 1), s.cur = some c →
    let A := act s c g
    let q := fun l => pred s c pa.toNat l != (inv == 1)
    (∃ t, exec (.voteAny g d pa inv) s = .next t ∧ Lands s c 4 A [] [(d.toNat, fun _ => A.any q)] t) ∧
    ∃ t, exec (.voteAll g d pa inv) s = .next t ∧ Lands s c 4 A [] [(d.toNat, fun _ => A.all q)] t

/-- R89 to R91: ballot, shuffles, SHAPE and TAGQ in a bundle of one thread for each lane. A shuffle reads the named lane where it holds an
active thread, and the reader's own value elsewhere. SHAPE and TAGQ read a register's image with each write in flight to it done whole or
not at all (R79). Which of the writes in flight are done is free (log entry 4). -/
def Sys2Proof.Claim.CrossLaneResults : Prop :=
  ∀ (s : State) (c : Issue) (g : Guard) (d : RegCode) (pa : PredCode) (a b : Src) (k : BitVec 6) (inv : BitVec 1),
    s.cur = some c → (c.tids.map (· % 32)).Nodup →
    let A := act s c g
    let R := fun (i : Instr) (lat : Nat) (f : Nat → Word) => ∃ t, exec i s = .next t ∧ Lands s c lat A [(d.toNat, f)] [] t
    let from_ := fun (pick : Nat → Nat → Option Nat) (l : Nat) =>
      match (pick (l % 32) ((val s c b l).toNat % 32)).bind fun j => A.find? (· % 32 == j) with
      | some q => val s c a q
      | none => val s c a l
    let img := fun l => srcWhole s.tickFree c (l / 32) a
    (∃ m : Word, (∀ j, j < 32 → (m.getLsbD j ↔ ∃ l ∈ A, l % 32 = j ∧ (pred s c pa.toNat l != (inv == 1)) = true)) ∧
      R (.voteBallot g d pa inv) 4 fun _ => m) ∧
    R (.shflIdx g d a b) 6 (from_ fun _ n => some n) ∧
    R (.shflUp g d a b) 6 (from_ fun l n => if n ≤ l then some (l - n) else none) ∧
    R (.shflDown g d a b) 6 (from_ fun l n => if l + n < 32 then some (l + n) else none) ∧
    R (.shflXor g d a b) 6 (from_ fun l n => some (l ^^^ n)) ∧
    R (.shape g d a k) 4 (fun l =>
      if k = 0 then (img l).lane 0
      else if k = 1 then (img l).lane 0 + BitVec.ofNat 32 (l % 32) * ((img l).lane 1 - (img l).lane 0)
      else (img l).lane (l % 32)) ∧
    R (.tagq g d a) 4 (fun l => match img l with
      | .u _ => 0
      | .a _ _ => 1
      | .g _ => 2)

/-- R92: MOVX reads and MOVXW writes the register that each thread's index names, where every active index is below REGS and is
not 63 (`Claim.OperandFaultsEnterTheHandler` has the others). -/
def Sys2Proof.Claim.IndexedMoveResults : Prop :=
  ∀ (s : State) (c : Issue) (w : Workgroup) (g : Guard) (d : RegCode) (a b : Src), s.cur = some c → s.wg? c.wg = some w →
    (∀ l ∈ act s c g, (val s c a l).toNat < w.regs ∧ (val s c a l).toNat ≠ 63) →
    (∃ t, exec (.movx g d a) s = .next t ∧
      Lands s c 6 (act s c g) [(d.toNat, fun l => reg s c (val s c a l).toNat l)] [] t) ∧
    (∃ (t : State) (p : Pend), exec (.movxw g a b) s = .next t ∧
      t = { s with fresh := s.fresh + 1, nextId := s.nextId + 1, pend := s.pend ++ [p] } ∧ p.due = s.clk + 6 ∧ p.preds = [] ∧
      ∀ hw r j, p.laneWrite c.wg hw r j =
        if j < 32 ∧ 32 * hw + j ∈ act s c g ∧ (val s c a (32 * hw + j)).toNat = r then some (val s c b (32 * hw + j)) else none)

/-! Floating point and conversion (R42 to R67, R95 to R118). -/

namespace Sys2Proof.Claim

/-- A floating-point source: a pair for f64, else a register. -/
def fval (s : State) (c : Issue) (ty : BitVec 3) (a : Src) (l : Nat) : Word64 :=
  if ty = 1 then val64 s c a l else (val s c a l).setWidth 64

/-- The bundles after an instruction that raises IEEE flags: where an active thread has a trap enabled, its bundle issues no later word of
the clause before the flags are known (R98). -/
def fpHeld (s : State) (c : Issue) (lat : Nat) (ts : List Nat) : List Bundle :=
  if ts.any fun l => (s.fpctl c.wg l).toNat / 2^8 % 32 != 0 then
    s.bundles.map fun b => if b.id = c.bundle then { b with notBefore := max b.notBefore (s.clk + lat) } else b
  else s.bundles

/-- As `Lands`, with the IEEE flags each thread's FPCTL receives as the result lands. -/
def FpLands (s : State) (c : Issue) (lat : Nat) (ts : List Nat) (regs : List (Nat × (Nat → Word))) (flags : Nat → Nat)
    (t : State) : Prop :=
  ∃ p : Pend, t = { s with fresh := s.fresh + 1, nextId := s.nextId + 1, pend := s.pend ++ [p], bundles := fpHeld s c lat ts } ∧
    p.id = s.nextId ∧ p.due = s.clk + lat ∧ p.wg = c.wg ∧ p.tids = ts ∧ p.ctr = none ∧ p.load = false ∧ p.late = none ∧
    p.sys = [] ∧ p.poison = [] ∧ Gives p c.wg ts regs [] ∧ ∀ l x, (l, x) ∈ p.flags ↔ l ∈ ts ∧ x = BitVec.ofNat 5 (flags l)

/-- The registers a floating-point result of a type writes. -/
def fregs (ty : BitVec 3) (d : RegCode) (f : Nat → FpRes) : List (Nat × (Nat → Word)) :=
  if ty = 1 then [(d.toNat, fun l => lo (f l).val), (d.toNat + 1, fun l => hi (f l).val)] else [(d.toNat, fun l => lo (f l).val)]

/-- The operand fields hold one value each in a home wave: tag U, or an extension word. -/
def unif (s : State) (c : Issue) (wide : Bool) (as : List Src) (hw : Nat) : Bool :=
  as.all fun a => match a with
    | .imm _ => true
    | .reg r => (s.tickFree.readImg c.wg hw r.toNat).isU && (!wide || (s.tickFree.readImg c.wg hw (r.toNat + 1)).isU)

/-- The thread that a thread's result is computed for: home lane 0 of its home wave where the operands are uniform there and all of
its 32 threads are active, so that the home wave has one result (R80, R94); else itself. -/
def rep (s : State) (c : Issue) (ts : List Nat) (wide : Bool) (as : List Src) (l : Nat) : Nat :=
  if unif s c wide as (l / 32) && (ts.filter fun q => q / 32 == l / 32).length == 32 then 32 * (l / 32) else l

/-- No enabled flag is raised in a thread of the list (R95, R98). -/
def NoTrap (s : State) (c : Issue) (ts : List Nat) (f : Nat → FpRes) : Prop :=
  ∀ l ∈ ts, (s.fpctl c.wg l).toNat / 2^8 % 32 &&& (f l).flags = 0

end Sys2Proof.Claim

/-- R110 to R117: where an active thread exists and raises no enabled flag, each floating-point instruction writes in every
active thread the correctly rounded or approximate result of the thread's operands under its own FPCTL (of a home wave that is written
whole from uniform operands, one result, under the FPCTL of its home lane 0: log entry 28), after the latency of the type, and hands its
flags on to FPCTL; nothing else changes. -/
def Sys2Proof.Claim.FloatingPointResults : Prop :=
  ∀ (s : State) (c : Issue) (g : Guard) (ty : BitVec 3) (d : RegCode) (a b : Src), s.cur = some c →
    let A := act s c g
    let e := fun l => fpEnv (s.fpctl c.wg l) ty.toNat
    let x := fval s c ty a
    let y := fval s c ty b
    let z := fval s c ty (.reg d)
    let R := fun (i : Instr) (lat lat64 : Nat) (as : List Src) (f : Nat → FpRes) =>
      let f' := fun l => f (rep s c A (ty == 1) as l)
      A ≠ [] → NoTrap s c A f' →
      ∃ t, exec i s = .next t ∧ FpLands s c (if ty = 1 then lat64 else lat) A (fregs ty d f') (fun l => (f' l).flags) t
    let two := fun (f : FpEnv → Nat → Nat → Nat × Nat) (l : Nat) =>
      fpMap (e l) (fun e v => f e (v.getD 0 0) (v.getD 1 0)) [x l, y l]
    let one := fun (f : FpEnv → Nat → Nat × Nat) (l : Nat) => fpMap (e l) (fun e v => f e (v.getD 0 0)) [x l]
    R (.fadd g ty d a b) 6 12 [a, b] (two fun e p q => e.res (addV (e.mode == 3) (e.val p) (e.val q))) ∧
    R (.fsub g ty d a b) 6 12 [a, b] (two fun e p q => e.res (addV (e.mode == 3) (e.val p) (e.val q).neg)) ∧
    R (.fmul g ty d a b) 6 12 [a, b] (two fun e p q => e.res (mulV (e.val p) (e.val q))) ∧
    R (.ffma g ty d a b) 6 12 [a, b, .reg d] (fun l => fpMap (e l)
      (fun e v => e.res (fmaV (e.mode == 3) (e.val (v.getD 0 0)) (e.val (v.getD 1 0)) (e.val (v.getD 2 0)))) [x l, y l, z l]) ∧
    R (.fdiv g ty d a b) 28 56 [a, b] (two fun e p q => e.res (divV (e.fmt.frac + 4) (e.val p) (e.val q))) ∧
    R (.fsqrt g ty d a) 24 48 [a] (one fun e p => e.res (sqrtV (e.fmt.frac + 4) (e.val p))) ∧
    R (.fmin g ty d a b) 6 12 [a, b] (two (minMax1 false)) ∧ R (.fmax g ty d a b) 6 12 [a, b] (two (minMax1 true)) ∧
    R (.frcp g ty d a) 12 40 [a] (one (approx1 .rcp)) ∧ R (.frsq g ty d a) 12 40 [a] (one (approx1 .rsq)) ∧
    R (.fex2 g ty d a) 16 16 [a] (one (approx1 .ex2)) ∧ R (.flg2 g ty d a) 16 16 [a] (one (approx1 .lg2)) ∧
    R (.fsin g ty d a) 20 20 [a] (one (approx1 .sin)) ∧ R (.fcos g ty d a) 20 20 [a] (one (approx1 .cos))

/-- R114, R115: FCMP writes −1, 0, 1 or 2 for less, equal, greater or unordered of its flushed operands into a 32-bit register; FCLASS
writes one of ten class bits of the raw encoding and raises no flag. That a home wave written whole from uniform sources has one result,
under the FPCTL of its home lane 0, is the model's choice (log entry 28). -/
def Sys2Proof.Claim.FloatCompareAndClassResults : Prop :=
  ∀ (s : State) (c : Issue) (g : Guard) (ty : BitVec 3) (d : RegCode) (a b : Src), s.cur = some c →
    let A := act s c g
    let el := fun (a : Src) (l : Nat) => (fpElems ty.toNat (fval s c ty a l)).headD 0
    let e := fun l => fpEnv (s.fpctl c.wg l) ty.toNat
    let v := fun l => (e l).val (el a l)
    let w := fun l => (e l).val (el b l)
    let q := rep s c A (ty == 1) [a, b]
    let rel : Nat → Word := fun l => match cmpV (v (q l)) (w (q l)) with
      | none => 2
      | some k => if k < 0 then 0xFFFFFFFF else if k = 0 then 0 else 1
    let fl := fun l => if sigOf (v (q l)) || sigOf (w (q l)) then 1 else 0
    (A ≠ [] → NoTrap s c A (fun l => ⟨0, fl l⟩) →
      ∃ t, exec (.fcmp g ty d a b) s = .next t ∧ FpLands s c 4 A [(d.toNat, rel)] fl t) ∧
    (A ≠ [] → ∃ t, exec (.fclass g ty d a) s = .next t ∧ ∃ k : Nat → Nat, (∀ l, k l < 10) ∧
      FpLands s c 4 A [(d.toNat, fun l => BitVec.twoPow 32 (k l))] (fun _ => 0) t ∧
      ∀ l, match (fpFmt ty.toNat).decode (el a l) with
        | .nan sig => k l = if sig then 8 else 9
        | .inf neg => k l = if neg then 0 else 7
        | .num neg m _ _ => k l = if m = 0 then (if neg then 3 else 4)
            else if (fpFmt ty.toNat).isSub (el a l) then (if neg then 2 else 5) else (if neg then 1 else 6))

/-- R41 to R44, R51: rounding a value that a format holds gives its own encoding back, in every mode, with no flag and no
saturation. -/
def Sys2Proof.Claim.RoundingKeepsRepresentableValues : Prop :=
  ∀ f ∈ [f64, f32, f16, bf16, e4m3, e5m2, e2m3, e3m2, e2m1], ∀ (x mode rho : Nat) (sat : Bool), x < 2^f.w →
    (∃ neg m e, f.decode x = .num neg m e false) → f.round mode rho false sat (f.decode x) = ⟨x, 0, false⟩

/-- R58 to R65: the conversions in every active thread, where no enabled flag is raised and, for the instructions that name a slot, the
slot is legal. CVTR, BSCALE, BPACK and BUNPACK with an illegal slot raise FMTBAD instead (`Claim.OperandFaultsEnterTheHandler`). Which
slots are legal is read from R50 and R62 as log entry 29 says. That a home wave written whole from uniform sources has one result, under
the FPCTL and the random bits of its home lane 0, is the model's choice (log entry 28), and those bits are free (log entry 8). -/
def Sys2Proof.Claim.ConversionResults : Prop :=
  ∀ (s : State) (c : Issue) (g : Guard) (d : RegCode) (a b : Src) (i : BitVec 6) (f : BitVec 1) (k : BitVec 3), s.cur = some c →
    let A := act s c g
    let st := (cvtTypes i.toNat).1
    let dt := (cvtTypes i.toNat).2
    let sl := slotOf s c k.toNat
    let rho := fun l => (Config.rho (s.fresh + 1) (l % 32) 0).toNat
    let x := fun l => if st.width = 64 then (val64 s c a l).toNat else (val s c a l).toNat
    let y := fun l => (val s c b l).toNat % 256
    let old := fun l => f32.decode (reg s c d.toNat l).toNat
    let n := elemWidth (slotElem sl)
    let cvtRegs := fun (r : Nat → Nat × Nat) => if dt.width = 64
      then [(d.toNat, fun l => lo (BitVec.ofNat 64 (r l).1)), (d.toNat + 1, fun l => hi (BitVec.ofNat 64 (r l).1))]
      else [(d.toNat, fun l => lo (BitVec.ofNat 64 (r l).1))]
    let R := fun (i : Instr) (lat : Nat) (r : Nat → Nat × Nat) (regs : (Nat → Nat × Nat) → List (Nat × (Nat → Word))) =>
      A ≠ [] → NoTrap s c A (fun l => ⟨0, (r l).2⟩) →
      ∃ t, exec i s = .next t ∧ FpLands s c lat A (regs r) (fun l => (r l).2) t
    let one := fun (r : Nat → Nat × Nat) => [(d.toNat, fun l => BitVec.ofNat 32 (r l).1)]
    let lat := if st.width = 64 ∨ dt.width = 64 then 8 else 4
    let q := rep s c A (st.width == 64) [a]
    R (.cvt g f d a i) lat (fun l' =>
      let l := q l'
      let m := fpRound (s.fpctl c.wg l) (cvtModeIx st dt)
      convert st dt m 0 (f == 1) (cvtFlush (s.fpctl c.wg l) st) (cvtFlush (s.fpctl c.wg l) dt) (x l)) cvtRegs ∧
    (slotRound sl < 5 → R (.cvtr g k d a i) lat (fun l => convert st dt (slotRound sl) (rho (q l)) (slotSat sl) false false (x (q l))) cvtRegs) ∧
    (blockSlotOk sl = true →
      (∃ t, exec (.bscaleRead g d a k) s = .next t ∧ Lands s c 8 A [(d.toNat, fun l => BitVec.ofNat 32 (blockScale
        (emaxOf (slotElem sl)) ((blockOf sl A l).map fun q => f32.decode (val s c a q).toNat)))] [] t) ∧
      R (.bscaleWrite g d a k) 6 (fun l => scaleTo32 sl (rho l) ((val s c a l).toNat % 256) (old l)) one ∧
      (let q := fun l => quantise (slotElem sl) (slotRound sl) (rho l) (slotSat sl) (f32.decode (val s c a l).toNat) (y l)
       let block := sumNat (A.map fun l => (q l).bits * 2^(n * (l % 32)))
       R (.bpack g k d a b) 12 (fun l => (if l % 32 < n then block / 2^(32 * (l % 32)) % 2^32 else 0, (q l).flags)) one) ∧
      (let block := sumNat ((A.filter fun l => decide (l % 32 < n)).map fun l => (val s c a l).toNat * 2^(32 * (l % 32)))
       R (.bunpack g k d a b) 8 (fun l =>
         scaleTo32 sl (rho l) (y l) (elemVal (slotElem sl) (block / 2^(n * (l % 32)) % 2^n))) one))

/-! Control flow, faults and traps (R82 to R92, R317 to R347). -/

namespace Sys2Proof.Claim

/-- The state an issue leaves when it changes only the threads of a list. -/
def Moves (s : State) (c : Issue) (ts : List Nat) (f : Nat → Thread → Thread) (t : State) : Prop :=
  t = onThreads { s with fresh := s.fresh + 1 } c.wg ts f

/-- The target of a relative branch: the word's own address plus four times the signed offset. -/
def target (c : Issue) (o : BitVec 21) : CodeAddr := BitVec.ofInt 48 (c.addr.toNat + 4 * o.toInt)

/-- A branch: the threads of the bundle are candidates again from the fourth clk on, those in `taken` at their target, the others
at the next header. -/
def branched (s : State) (taken : Nat → Option CodeAddr) (l : Nat) (th : Thread) : Thread :=
  match taken l with
  | some a => { th with pc := a, mid := none, notBefore := s.clk + 4 }
  | none => { th with notBefore := s.clk + 4 }

/-- The trap registers and the place of a thread that has entered the handler (R323): `cls` names the clause word to resume
after. -/
def Entered (th : Thread) (vec : CodeAddr) (cause : Nat) (addr pc cls : Word64) (clk : Nat) (th' : Thread) : Prop :=
  th' = { th with
    priv := true, pc := vec, mid := none, meet := none, st := .ready, since := clk, notBefore := clk, wake := none
    trap := { th.trap with
      cause := BitVec.ofNat 32 cause, addr := addr, pc := pc, cls := cls
      meet := (match th.meet with
        | some a => BitVec.ofNat 64 (2^63 + a.toNat)
        | none => 0)
      link := th.link.setWidth 64, pred := (th.preds &&& 0xFE).setWidth 32 } }

/-- The handler of a thread's world (R326). -/
def vector (s : State) (w : Workgroup) : Nat := if w.secure then (s.ctx w.ctx).desc.trapvecs else (s.ctx w.ctx).desc.trapvec

/-- Threads that enter a handler at once when they fault: their workgroup stands in the state, the handler's address is not 0,
and each is at program level with no register or predicate write outstanding. -/
def CanTrap (s : State) (c : Issue) (w : Workgroup) (vec : Nat) (ls : List Nat) : Prop :=
  s.wg? c.wg = some w ∧ c.tids.Nodup ∧ vec ≠ 0 ∧
  ∀ l ∈ ls, s.outstanding c.wg l = false ∧ ∃ th : Thread, w.threads[l]? = some th ∧ th.priv = false

/-- TRAPCLS for the issuing word: bit 63, its index in bits 51:48, its header's address. -/
def clsWord (c : Issue) : Word64 := BitVec.ofNat 64 (2^63 + c.idx % 16 * 2^48 + c.hdr.toNat)

/-- Every thread of a list has entered the handler at `vec` with these trap registers, and is in no bundle. -/
def AllEntered (s : State) (c : Issue) (w : Workgroup) (ls : List Nat) (vec : Nat) (cause : Nat) (addr : Nat → Word64)
    (pc cls : Word64) (t : State) : Prop :=
  ∃ w', t.wg? c.wg = some w' ∧
    (∀ l ∈ ls, ∀ th : Thread, w.threads[l]? = some th → ∃ th' : Thread, w'.threads[l]? = some th' ∧
      Entered th (BitVec.ofNat 48 vec) cause (addr l) pc cls s.clk th') ∧
    ∀ b ∈ t.bundles, b.wg = c.wg → ∀ l ∈ ls, l ∉ b.tids

/-- Nothing but the threads of a list and the bundles has changed. -/
def OthersKept (s : State) (c : Issue) (w : Workgroup) (ls : List Nat) (t : State) : Prop :=
  (∀ u, u ≠ c.wg → t.wg? u = s.wg? u) ∧
  (∃ w', t.wg? c.wg = some w' ∧ { w' with threads := w.threads } = w ∧ ∀ k, k ∉ ls → w'.threads[k]? = w.threads[k]?) ∧
  { t with wgs := s.wgs, bundles := s.bundles, fresh := s.fresh } = s

/-- The issuing word raises a fault in each of these threads, which are in the handler with the fault's registers. -/
def Faults (s : State) (c : Issue) (w : Workgroup) (i : Instr) (ls : List Nat) (code : Nat) (addr : Nat → Word64) : Prop :=
  ∃ t, exec i s = .next t ∧ AllEntered s c w ls (vector s w) code addr (c.addr.setWidth 64) (clsWord c) t

end Sys2Proof.Claim

/-- R83 to R86, R88: branches, calls, meet registers and NOP in a bundle. Targets of the register forms are aligned here; see
`Claim.OperandFaultsEnterTheHandler` for the others. Each changes only the threads named, and of them only pc, link or meet. -/
def Obligations.ControlFlowResults : Prop :=
  ∀ (s : State) (c : Issue) (g : Guard) (o : BitVec 21) (a : Src) (r d : RegCode), s.cur = some c →
    let A := act s c g
    let B := fun (i : Instr) (taken : Nat → Option CodeAddr) =>
      ∃ t, exec i s = .next t ∧ Moves s c c.tids (branched s taken) t
    let reg48 := fun (r : RegCode) (l : Nat) => ((reg s c (r.toNat + 1) l ++ reg s c r.toNat l : Word64)).setWidth 48
    let link := fun l => ((s.thread? c.wg l).map Thread.link).getD 0
    let x := fun l => c.addr + (val s c a l).signExtend 48
    let onA := fun (f : Nat → CodeAddr) (l : Nat) => if l ∈ A then some (f l) else none
    let aligned := fun (f : Nat → CodeAddr) => ∀ l ∈ A, (f l).toNat % 4 = 0
    (∃ t, exec (.nop g) s = .next t ∧ t = { s with fresh := s.fresh + 1 }) ∧
    B (.bra g o) (fun _ => some (target c o)) ∧
    B (.brp g o) (fun l => if pred s c g.pd.toNat l then some (target c o) else none) ∧
    B (.brn g o) (fun l => if pred s c g.pd.toNat l then none else some (target c o)) ∧
    (aligned x → B (.brx g a) (onA x)) ∧ (aligned (reg48 r) → B (.jmp g r) (onA (reg48 r))) ∧
    (aligned link → B (.ret g) (onA link)) ∧
    (∃ t, exec (.call g o) s = .next t ∧ Moves s c c.tids (fun l th =>
      let th' := branched s (onA fun _ => target c o) l th
      if l ∈ A then { th' with link := c.next } else th') t) ∧
    (aligned (reg48 r) → ∃ t t', exec (.callr g d r) s = .next t ∧
      Lands s c 4 A [(d.toNat, fun l => lo ((link l).setWidth 64)), (d.toNat + 1, fun l => hi ((link l).setWidth 64))] [] t' ∧
      t = onThreads t' c.wg c.tids fun l th =>
        let th' := branched s (onA (reg48 r)) l th
        if l ∈ A then { th' with link := c.next } else th') ∧
    (∃ t, exec (.meet g o) s = .next t ∧ Moves s c A (fun _ th => { th with meet := some (target c o) }) t) ∧
    (∃ t, exec (.unmeet g) s = .next t ∧ Moves s c A (fun _ th => { th with meet := none }) t)

/-- R323, R340: TRAP takes SOFTWARE in every active thread: TRAPCAUSE 0x12, TRAPADDR k, TRAPPC the next header's address or word,
TRAPCLS 0; nothing else of the machine changes. -/
def Sys2Proof.Claim.TrapEntersTheHandler : Prop :=
  ∀ (s : State) (c : Issue) (w : Workgroup) (g : Guard) (k : BitVec 6), s.cur = some c →
    CanTrap s c w (vector s w) (act s c g) →
    ∃ t, exec (.trap g k) s = .next t ∧
      AllEntered s c w (act s c g) (vector s w) 0x12 (fun _ => k.setWidth 64) (c.next.setWidth 64) 0 t ∧
      OthersKept s c w (act s c g) t

/-- R340: SCALL enters control level at SCALLVEC with TRAPCAUSE 0x8000_0000 + k, whatever results are outstanding. -/
def Sys2Proof.Claim.ScallEntersControlLevel : Prop :=
  ∀ (s : State) (c : Issue) (w : Workgroup) (g : Guard) (k : BitVec 6), s.cur = some c → s.wg? c.wg = some w → c.tids.Nodup →
    (s.ctx w.ctx).desc.scallvec ≠ 0 → (∀ l ∈ act s c g, ∃ th : Thread, w.threads[l]? = some th ∧ th.priv = false) →
    ∃ t, exec (.scall g k) s = .next t ∧
      AllEntered s c w (act s c g) (s.ctx w.ctx).desc.scallvec (2^31 + k.toNat) (fun _ => k.setWidth 64) (c.next.setWidth 64) 0 t ∧
      OthersKept s c w (act s c g) t

/-- R336, R340: DBRK does nothing while DBGCTL.dbrken is 0; with it set and DBGCTL.halt-on-event clear it takes DEBUG, with the word after
it as the return point. Inside a clause TRAPPC is DBRK's own address, which is the model's choice (log entry 31). -/
def Sys2Proof.Claim.DbrkTakesDebugWhenEnabled : Prop :=
  ∀ (s : State) (c : Issue) (w : Workgroup) (g : Guard) (k : BitVec 6), s.cur = some c → s.wg? c.wg = some w →
    ((s.ctx w.ctx).dbgctl.getLsbD 3 = false → exec (.dbrk g k) s = .next { s with fresh := s.fresh + 1 }) ∧
    ((s.ctx w.ctx).dbgctl.getLsbD 3 = true → (s.ctx w.ctx).dbgctl.getLsbD 0 = false → CanTrap s c w (vector s w) (act s c g) →
      ∃ t, exec (.dbrk g k) s = .next t ∧
        AllEntered s c w (act s c g) (vector s w) 0x13 (fun _ => k.setWidth 64) ((if c.last then c.next else c.addr).setWidth 64)
          (if c.last then 0 else BitVec.ofNat 64 (2^63 + (c.idx + c.len) % 16 * 2^48 + c.hdr.toNat)) t ∧
        OthersKept s c w (act s c g) t)

/-- R36, R84, R85, R92, R50, R62: an operand outside its range raises the entry's fault in the threads that hold it: a register branch to
an address that is no multiple of 4 raises ALIGN with the target, a register index REGBOUND with the index, and a slot that an instruction
may not use FMTBAD. That FMTBAD leaves TRAPADDR 0 is the model's choice (log entries 29, 30). -/
def Sys2Proof.Claim.OperandFaultsEnterTheHandler : Prop :=
  ∀ (s : State) (c : Issue) (w : Workgroup) (g : Guard) (a b : Src) (d r : RegCode) (i : BitVec 6) (k : BitVec 3), s.cur = some c →
    let A := act s c g
    let reg48 : Nat → CodeAddr := fun l => ((reg s c (r.toNat + 1) l ++ reg s c r.toNat l : Word64)).setWidth 48
    let link : Nat → CodeAddr := fun l => ((s.thread? c.wg l).map Thread.link).getD 0
    let x : Nat → CodeAddr := fun l => c.addr + (val s c a l).signExtend 48
    let off := fun (f : Nat → CodeAddr) => A.filter fun l => decide ((f l).toNat % 4 ≠ 0)
    let out := A.filter fun l => decide (w.regs ≤ (val s c a l).toNat ∨ (val s c a l).toNat = 63)
    let sl := slotOf s c k.toNat
    (CanTrap s c w (vector s w) (off x) → Faults s c w (.brx g a) (off x) 0x0A fun l => (x l).setWidth 64) ∧
    (CanTrap s c w (vector s w) (off reg48) → Faults s c w (.jmp g r) (off reg48) 0x0A fun l => (reg48 l).setWidth 64) ∧
    (CanTrap s c w (vector s w) (off reg48) → Faults s c w (.callr g d r) (off reg48) 0x0A fun l => (reg48 l).setWidth 64) ∧
    (CanTrap s c w (vector s w) (off link) → Faults s c w (.ret g) (off link) 0x0A fun l => (link l).setWidth 64) ∧
    (CanTrap s c w (vector s w) out → Faults s c w (.movx g d a) out 0x03 fun l => (val s c a l).setWidth 64) ∧
    (CanTrap s c w (vector s w) out → Faults s c w (.movxw g a b) out 0x03 fun l => (val s c a l).setWidth 64) ∧
    (CanTrap s c w (vector s w) A → 5 ≤ slotRound sl → Faults s c w (.cvtr g k d a i) A 0x07 fun _ => 0) ∧
    (CanTrap s c w (vector s w) A → blockSlotOk sl = false →
      ∀ j ∈ [.bscaleRead g d a k, .bscaleWrite g d a k, .bpack g k d a b, .bunpack g k d a b], Faults s c w j A 0x07 fun _ => 0)

/-- R98, R323: a thread in which an FADD, FSUB or FMUL raises an enabled flag waits to take FPTRAP at the instruction, with TRAPADDR 0,
until its flags have been merged into its FPCTL in the clk in which the result would have landed; its destination is not written. That
each lane of a home wave with one uniform result traps by its own enables, on the flags of that result, is the model's choice (log entry
28). -/
def Sys2Proof.Claim.EnabledFlagTakesFptrap : Prop :=
  ∀ (s : State) (c : Issue) (w : Workgroup) (g : Guard) (ty : BitVec 3) (d : RegCode) (a b : Src), s.cur = some c →
    let R := fun (i : Instr) (f : FpEnv → Nat → Nat → Nat × Nat) =>
      let one := fun l => fpMap (fpEnv (s.fpctl c.wg l) ty.toNat) (fun e v => f e (v.getD 0 0) (v.getD 1 0)) [fval s c ty a l, fval s c ty b l]
      let res := fun l => one (rep s c (act s c g) (ty == 1) [a, b] l)
      let bad := (act s c g).filter fun l => (s.fpctl c.wg l).toNat / 2^8 % 32 &&& (res l).flags != 0
      s.wg? c.wg = some w → ∃ t w', exec i s = .next t ∧ t.wg? c.wg = some w' ∧
        ∀ l ∈ bad, (∀ th : Thread, w.threads[l]? = some th → w'.threads[l]? = some { th with
            pc := c.addr, mid := some (c.hdr, c.idx), st := .trapping ⟨0x09, 0, c.addr, clsWord c⟩, wake := none }) ∧
          (∃ p ∈ t.pend, p.wg = c.wg ∧ p.due = s.clk + (if ty = 1 then 12 else 6) ∧ p.regs = [] ∧ (l, BitVec.ofNat 5 (res l).flags) ∈ p.flags) ∧
          ∀ p ∈ t.pend, p ∉ s.pend → ∀ r, p.laneWrite c.wg (l / 32) r (l % 32) = none
    R (.fadd g ty d a b) fadd1 ∧ R (.fsub g ty d a b) fsub1 ∧ R (.fmul g ty d a b) fmul1

/-! System registers, returns, privilege, waits (R318 to R347, R364 to R368). -/

namespace Sys2Proof.Claim

/-- Nothing but the threads of a list and the bundles of their workgroup has changed, but that a result of no thread, with nothing to write,
may be in flight. -/
def OnlyFaults (s : State) (c : Issue) (w : Workgroup) (ls : List Nat) (t : State) : Prop :=
  (∀ u, u ≠ c.wg → t.wg? u = s.wg? u) ∧
  (∃ w', t.wg? c.wg = some w' ∧ { w' with threads := w.threads } = w ∧ ∀ k, k ∉ ls → w'.threads[k]? = w.threads[k]?) ∧
  (∀ b : Bundle, b.wg ≠ c.wg → b.tids ≠ [] → (b ∈ t.bundles ↔ b ∈ s.bundles)) ∧
  (t.pend = s.pend ∨ ∃ p : Pend, t.pend = s.pend ++ [p] ∧ p.tids = [] ∧ p.regs = [] ∧ p.preds = [] ∧ p.flags = [] ∧ p.sys = []) ∧
  { t with wgs := s.wgs, bundles := s.bundles, fresh := s.fresh, pend := s.pend, nextId := s.nextId } = s

/-- As `OthersKept`, but that a result with nothing to write may be in flight. -/
def RestKept (s t : State) : Prop :=
  { t with wgs := s.wgs, bundles := s.bundles, fresh := s.fresh, pend := s.pend, nextId := s.nextId } = s

/-- The threads of a list block on `x` until `wake`, and leave their bundle; nothing else changes. -/
def Blocks (s : State) (c : Issue) (w : Workgroup) (ls : List Nat) (x : Nat → Wait) (wake : Option Nat) (t : State) : Prop :=
  OthersKept s c w ls t ∧ (∀ b ∈ t.bundles, b.wg = c.wg → ∀ l ∈ ls, l ∉ b.tids) ∧
  ∃ w', t.wg? c.wg = some w' ∧ ∀ l ∈ ls, ∀ th : Thread, w.threads[l]? = some th →
    w'.threads[l]? = some { th with st := .blocked (x l), wake := wake }

/-- The system registers of R320: number, whether 64 bits wide, and the value a thread reads. -/
def sysTable (s : State) (w : Workgroup) : List (Nat × Bool × (Nat → Thread → Word64)) :=
  let n64 := BitVec.ofNat 64
  let x := s.ctx w.ctx
  let sig := ((w.redun.bind fun r => r.sigs.lookup r.point).getD 0).toNat
  [(0x00, false, fun l _ => n64 l), (0x01, false, fun _ _ => n64 w.g), (0x02, false, fun _ _ => n64 (w.core % 32)),
   (0x03, false, fun _ _ => n64 (w.core / 32)), (0x04, false, fun l _ => n64 (l % 32)), (0x05, false, fun _ _ => n64 w.ctx),
   (0x06, false, fun _ _ => if w.secure then 1 else 0), (0x07, false, fun _ th => if th.priv then 1 else 0),
   (0x08, false, fun _ th => n64 th.fpctl.toNat), (0x09, true, fun _ _ => n64 w.ydeadline),
   (0x0A, true, fun _ _ => (s.lrOf w).param), (0x0B, true, fun _ _ => n64 s.clk),
   (0x0C, true, fun _ th => (th.task.bind fun e => (x.tqs[e.queue]?).map TaskQueue.stencil).getD 0),
   (0x10, false, fun _ th => n64 th.trap.cause.toNat), (0x11, true, fun _ th => th.trap.addr), (0x12, true, fun _ th => th.trap.pc),
   (0x13, true, fun _ th => th.trap.cls), (0x14, true, fun _ th => th.trap.meet), (0x15, true, fun _ th => th.trap.link),
   (0x16, false, fun _ th => n64 th.trap.pred.toNat), (0x17, true, fun _ th => th.trap.scr.getD 0 0),
   (0x18, true, fun _ th => th.trap.scr.getD 1 0), (0x19, true, fun _ th => th.trap.scr.getD 2 0),
   (0x1A, true, fun _ th => th.trap.scr.getD 3 0), (0x20, false, fun _ _ => n64 x.dbgctl.toNat), (0x21, true, fun _ _ => x.dbgstep),
   (0x22, true, fun _ _ => x.dbgbp.getD 0 0), (0x23, true, fun _ _ => x.dbgbp.getD 1 0), (0x24, true, fun _ _ => x.dbgbp.getD 2 0),
   (0x25, true, fun _ _ => x.dbgbp.getD 3 0), (0x28, false, fun _ _ => n64 (sig % 2^32)), (0x29, false, fun _ _ => n64 (sig / 2^32)),
   (0x2A, true, fun _ _ => n64 x.wdcount)]

/-- The registers an MTS writes that belong to the thread, with the bits that take the value (R320). -/
def mtsTable : List (Nat × (Thread → Word64 → Thread)) :=
  let trap := fun (f : TrapRegs → Word64 → TrapRegs) (th : Thread) (v : Word64) => { th with trap := f th.trap v }
  [(0x08, fun th v => { th with fpctl := lo v &&& 0x0FFF1F1F }),
   (0x10, trap fun r v => { r with cause := lo v &&& 0x800000FF }), (0x11, trap fun r v => { r with addr := v }),
   (0x12, trap fun r v => { r with pc := v &&& 0xFFFFFFFFFFFF }), (0x13, trap fun r v => { r with cls := v &&& 0x800FFFFFFFFFFFFF }),
   (0x14, trap fun r v => { r with meet := v &&& 0x8000FFFFFFFFFFFF }), (0x15, trap fun r v => { r with link := v }),
   (0x16, trap fun r v => { r with pred := lo v &&& 0xFE }), (0x17, trap fun r v => { r with scr := r.scr.set 0 v }),
   (0x18, trap fun r v => { r with scr := r.scr.set 1 v }), (0x19, trap fun r v => { r with scr := r.scr.set 2 v }),
   (0x1A, trap fun r v => { r with scr := r.scr.set 3 v })]

/-- The registers an MTS writes that belong to the context, with the bits that take the value (R320, R335 to R337). -/
def debugTable : List (Nat × (Context → Word64 → Context)) :=
  let bp := fun i (x : Context) (v : Word64) => { x with dbgbp := x.dbgbp.set i (v &&& 0xFFFFFFFFFFFC) }
  [(0x20, fun x v => { x with dbgctl := ((lo v &&& 0xFB) ||| (x.dbgctl &&& 0x104)) &&& ~~~ 4 }),
   (0x21, fun x v => { x with
      dbgstep := v &&& 0xFFFFFFF, dbgctl := if v.toNat / 2^24 % 16 = 0 then x.dbgctl else x.dbgctl &&& ~~~ 0x100 }),
   (0x22, bp 0), (0x23, bp 1), (0x24, bp 2), (0x25, bp 3)]

/-- The instructions that only control level may execute (R318): at program level each raises PERMISSION. -/
def privileged (g : Guard) (d : RegCode) (a : Src) (r : RegCode) (q : PredCode) : List Instr :=
  ([.mfs g d 0x10, .mfs g d 0x20, .mfs g d 0x2A, .mts g a 0x10, .mts g a 0x20, .eret g, .sret g, .tlbi g r 0, .tlbi g r 1,
   .ctxsw g d a 0, .ctxsw g d a 1, .ctxsw g d a 2, .errq g d a 0, .errq g d a 4, .errclr g a, .errinj g r 0, .errinj g r 1,
   .errinj g r 3, .errinj g r 4] : List Instr) ++
  ([.hmq g d a 0, .hmq g d a 9, .dieq g d a, .asgn g d a 0, .asgn g d a 1, .keyi g r, .keyroll g q a 0, .keyroll g q a 1,
   .quar g a 0, .quar g a 1] : List Instr)

/-- The instructions of major 0x7F, which also need the secure world (R377). -/
def rootOnly (g : Guard) (d : RegCode) (a : Src) (r : RegCode) (q : PredCode) : List Instr :=
  [.hmq g d a 0, .dieq g d a, .asgn g d a 0, .asgn g d a 1, .keyi g r, .keyroll g q a 0, .keyroll g q a 1, .quar g a 0, .quar g a 1]

end Sys2Proof.Claim

/-- R320, R321: MFS writes the table's value of the register into the destination, a pair for the 64-bit registers, 4 clk later;
registers marked control only where every active thread is at control level. No MTS is on its way and the workgroup is no copy
of a pair. -/
def Sys2Proof.Claim.SystemRegisterReads : Prop :=
  ∀ (s : State) (c : Issue) (w : Workgroup) (g : Guard) (d : RegCode), s.cur = some c → s.wg? c.wg = some w → w.redun = none →
    (∀ p ∈ s.pend, p.sys = []) → ∀ r ∈ sysTable s w, (0x10 ≤ r.1 → ∀ l ∈ act s c g, ∃ th : Thread, w.threads[l]? = some th ∧ th.priv = true) →
      let v := fun l => ((w.threads[l]?).map (r.2.2 l)).getD 0
      ∃ t, exec (.mfs g d (BitVec.ofNat 6 r.1)) s = .next t ∧ Lands s c 4 (act s c g)
        (if r.2.1 then [(d.toNat, fun l => lo (v l)), (d.toNat + 1, fun l => hi (v l))] else [(d.toNat, fun l => lo (v l))]) [] t

/-- R320, R321, R335 to R337: MTS of a register of the thread takes effect 4 clk later, when its result lands, in the bits the table gives; the
thread's other fields, the other threads and memory stand. So do MTS of DBGCTL, DBGSTEP and DBGBP0 to 3 in the context: DBGCTL keeps halted
and stepdone, a step count other than 0 clears stepdone, halt = 0 clears halted, and halt = 1 halts the context, whose bundles dissolve. -/
def Sys2Proof.Claim.SystemRegisterWrites : Prop :=
  (∀ (s : State) (c : Issue) (w : Workgroup) (g : Guard) (a : Src) (n : BitVec 6), s.cur = some c → s.wg? c.wg = some w →
    (0x10 ≤ n.toNat → ∀ l ∈ act s c g, ∃ th : Thread, w.threads[l]? = some th ∧ th.priv = true) →
    ∃ (t : State) (p : Pend), exec (.mts g a n) s = .next t ∧ t = { s with fresh := s.fresh + 1, nextId := s.nextId + 1, pend := s.pend ++ [p] } ∧
      p.due = s.clk + 4 ∧ p.wg = c.wg ∧ p.ctr = none ∧ p.regs = [] ∧ p.preds = [] ∧
      p.sys = (act s c g).map fun l => (l, n.toNat, if Machine.sysWide n.toNat then val64 s c a l else (val s c a l).setWidth 64)) ∧
  (∀ (s : State) (w : Workgroup) (p : Pend) (l : Nat) (th : Thread) (v : Word64), s.nextLanding false = some p →
    p.regs = [] → p.preds = [] → p.flags = [] → p.poison = [] → p.late = none → p.makes = [] → p.ctr = none → s.wg? p.wg = some w →
    w.threads[l]? = some th → ∀ r ∈ mtsTable, p.sys = [(l, r.1, v)] →
    ∃ t w', exec .resultLands s = .next t ∧ t.wg? p.wg = some w' ∧ w'.threads[l]? = some (r.2 th v) ∧
      (∀ k, k ≠ l → w'.threads[k]? = w.threads[k]?) ∧ { w' with threads := w.threads } = w ∧
      { t with wgs := s.wgs, pend := s.pend } = s ∧ t.pend = s.pend.filter (·.id != p.id)) ∧
  (∀ (s : State) (w : Workgroup) (p : Pend) (l : Nat) (v : Word64), s.nextLanding false = some p →
    p.regs = [] → p.preds = [] → p.flags = [] → p.poison = [] → p.late = none → p.makes = [] → p.ctr = none → s.wg? p.wg = some w →
    w.ctx < s.contexts.length →
    (∀ r ∈ debugTable, (r.1 = 0x20 → v.getLsbD 1 = false) → p.sys = [(l, r.1, v)] →
      ∃ t, exec .resultLands s = .next t ∧ t.ctx w.ctx = r.2 (s.ctx w.ctx) v ∧ (∀ n, n ≠ w.ctx → t.ctx n = s.ctx n) ∧
        { t with contexts := s.contexts, pend := s.pend } = s) ∧
    (v.getLsbD 1 = true → p.sys = [(l, 0x20, v)] →
      ∃ t, exec .resultLands s = .next t ∧
        (t.ctx w.ctx).dbgctl = ((lo v &&& 0xFB) ||| ((s.ctx w.ctx).dbgctl &&& 0x104)) ||| 6 ∧
        ∀ b ∈ t.bundles, ∀ x, s.wg? b.wg = some x → x.ctx ≠ w.ctx))

/-- R341: ERET and SRET in threads at control level, with no wait that WATCHDOG interrupted. Both go back to program level with
meet and link restored; ERET also restores the predicates, p0 true, and resumes at the clause word that TRAPCLS names where its
bit 63 is set, else at TRAPPC; SRET goes to TRAPPC and keeps the predicates. -/
def Sys2Proof.Claim.ReturnsRestoreTheThread : Prop :=
  ∀ (s : State) (c : Issue) (w : Workgroup) (g : Guard) (eret : Bool), s.cur = some c → s.wg? c.wg = some w → c.tids.Nodup →
    (∀ l ∈ act s c g, ∃ th : Thread, w.threads[l]? = some th ∧ th.priv = true ∧ th.wd = none ∧ th.trap.cause.toNat % 256 ≠ 0x10) →
    ∃ t, exec (if eret then .eret g else .sret g) s = .next t ∧ OthersKept s c w (act s c g) t ∧
      ∃ w', t.wg? c.wg = some w' ∧ ∀ l ∈ act s c g, ∀ th : Thread, w.threads[l]? = some th → ∃ th' : Thread, w'.threads[l]? = some th' ∧
        let h : CodeAddr := th.trap.cls.setWidth 48
        let i := th.trap.cls.toNat / 2^48 % 16
        let mid := eret && th.trap.cls.getLsbD 63
        th' = { th with
          priv := false, meet := if th.trap.meet.getLsbD 63 then some (th.trap.meet.setWidth 48) else none
          link := th.trap.link.setWidth 48, preds := if eret then (th.trap.pred.setWidth 8 &&& 0xFE) ||| 1 else th.preds
          pc := if mid then h + BitVec.ofNat 48 (4 * (i + 1)) else th.trap.pc.setWidth 48
          mid := if mid then some (h, i) else none
          skipBp := eret, since := s.clk, st := if mid then .ready else th.st }

/-- R318: each privileged instruction raises PERMISSION with TRAPADDR 0 in threads at program level and does nothing else: of the machine
only those threads and the bundles of their workgroup change. That TRAPADDR is 0 is the model's choice, as no rule names it (log entry
30). -/
def Sys2Proof.Claim.PrivilegedInstructionsFaultAtProgramLevel : Prop :=
  ∀ (s : State) (c : Issue) (w : Workgroup) (g : Guard) (d r : RegCode) (a : Src) (q : PredCode), s.cur = some c →
    CanTrap s c w (vector s w) (act s c g) → ∀ i ∈ privileged g d a r q,
      ∃ t, exec i s = .next t ∧ OnlyFaults s c w (act s c g) t ∧
        AllEntered s c w (act s c g) (vector s w) 0x05 (fun _ => 0) (c.addr.setWidth 64) (clsWord c) t

/-- R324, R377: a fault at control level is unhandled. Here the fault is WORLD, which the instructions of major 0x7F raise in the
non-secure world: the context goes from RUNNING to SAVING, and asks no workgroup to yield; STATUS holds the fault's code, core, slot and thread and stands so in
the descriptor in memory, and no bundle of the context is left. -/
def Sys2Proof.Claim.UnhandledFaultStopsTheContext : Prop :=
  ∀ (s : State) (c : Issue) (w : Workgroup) (g : Guard) (d r : RegCode) (a : Src) (q : PredCode) (l : Nat) (ls : List Nat),
    s.cur = some c → s.wg? c.wg = some w → w.secure = false → w.ctx < s.contexts.length → (s.ctx w.ctx).state = .running → s.mem.wf = true →
    act s c g = l :: ls → c.tids.Nodup → (∀ k ∈ act s c g, s.outstanding c.wg k = false ∧ ∃ th : Thread, w.threads[k]? = some th ∧ th.priv = true) →
    ∀ i ∈ rootOnly g d a r q, ∃ t, exec i s = .next t ∧
      (t.ctx w.ctx).state = .saving ∧ (t.ctx w.ctx).saving = some ⟨true, ((s.ctx w.ctx).saving.map Saving.host).getD false⟩ ∧
      (∀ v ∈ t.wgs, v.ctx = w.ctx → v.yreq = false ∧ v.yielded = false) ∧
      (t.ctx w.ctx).status = (BitVec.ofNat 64 (0x06 * 2^8 + w.core * 2^16 + w.slot * 2^26 + l * 2^30) &&& ~~~ 0xFF) ||| 2 ∧
      t.mem.read (s.ctxtab.toNat + 256 * w.ctx + 0xA8) 8 = toBytes 8 (t.ctx w.ctx).status.toNat ∧
      ∀ b ∈ t.bundles, ∀ v, s.wg? b.wg = some v → v.ctx = w.ctx → False

/-- R364, R368, R332, R268: COMMIT, MIRF and YIELD block each active thread; COMMIT outside a copy of a pair, and
YIELD with no request pending, do nothing. -/
def Sys2Proof.Claim.WaitsBlockTheThread : Prop :=
  ∀ (s : State) (c : Issue) (w : Workgroup) (g : Guard) (r : RegCode) (q : PredCode), s.cur = some c → s.wg? c.wg = some w →
    let A := act s c g
    let noop := { s with fresh := s.fresh + 1 }
    (∃ t, exec (.mirf g q) s = .next t ∧ Blocks s c w A (fun _ => .mirf q.toNat) none t) ∧
    (w.redun = none → exec (.commit g) s = .next noop) ∧
    (∀ x, w.redun = some x → ∃ t, exec (.commit g) s = .next t ∧ Blocks s c w A (fun _ => .commit (x.point + 1)) none t) ∧
    ((s.lrOf w).yields = true → w.ydeadline.testBit 63 = false → exec (.yield g r) s = .next noop) ∧
    ((s.lrOf w).yields = true → w.ydeadline.testBit 63 = true →
      ∃ t, exec (.yield g r) s = .next t ∧
        Blocks s c w A (fun l => .yield (reg s c (r.toNat + 1) l ++ reg s c r.toNat l)) none t) ∧
    ((s.lrOf w).yields = false → CanTrap s c w (vector s w) A → Faults s c w (.yield g r) A 0x01 fun _ => 0)

/-- R345: TLBI in threads at control level whose stores are performed writes the core's dirty L1 sectors back and drops the context's entries
(k = 0), or those that hold the page of the elected thread's address. Where an access or command issued before then still holds such a
translation, the word issues again until none does; the later tries change nothing. Which page an access under way holds is the model's
choice (log entry 67). -/
def Sys2Proof.Claim.TlbiDropsTranslations : Prop :=
  ∀ (s : State) (c : Issue) (w : Workgroup) (g : Guard) (r : RegCode) (k : BitVec 1), s.cur = some c → s.wg? c.wg = some w →
    let A := act s c g
    let s0 := { s with fresh := s.fresh + 1 }
    let page := if k = 0 then none else some ((reg s c (r.toNat + 1) (elect A) ++ reg s c r.toNat (elect A) : Word64).toNat % 2^48)
    let s1 := s0.l1Release c.core
    let drops := fun (l : List TlbEntry) =>
      ∀ e, e ∈ l ↔ e ∈ s1.tlb ∧ ¬ (e.ctx = w.ctx ∧ ∀ p, page = some p → p / e.size = e.va / e.size)
    A ≠ [] → (∀ l ∈ A, ∃ th : Thread, w.threads[l]? = some th ∧ th.priv = true) →
    ((s.bundle? c.bundle).bind (·.tlbi) = none → s0.groupReleased c.wg A = true → (∀ l ∈ A, s0.remoteDone c.wg l = true) →
      (s1.tlbiWaits w.ctx page s1.nextId = false →
        ∃ t, exec (.tlbi g r k) s = .next t ∧ t = { s1 with tlb := t.tlb } ∧ drops t.tlb) ∧
      (s1.tlbiWaits w.ctx page s1.nextId = true → ∀ b, s1.bundle? c.bundle = some b →
        ∃ t, exec (.tlbi g r k) s = .next t ∧ drops t.tlb ∧ t.mem = s1.mem ∧
          t.bundle? c.bundle = some { b with idx := c.idx, notBefore := s.clk + 1, tlbi := some s1.nextId })) ∧
    ∀ m, (s.bundle? c.bundle).bind (·.tlbi) = some m →
      (s0.tlbiWaits w.ctx page m = false → exec (.tlbi g r k) s = .next (s0.updBundle c.bundle fun b => { b with tlbi := none })) ∧
      (s0.tlbiWaits w.ctx page m = true → ∃ t, exec (.tlbi g r k) s = .next t ∧ t.tlb = s.tlb ∧ t.mem = s.mem)

/-! Redundancy, error banks, identity and links (R348 to R388). -/

namespace Sys2Proof.Claim

/-- A result whose value is sampled when it lands: one entry in flight for these threads, nothing else. -/
def LandsLate (s : State) (c : Issue) (ts : List Nat) (v : Late) (d : RegCode) (t : State) : Prop :=
  ∃ p : Pend, t = { s with fresh := s.fresh + 1, nextId := s.nextId + 1, pend := s.pend ++ [p] } ∧ s.clk < p.due ∧ p.wg = c.wg ∧
    p.tids = ts ∧ p.ctr = none ∧ p.late = some (v, d.toNat) ∧ p.preds = [] ∧ p.flags = [] ∧ p.sys = [] ∧ p.poison = []

/-- The issuing threads may act as the root: control level, secure world. -/
def Root (s : State) (c : Issue) (w : Workgroup) (ts : List Nat) : Prop :=
  s.wg? c.wg = some w ∧ w.secure = true ∧ ts ≠ [] ∧ ∀ l ∈ ts, ∃ th : Thread, w.threads[l]? = some th ∧ th.priv = true

end Sys2Proof.Claim

/-- R365, R366, R378: SIGQ reads the thread's signature, the last workgroup signature or the point and rollback counts; ERRQ, HMQ and
DIEQ put a result in flight whose value is sampled as it lands, and the value that lands is the bank's word, the hallmark record's
word or the die's state word. -/
def Sys2Proof.Claim.StatusQueries : Prop :=
  ∀ (s : State) (c : Issue) (w : Workgroup) (g : Guard) (d : RegCode) (a : Src), s.cur = some c → s.wg? c.wg = some w →
    let A := act s c g
    let die := (val s c a (elect A)).toNat % 128
    (∀ k : BitVec 2, let v : Nat → Word64 := fun l =>
        match w.redun with
        | none => 0
        | some r => if k = 0 then ((w.threads[l]?).map Thread.sig).getD 0 else if k = 1 then (r.sigs.lookup r.point).getD 0
            else BitVec.ofNat 64 (r.point + 2^32 * r.rollbacks)
      ∃ t, exec (.sigq g d k) s = .next t ∧ Lands s c 4 A [(d.toNat, fun l => lo (v l)), (d.toNat + 1, fun l => hi (v l))] [] t) ∧
    (A ≠ [] → (∀ l ∈ A, ∃ th : Thread, w.threads[l]? = some th ∧ th.priv = true) → ∀ k : BitVec 3,
      ∃ t, exec (.errq g d a k) s = .next t ∧ LandsLate s c A (.errq (A.map fun l => (l, (val s c a l).toNat % 128)) k.toNat) d t) ∧
    (Root s c w A → (∀ k : BitVec 4, ∃ t, exec (.hmq g d a k) s = .next t ∧ LandsLate s c A (.hmq die k.toNat) d t) ∧
      ∃ t, exec (.dieq g d a) s = .next t ∧ LandsLate s c A (.dieq die) d t) ∧
    (∀ p, (p.late = some (.dieq die, d.toNat) → s.lateWrites p = regWrites p.tids d.toNat (fun _ =>
        match s.dies[die]? with
        | none => 0
        | some x => BitVec.ofNat 32 (x.state.code * 2^29 + (if die < 64 then sumNat ((List.range 4).map fun q =>
            ((s.link? (4 * die + q)).map fun k => k.state.code).getD 0 * 4^q) else 0) * 2^16 + x.cause * 2^8 + x.passes)) noImg) ∧
      (∀ k, p.late = some (.hmq die k, d.toNat) → s.lateWrites p = pairWrites p.tids d.toNat (fun _ =>
        match s.dies[die]? with
        | none => 0
        | some x => if !x.ever then 0 else if k < 9 then Config.hallmark die k else if die < 64 then 0xA100 else 0xA101) noImg2) ∧
      (∀ banks k, p.late = some (.errq banks k, d.toNat) → s.lateWrites p = pairWrites p.tids d.toNat (fun l =>
        match s.banks[(banks.lookup l).getD 127]? with
        | none => 0
        | some b => if k = 0 then b.w0 else if k = 1 then b.w1 else if k = 2 then b.w2 else if k = 3 then b.w3
            else BitVec.ofNat 64 (b.corrected * 2^32 + b.overflow)) noImg2))

/-- R361, R362, R366: ERRCLR at control level sets every word of the banks that the active threads name to 0, before the errors that
reach them in the same clk, if any, are recorded, with vector 1 for a new uncorrectable record; every other bank, every register and memory
stand. -/
def Sys2Proof.Claim.ErrclrClearsTheNamedBanks : Prop :=
  ∀ (s : State) (c : Issue) (w : Workgroup) (g : Guard) (a : Src), s.cur = some c → s.wg? c.wg = some w →
    (∀ l ∈ act s c g, ∃ th : Thread, w.threads[l]? = some th ∧ th.priv = true) →
    let named := (act s c g).map fun l => (val s c a l).toNat % 128
    let anew : Nat → Bank × Bool := fun b => (s.errs.filter (·.bank == b)).foldl (fun x e =>
      ((x.1.record e.w0 e.info s.clk).1, x.2 || (x.1.record e.w0 e.info s.clk).2)) (.zero, false)
    ∃ t, exec (.errclr g a) s = .next t ∧ { t with banks := s.banks, irqstat := s.irqstat, fresh := s.fresh } = s ∧
      t.banks.length = s.banks.length ∧
      (∀ b, b < s.banks.length → t.banks[b]? = if b ∈ named then some (anew b).1 else s.banks[b]?) ∧
      t.irqstat = if named.any (fun b => (anew b).2) then s.irqstat ||| 2 else s.irqstat

/-- R362: an uncorrectable error takes a bank whose record is absent or corrected, and counts as overflow where an uncorrectable one
stands; a corrected error adds to the count and takes only an empty bank. Of errors of one clk the one with the lower unit code, then
address, is the one recorded. Counts stay at 2^32 − 1. -/
def Sys2Proof.Claim.ErrorRecordSurvival : Prop :=
  ∀ (b : Bank) (w0 clk : Nat) (e : ErrInfo),
    let r := b.record w0 e clk
    let stands := b.w0.getLsbD 63
    let new := BitVec.ofNat 64 w0
    let unit := b.w0.toNat / 2^48 % 256
    let first := b.w2.toNat = clk % 2^64 ∧ (e.unit < unit ∨ (e.unit = unit ∧ e.w1 % 2^52 < b.w1.toNat % 2^52))
    (e.ue = true → stands = true → b.w0.getLsbD 62 = true → r.2 = false ∧ r.1.corrected = b.corrected ∧
      r.1.overflow = (if b.overflow + 1 ≥ 2^32 then 2^32 - 1 else b.overflow + 1) ∧
      (¬ first → r.1.w0 = b.w0 ∧ r.1.w1 = b.w1 ∧ r.1.w2 = b.w2 ∧ r.1.w3 = b.w3) ∧
      (first → r.1.w0 = new ∧ r.1.w1 = BitVec.ofNat 64 e.w1 ∧ r.1.w2 = BitVec.ofNat 64 clk ∧ r.1.w3 = BitVec.ofNat 64 e.w3)) ∧
    (e.ue = true → ¬ (stands = true ∧ b.w0.getLsbD 62 = true) → r.1.w0 = new ∧ r.1.w1 = BitVec.ofNat 64 e.w1 ∧
      r.1.w2 = BitVec.ofNat 64 clk ∧ r.1.w3 = BitVec.ofNat 64 e.w3 ∧ r.1.overflow = b.overflow ∧ r.1.corrected = b.corrected ∧ r.2 = true) ∧
    (e.ue = false → r.1.corrected = (if b.corrected + 1 ≥ 2^32 then 2^32 - 1 else b.corrected + 1) ∧ r.1.overflow = b.overflow ∧
      r.2 = false ∧ r.1.w0 = (if stands = true ∧ (b.w0.getLsbD 62 = true ∨ ¬ first) then b.w0 else new))

/-- R367: ERRINJ of the kinds with a state to change: 0 flips and 1 poisons a word of the window, 2 spoils the leading copy's next
signature, 3 poisons a sector of HBM, 4 fails the next flit of a link of the issuing die, and does nothing on another number. That the
failure stands as an input due in the same clk is the model's choice (log entry 24). -/
def Sys2Proof.Claim.ErrorInjection : Prop :=
  ∀ (s : State) (c : Issue) (w : Workgroup) (g : Guard) (r : RegCode), s.cur = some c → s.wg? c.wg = some w →
    let A := act s c g
    let x : Word64 := reg s c (r.toNat + 1) (elect A) ++ reg s c r.toNat (elect A)
    let s0 := { s with fresh := s.fresh + 1 }
    let word := x.toNat / 4
    A ≠ [] → (∃ t, exec (.errinj g r 2) s = .next t ∧ t = s0.updWg c.wg fun w => { w with redun := w.redun.map fun q =>
        { q with inject := q.inject || (!q.trailing && !q.reexec) } }) ∧
    ((∀ l ∈ A, ∃ th : Thread, w.threads[l]? = some th ∧ th.priv = true) → w.lsbytes ≤ 2^20 →
      (x.toNat < w.lsbytes → ∃ t, exec (.errinj g r 0) s = .next t ∧
        (∃ w', t.wg? c.wg = some w' ∧ (∀ k, k ∈ w'.flips ↔ k = word ∨ k ∈ w.flips) ∧ { w' with flips := w.flips } = w) ∧ t.mem = s.mem) ∧
      (x.toNat < w.lsbytes → ∃ t, exec (.errinj g r 1) s = .next t ∧
        (∃ w', t.wg? c.wg = some w' ∧ (∀ k, k ∈ w'.poison ↔ k = word ∨ k ∈ w.poison) ∧ { w' with poison := w.poison } = w) ∧ t.mem = s.mem) ∧
      (∀ lf, s0.access w .write x .any = .ok lf → isHbm lf.pa = true → ∃ t, exec (.errinj g r 3) s = .next t ∧
        (∀ k, k ∈ t.poison ↔ k = lf.pa / 128 ∨ k ∈ s.poison) ∧ { t with poison := s.poison, fresh := s.fresh } = s) ∧
      let mine := x.toNat % 256 / 4 = dieOf w.core ∨ neighbour (x.toNat % 256 / 4) (x.toNat % 4) = dieOf w.core
      (¬ mine → exec (.errinj g r 4) s = .next s0) ∧
      (mine → ∃ t, exec (.errinj g r 4) s = .next t ∧ ⟨s.clk, w.secure, .flitCrcFailure (BitVec.ofNat 9 (x.toNat % 256))⟩ ∈ t.inputs ∧
        (∀ k ∈ t.links, k.num = canonLink (x.toNat % 256) → k.inj = true) ∧ t.mem = s.mem ∧ t.wgs = s.wgs))

/-- R379 to R382: the root's instructions in the secure world at control level. ASGN of a die that does not exist answers 3, of a
die in the wrong state 2, at the latest 50 ms after issue; ASGN k = 0 of a QUARANTINED die that a QUAR reset has reset already begins its
re-assay with vector 3, and the threads wait for the root. That such a die is one with cause 4 whose last reset was one by QUAR is the model's
choice (log entry 42). QUAR takes a LIVE die other than the issuing one to QUARANTINED with cause 2, QUAR.RESET to the
re-assay, each with vector 3; on an I/O die or the own die it does nothing; KEYI sends a legal install to the link's receiving end and
blocks; KEYROLL of a link that does not exist answers false. -/
def Sys2Proof.Claim.RootInstructions : Prop :=
  ∀ (s : State) (c : Issue) (w : Workgroup) (g : Guard) (d r : RegCode) (a : Src) (q : PredCode), s.cur = some c →
    let A := act s c g
    let die := (val s c a (elect A)).toNat % 128
    let s0 := { s with fresh := s.fresh + 1 }
    let answers := fun (k : BitVec 1) (n : Nat) => ∃ t wake, exec (.asgn g d a k) s = .next t ∧
      Blocks s c w A (fun _ => .asgn (128 + n) d.toNat) (some wake) t ∧ s.clk ≤ wake ∧ wake ≤ s.clk + assayLimit
    Root s c w A →
    (s.dies[die]? = none → answers 0 3 ∧ answers 1 3) ∧
    (∀ x : Die, s.dies[die]? = some x → ¬ (x.state = .quarantined ∧ x.cause = 4 ∧ x.byQuar = true) → answers 0 2) ∧
    (∀ x : Die, s.dies[die]? = some x → x.state = .quarantined → x.cause = 4 → x.byQuar = true → ∃ (t : State) (y : Die),
      exec (.asgn g d a 0) s = .next t ∧ t.dies[die]? = some y ∧ y.state = .reassay ∧ y.cause = 4 ∧ y.assayAt.isSome = true ∧
      t.irqstat.getLsbD 3 = true ∧ t.mem = s.mem ∧ (∀ k, k ≠ die → t.dies[k]? = s.dies[k]?) ∧
      ∃ w', t.wg? c.wg = some w' ∧ ∀ l ∈ A, ∀ th : Thread, w.threads[l]? = some th →
        w'.threads[l]? = some { th with st := .blocked (.asgn die d.toNat), wake := none }) ∧
    (∀ x : Die, s.dies[die]? = some x → x.state ≠ .live → answers 1 2) ∧
    (∀ x : Die, s.dies[die]? = some x → x.state = .live → x.measure = false → ∃ (t : State) (y : Die), exec (.asgn g d a 1) s = .next t ∧
      t.dies[die]? = some y ∧ y.measure = true ∧ y.state = .live ∧ y.assayAt.isSome = true ∧ t.mem = s.mem) ∧
    (64 ≤ die ∨ die = dieOf w.core ∨ s.dies[die]? = none → ∀ k, exec (.quar g a k) s = .next s0) ∧
    (∀ x : Die, s.dies[die]? = some x → x.state = .live → die < 64 → die ≠ dieOf w.core → ∃ t t', exec (.quar g a 0) s = .next t ∧
      exec (.quar g a 1) s = .next t' ∧ (∃ y : Die, t.dies[die]? = some y ∧ y.state = .quarantined ∧ y.cause = 2) ∧
      (∃ y : Die, t'.dies[die]? = some y ∧ y.state = .reassay ∧ y.cause = 2) ∧ t.irqstat.getLsbD 3 = true ∧ t'.irqstat.getLsbD 3 = true) ∧
    (∀ b, laneBlock s0 w (elect A) (reg s c (r.toNat + 1) (elect A) ++ reg s c r.toNat (elect A) : Word64).toNat = .ok (b, none) →
      laneWaits s0 w (elect A) (reg s c (r.toNat + 1) (elect A) ++ reg s c r.toNat (elect A) : Word64).toNat = false →
      keyiFields b = none → ∃ (t : State) (k : KeyInst), exec (.keyi g r) s = .next t ∧ t.keyInsts = s.keyInsts ++ [k] ∧
        k.link = field b 0 2 ∧ k.dir = field b 2 1 ∧ k.handle = field b 4 4 ∧ k.gen = field b 8 4 ∧
        (∃ w', t.wg? c.wg = some w' ∧ ∀ l ∈ A, ∀ th : Thread, w.threads[l]? = some th →
          w'.threads[l]? = some { th with st := .blocked (.keyi k.id), wake := none })) ∧
    (∀ k, s.link? ((val s c a (elect A)).toNat % 512) = none →
      ∃ t, exec (.keyroll g q a k) s = .next t ∧ Lands s c 4 A [] [(q.toNat, fun _ => false)] t) ∧
    (∀ k lk, s.link? ((val s c a (elect A)).toNat % 512) = some lk → ∃ t ok lk', exec (.keyroll g q a k) s = .next t ∧
      (ok, lk') = lk.roll (canonDir ((val s c a (elect A)).toNat % 512) ((val s c a (elect A)).toNat / 2^16 % 2)) k.toNat ∧
      (ok = false → Lands s c 4 A [] [(q.toNat, fun _ => false)] t) ∧
      (ok = true → ∃ s1, s1 = s.updLinks (· == lk'.num) (fun _ => lk') ∧ Lands s1 c 4 A [] [(q.toNat, fun _ => true)] t))

/-- R381, R374: KEYROLL 0 on an OPEN direction whose next key is acknowledged begins its rollover; KEYROLL 1 switches a direction that is
rolling and not yet switched to the next generation, with its flit count at 0; otherwise neither changes the link. That KEYROLL's
predicate lands 4 clk after issue is the model's choice (log entry 41). -/
def Sys2Proof.Claim.KeyRollover : Prop :=
  ∀ (l : Link) (d : Nat),
    (l.dirOpen d = true → (l.dir d).acked = true → (l.roll d 0).1 = true ∧ ((l.roll d 0).2.dir d).rolling = true ∧
      (l.roll d 0).2.state = .rolling) ∧
    ((l.dir d).rolling = true → (l.dir d).switched = false → (l.roll d 1).1 = true ∧
      ((l.roll d 1).2.dir d).gen = ((l.dir d).gen + 1) % 2^32 ∧ ((l.roll d 1).2.dir d).flits = 0 ∧ ((l.roll d 1).2.dir d).acked = false) ∧
    (¬ (l.dirOpen d = true ∧ (l.dir d).acked = true) → l.roll d 0 = (false, l)) ∧
    (¬ ((l.dir d).rolling = true ∧ (l.dir d).switched = false) → l.roll d 1 = (false, l))

/-! Memory access, the local-store window and tiles (R119 to R154). -/

namespace Sys2Proof.Claim

/-- The state in which the issuing instruction reads and acts. -/
def st0 (s : State) : State := { s with fresh := s.fresh + 1 }

/-- The issuing workgroup of a launch without copies and containment. -/
def Plain (s : State) (c : Issue) (w : Workgroup) : Prop :=
  s.cur = some c ∧ s.wg? c.wg = some w ∧ w.redun = none ∧ w.contain = none ∧ c.tids.Nodup

/-- The effective address of a global access: the pair and the offset (R140). -/
def gea (s : State) (c : Issue) (a : RegCode) (off : Off) (n : Nat) (l : Nat) : Word64 :=
  (reg s c (a.toNat + 1) l ++ reg s c a.toNat l : Word64) + (match off with
    | .scaled o => BitVec.ofNat 64 (o.toNat * n)
    | .ext x => x.signExtend 64)

/-- The effective address of a local access (R140). -/
def lea_ (s : State) (c : Issue) (a : RegCode) (off : Off) (n : Nat) (l : Nat) : Nat :=
  (reg s c a.toNat l + (match off with
    | .scaled o => BitVec.ofNat 32 (o.toNat * n)
    | .ext x => x)).toNat

/-- The bytes of a load or store width (R139). -/
def width (k : BitVec 3) : Nat := [1, 1, 2, 2, 4, 8, 16, 16].getD k.toNat 0

/-- The registers that loaded bytes write: zero-extended or sign-extended below 32 bits, then one register each 4 bytes (R139). -/
def loaded (k : BitVec 3) (d : Nat) (bs : Nat → List Byte) : List (Nat × (Nat → Word)) :=
  if k = 1 then [(d, fun l => (BitVec.ofNat 8 (leNat (bs l))).signExtend 32)]
  else if k = 3 then [(d, fun l => (BitVec.ofNat 16 (leNat (bs l))).signExtend 32)]
  else (List.range ((width k + 3) / 4)).map fun i => (d + i, fun l => BitVec.ofNat 32 (leNat (((bs l).drop (4 * i)).take 4)))

/-- The low bytes of the stored register, pair or group (R138, R139). -/
def stored (s : State) (c : Issue) (k : BitVec 3) (d : RegCode) (l : Nat) : List Byte :=
  ((List.range ((width k + 3) / 4)).flatMap fun i => toBytes 4 (reg s c (d.toNat + i) l).toNat).take (width k)

/-- Memory at the PACKAGE point changes only where a core's L1 writes a dirty byte of its own back (R157). -/
def WritesBack (s t : State) (core : Nat) : Prop :=
  s.mem.wf = true → ∀ a, t.mem.get a = s.mem.get a ∨ ∃ x ∈ s.l1, x.core = core ∧ (a, t.mem.get a) ∈ x.cells

/-- The state but for its results in flight, its TLBs and caches, and what it counts. -/
def LoadKeeps (s t : State) (core : Nat) : Prop :=
  WritesBack s t core ∧ { t with
    pend := s.pend, nextId := s.nextId, fresh := s.fresh, tlb := s.tlb, l1 := s.l1, dcache := s.dcache, slices := s.slices, wgs := s.wgs
    mem := s.mem, poison := s.poison, lost := s.lost, cwords := s.cwords } = s

/-- The state but for its results in flight, its TLBs and L1 copies, and what it counts. -/
def SameMachine (s t : State) : Prop :=
  { t with pend := s.pend, nextId := s.nextId, fresh := s.fresh, tlb := s.tlb, l1 := s.l1, wgs := s.wgs } = s

/-- Every lane of a global access translates, meets nothing it waits for and is outside a transaction; `rd l` is the thread as which
lane `l` reads. -/
def Goes (s : State) (w : Workgroup) (ts : List Nat) (k : Kind) (n : Nat) (rd : Nat → Nat) (ea : Nat → Word64) (lf : Nat → Leaf) : Prop :=
  ts ≠ [] ∧ ∀ l ∈ ts, s.fate w l (rd l) k (ea l) n = .go (lf l) ∧ ∃ th : Thread, w.threads[l]? = some th ∧ th.tx.active = false ∧
    match k with
    | .read => th.ctr.l < 63
    | _ => th.ctr.s < 63 ∧ th.sq.length < 8

/-- The state in which the lanes read: an L1 copy older than a load that a lane's address depends on, or one of a sector read through an
uncacheable page, has been given up (R124, R160). -/
def reads (s : State) (w : Workgroup) (ts : List Nat) (dep : Nat → Nat) (lf : Nat → Leaf) : State :=
  ts.foldl (fun s l => s.freshen w l (dep l) (lf l)) s

/-- No lane reads poisoned data. -/
def Sound (s : State) (w : Workgroup) (ts : List Nat) (n : Nat) (lf : Nat → Leaf) : Prop :=
  ∀ l ∈ ts, s.readPoisoned w.core (lf l).pa n (lf l).c = false

/-- A load's effect: from `s1`, in which it reads, one result counted on L of each thread; memory as it was, but for what the core's
L1 writes back. -/
def LoadIssues (s1 : State) (c : Issue) (core : Nat) (ts : List Nat) (regs : List (Nat × (Nat → Word))) (t : State) : Prop :=
  ∃ p : Pend, t.pend = s1.pend ++ [p] ∧ s1.clk < p.due ∧ p.wg = c.wg ∧ p.tids = ts ∧ p.ctr = some .l ∧ p.load = true ∧ p.late = none ∧
    p.poison = [] ∧ p.flags = [] ∧ p.sys = [] ∧ Gives p c.wg ts regs [] ∧ LoadKeeps s1 t core ∧
    t.wgs = (onThreads s1 c.wg ts fun _ th => { th with ctr := { th.ctr with l := th.ctr.l + 1 } }).wgs

/-- A local load's effect: one result counted on L that lands 24 clk later and one more for each pass past the first; LSERR takes the
first byte refused unless it holds a record, where nothing else has touched it in this clk (R128, R129). -/
def LocalLoadIssues (s : State) (c : Issue) (w : Workgroup) (ts all : List Nat) (regs : List (Nat × (Nat → Word))) (t : State) : Prop :=
  ∃ p : Pend, t.pend = s.pend ++ [p] ∧ p.due = s.clk + 23 + passes all ∧ p.wg = c.wg ∧ p.tids = ts ∧ p.ctr = some .l ∧ p.load = true ∧
    p.late = none ∧ p.poison = [] ∧ p.flags = [] ∧ p.sys = [] ∧ Gives p c.wg ts regs [] ∧
    { t with pend := s.pend, nextId := s.nextId, fresh := s.fresh, wgs := s.wgs, contexts := s.contexts } = s ∧
    t.wgs = (onThreads s c.wg ts fun _ th => { th with ctr := { th.ctr with l := th.ctr.l + 1 } }).wgs ∧
    ((∀ x ∈ all, w.lsBad x = none) → t.contexts = s.contexts) ∧
    ((s.lsErr w.ctx w.core).at_ ≠ s.clk → (s.lserr w.ctx w.core).getLsbD 63 = true → t.lserr w.ctx w.core = s.lserr w.ctx w.core) ∧
    ((s.lsErr w.ctx w.core).at_ ≠ s.clk → (s.lserr w.ctx w.core).getLsbD 63 = false → ∀ x r, all.find? (fun x => (w.lsBad x).isSome) = some x → w.lsBad x = some r →
      t.lserr w.ctx w.core = BitVec.ofNat 64 (2^63 + r * 2^33 + x % 2^32))

/-- A store's effect: one more entry at the tail of each thread's store queue; memory as it was. -/
def StoreQueues (s : State) (c : Issue) (w : Workgroup) (ts : List Nat) (act : Nat → SqAct) (counts : Bool) (t : State) : Prop :=
  SameMachine s t ∧ t.pend = s.pend ∧ t.l1 = s.l1 ∧ (∀ u, u ≠ c.wg → t.wg? u = s.wg? u) ∧
  ∃ w', t.wg? c.wg = some w' ∧ { w' with threads := w.threads } = w ∧ (∀ k, k ∉ ts → w'.threads[k]? = w.threads[k]?) ∧
    ∀ l ∈ ts, ∀ th : Thread, w.threads[l]? = some th → ∃ due, s.clk < due ∧ w'.threads[l]? = some { th with
      sq := th.sq ++ [⟨due, s.nextId, act l⟩], ctr := if counts then { th.ctr with s := th.ctr.s + 1 } else th.ctr }

end Sys2Proof.Claim

/-- R139 to R142, R177: LD, LDU and LDA, in lanes whose access goes on, read the bytes at the effective address as the thread sees
them, write them zero-extended or sign-extended when they land and raise L; LDU takes the address and the view of the lowest active lane
of the home wave; LDA at RECT or wider reads after the core's L1 copies are discarded. Every register stands, and memory but for what
the core's L1 writes back. That the value is read, and that LDA discards the copies, when the instruction issues is the model's choice
(log entry 5). -/
def Sys2Proof.Claim.GlobalLoads : Prop :=
  ∀ (s : State) (c : Issue) (w : Workgroup) (g : Guard) (k sc : BitVec 3) (d a : RegCode) (off : Off) (lf : Nat → Leaf), Plain s c w →
    let A := act s c g
    let lead := fun l => elect (A.filter (· / 32 == l / 32))
    let bytes := fun (s1 : State) (l r n : Nat) => s1.threadBytes w r (lf l).pa n (lf l).c
    let dep := fun l => (st0 s).depOf c.wg l [a.toNat, a.toNat + 1]
    let n := width k
    let s1 := reads (st0 s) w A dep lf
    let s2 := reads (st0 s) w A (fun l => dep (lead l)) lf
    let s3 := reads ((st0 s).l1Acquire c.core) w A dep lf
    (Goes (st0 s) w A .read n id (gea s c a off n) lf → Sound s1 w A n lf → ∃ t, exec (.ld g k d a off) s = .next t ∧
      LoadIssues s1 c w.core A (loaded k d.toNat fun l => bytes s1 l l n) t) ∧
    (Goes (st0 s) w A .read n lead (fun l => gea s c a off n (lead l)) lf → Sound s2 w A n lf → ∃ t, exec (.ldu g k d a off) s = .next t ∧
      LoadIssues s2 c w.core A (loaded k d.toNat fun l => bytes s2 l (lead l) n) t) ∧
    (sc.toNat < 3 → Goes (st0 s) w A .read 4 id (gea s c a off 4) lf → Sound s1 w A 4 lf → ∃ t, exec (.lda g sc d a off) s = .next t ∧
      LoadIssues s1 c w.core A (loaded 4 d.toNat fun l => bytes s1 l l 4) t) ∧
    (3 ≤ sc.toNat → Goes ((st0 s).l1Acquire c.core) w A .read 4 id (gea s c a off 4) lf → Sound s3 w A 4 lf → (∀ th ∈ w.threads, th.sq = []) →
      (∀ r ∈ s.ralpex, s.sentBy w.core r = false) →
      ∃ t, exec (.lda g sc d a off) s = .next t ∧
        LoadIssues s3 c w.core A (loaded 4 d.toNat fun l => bytes s3 l l 4) t)

/-- R128, R129, R141: LDL reads the window under the thread's own queued stores, a byte outside the window or in an anvil-mode slab as 0
with the first such byte recorded in LSERR unless that holds a record; the result lands 24 clk later and one more for each pass past the
first. That the window is read when the instruction issues is the model's choice (log entry 5). -/
def Sys2Proof.Claim.LocalLoads : Prop :=
  ∀ (s : State) (c : Issue) (w : Workgroup) (g : Guard) (k : BitVec 3) (d a : RegCode) (off : Off), s.cur = some c →
    s.wg? c.wg = some w → c.tids.Nodup → w.poison = [] → w.flips = [] → w.ctx < s.contexts.length →
    let A := act s c g
    let n := width k
    let addrs := fun l => (List.range n).map (· + lea_ s c a off n l)
    let all := (sortNat A).flatMap addrs
    A ≠ [] → (∀ l ∈ A, lea_ s c a off n l % n = 0 ∧ ∃ th : Thread, w.threads[l]? = some th ∧ th.ctr.l < 63) →
    ∃ t, exec (.ldl g k d a off) s = .next t ∧ LocalLoadIssues s c w A all (loaded k d.toNat fun l => w.threadWin l (addrs l)) t

/-- R143, R146, R177: ST, STRL, STL and CCTL put one entry at the tail of each active thread's store queue; the stores raise S, CCTL
raises nothing and does nothing on the IO range. Memory, the window and every register stand until the entry leaves. -/
def Obligations.StoresEnterTheQueue : Prop :=
  ∀ (s : State) (c : Issue) (w : Workgroup) (g : Guard) (k sc : BitVec 3) (d a : RegCode) (off : Off) (lf : Nat → Leaf), Plain s c w →
    let A := act s c g
    let n := width k
    let ea := gea s c a off n
    let ea4 := gea s c a off 4
    (Goes (st0 s) w A .write n id ea lf → ∃ t, exec (.st g k d a off) s = .next t ∧ StoreQueues s c w A
      (fun l => .memory (ea l).toNat (lf l).pa (lf l).c (lf l).m (stored s c k d l)) true t) ∧
    (Goes (st0 s) w A .write 4 id ea4 lf → ∃ t, exec (.strl g sc d a off) s = .next t ∧ StoreQueues s c w A
      (fun l => if sc = 0 then .memory (ea4 l).toNat (lf l).pa (lf l).c (lf l).m (stored s c 4 d l)
        else .release sc.toNat (ea4 l).toNat (lf l).pa (lf l).c (lf l).m (stored s c 4 d l)) true t) ∧
    ((∀ l ∈ A, lea_ s c a off n l % n = 0 ∧ ∃ th : Thread, w.threads[l]? = some th ∧ th.ctr.s < 63 ∧ th.sq.length < 8) →
      ∃ t, exec (.stl g k d a off) s = .next t ∧
        StoreQueues s c w A (fun l => .window [(lea_ s c a off n l, stored s c k d l)]) true t) ∧
    ((∀ l ∈ A, (st0 s).access w .read (gea s c a off 128 l) .any = .ok (lf l) ∧
        ∃ th : Thread, w.threads[l]? = some th ∧ th.sq.length < 8) →
      ∃ t, exec (.cctl g k a off) s = .next t ∧
        StoreQueues s c w (A.filter fun l => !isIo (lf l).pa) (fun l => .cctl k.toNat (lf l).pa) false t)

/-- R145: PREF completes whatever its address is; it changes nothing but the L1 copies of its core, which may write dirty bytes of
their own back to make room. -/
def Sys2Proof.Claim.PrefetchOnlyFillsTheL1 : Prop :=
  ∀ (s : State) (c : Issue) (g : Guard) (f : BitVec 3) (a : RegCode) (off : Off), s.cur = some c →
    ∃ t, exec (.pref g f a off) s = .next t ∧
      { t with l1 := s.l1, dcache := s.dcache, slices := s.slices, mem := s.mem, poison := s.poison, lost := s.lost, cwords := s.cwords
               fresh := s.fresh } = s ∧
      WritesBack s t (((s.wg? c.wg).map Workgroup.core).getD c.core) ∧
      ∀ x ∈ t.l1, x ∈ s.l1 ∨ (x.core = ((s.wg? c.wg).map Workgroup.core).getD c.core ∧ x.dirty = [] ∧ x.expire ≤ s.clk + 16384)

/-- R143, R157, R161, R177: the entry at the head of a store queue leaves it: a local store writes its bytes into the window, those outside
it or in an anvil-mode slab dropped; a global store writes its bytes to memory, or, on a cacheable page, into the core's L1 copy, where
the core's reads find them; an STRL at RECT or wider, which leaves once no store of its core to another package is on its way and no
earlier atomic of its thread with a result waits, writes the core's dirty bytes back and then its own to memory; CCTL of a sector without a
copy in the L1 changes nothing. Every other byte of memory stands, but for what the core's L1 writes back to make room, and S falls for a
store of the thread's own task. -/
def Sys2Proof.Claim.StoresLeaveTheQueue : Prop :=
  ∀ (s : State) (w : Workgroup) (l : Nat) (th : Thread) (e : SqEntry), s.nextStore = some (w, l, e) → s.wg? w.uid = some w →
    w.threads[l]? = some th → s.mem.wf = true → w.window.wf = true → e.due ≤ s.clk ∧ th.sq.head? = some e ∧ ∃ (t : State) (w' : Workgroup) (th' : Thread), exec .storeLeavesQueue s = .next t ∧
      t.wg? w.uid = some w' ∧ w'.threads[l]? = some th' ∧ th'.sq = th.sq.tail ∧
      th'.ctr.s = (if e.act.counts = true ∧ th.born ≤ e.seq then th.ctr.s - 1 else th.ctr.s) ∧
      (∀ k, k ≠ l → w'.threads[k]? = w.threads[k]?) ∧
      (∀ ws, e.act = .window ws → t.mem = s.mem ∧ ∀ x, w'.window.get x =
        match ((ws.flatMap fun y => cellsAt y.1 y.2).filter fun z => z.1 == x && (w.lsBad x).isNone).getLast? with
        | some z => z.2
        | none => w.window.get x) ∧
      (∀ va pa bs, e.act = .memory va pa false false bs → isIo pa = false → s.remote pa = false →
        s.routed (dieOf w.core) (homeDie pa) = true → s.l1Find w.core (sectorOf pa) = none →
        ∀ x, t.mem.get x = if pa ≤ x ∧ x < pa + bs.length then bs.getD (x - pa) 0 else s.mem.get x) ∧
      (∀ va pa bs, e.act = .memory va pa true false bs → isIo pa = false → s.remote pa = false → pa % 128 + bs.length ≤ 128 →
        (∀ x ∈ s.l1, x.data.length = 128) → s.underway w.core = [] → WritesBack s t w.core ∧ t.coreRead w.core pa bs.length true = bs) ∧
      (∀ scope va pa ca bs, e.act = .release scope va pa ca false bs → 3 ≤ scope → isIo pa = false → s.remote pa = false →
        s.routed (dieOf w.core) (homeDie pa) = true → (∀ k ∈ s.l1, k.pa % 128 = 0) →
        (∀ r ∈ s.ralpex, s.sentBy w.core r = false) ∧
        (∀ x ∈ s.atoms, x.wg = w.uid → x.tidx = l → x.result.isSome = true → e.seq ≤ x.id) ∧ (∀ k ∈ t.l1, k.core = w.core → k.dirty = []) ∧
        ∀ x, t.mem.get x = if pa ≤ x ∧ x < pa + bs.length then bs.getD (x - pa) 0 else (s.l1Release w.core).mem.get x) ∧
      (∀ fn pa, e.act = .cctl fn pa → isIo pa = false → s.l1Find w.core (sectorOf pa) = none → fn ≠ 1 → t.mem = s.mem ∧ t.l1 = s.l1)

/-- R157: an L1 copy whose life has ended leaves the L1; its dirty bytes are written to memory, every other byte of memory stands. -/
def Sys2Proof.Claim.L1CopyExpires : Prop :=
  ∀ (s : State) (x : L1Copy), s.l1.find? (fun k => decide (k.expire ≤ s.clk)) = some x →
    s.l1Find x.core (x.pa / 128) = some x → x.pa % 128 = 0 → s.mem.wf = true →
    ∃ t, exec .l1CopyExpiry s = .next t ∧ (∀ k, k ∈ t.l1 ↔ k ∈ s.l1 ∧ ¬ (k.core = x.core ∧ k.pa = x.pa)) ∧
      (∀ a, t.mem.get a = if x.pa ≤ a ∧ a - x.pa ∈ x.dirty then x.data.getD (a - x.pa) 0 else s.mem.get a) ∧
      { t with l1 := s.l1, dcache := s.dcache, slices := s.slices, mem := s.mem, poison := s.poison, lost := s.lost, cwords := s.cwords
               fresh := s.fresh } = s

/-- R119, R121 to R124: what translate answers for an address: PAGEFAULT past 2^48, where the walk ends at no leaf and where the leaf
names an unpopulated range; else PERMISSION without the right the kind needs; else WORLD for a secure page outside the secure world;
else the page's address and the offset within the page. -/
def Sys2Proof.Claim.TranslationRules : Prop :=
  ∀ (s : State) (core : Option Nat) (n : Nat) (sec : Bool) (k : Kind) (va : Nat), s.tlb = [] →
    let leaf := walk s.mem (Config.groupPick s.fresh va) va 4 (s.ctx n).desc.ptroot
    let right := fun e : Nat => match k with
      | .read => e.testBit 2
      | .write => e.testBit 3
      | .atomic => e.testBit 2 && e.testBit 3
      | .exec => e.testBit 4
    (2^48 ≤ va → s.translate core n sec k va = .error 4) ∧ (leaf = none → s.translate core n sec k va = .error 4) ∧
    ∀ e size, va < 2^48 → leaf = some (e, size) → size ∈ [2^12, 2^16, 2^21, 2^30] ∧
      let pa := ptePa e / size * size + va % size
      (populated pa = false → s.translate core n sec k va = .error 4) ∧
      (populated pa = true → right e = false → s.translate core n sec k va = .error 5) ∧
      (populated pa = true → right e = true → (e.testBit 9 && !sec) = true → s.translate core n sec k va = .error 6) ∧
      (populated pa = true → right e = true → (e.testBit 9 && !sec) = false → s.translate core n sec k va = .ok ⟨pa, e, size⟩)

/-- R126, R140, R142, R177: a lane of LD, LDU, ST, STRL or an LDA below RECT whose access is refused takes the refusal's fault with its
address (bits 47:0), and a lane of LDL or STL that is not aligned ALIGN; in LDU the lanes of a home wave take the fault of its lowest
active lane. Nothing else changes. Here every active lane is refused. -/
def Sys2Proof.Claim.AccessFaultsEnterTheHandler : Prop :=
  ∀ (s : State) (c : Issue) (w : Workgroup) (g : Guard) (k sc : BitVec 3) (d a : RegCode) (off : Off) (e : Nat), Plain s c w →
    let A := act s c g
    let n := width k
    let ea := gea s c a off n
    let ea4 := gea s c a off 4
    let lead := fun l => elect (A.filter (· / 32 == l / 32))
    let at48 := fun (f : Nat → Word64) l => ((f l).setWidth 48 : BitVec 48).setWidth 64
    let only := fun (i : Instr) (code : Nat) (addr : Nat → Word64) => ∃ t, exec i s = .next t ∧
      AllEntered s c w A (vector s w) code addr (c.addr.setWidth 64) (clsWord c) t ∧ OnlyFaults s c w A t
    let refused := fun (kd : Kind) (m : Nat) (f : Nat → Word64) => ∀ l ∈ A, (st0 s).access w kd (f l) (.sized m) = .error e
    CanTrap s c w (vector s w) A → (∀ l ∈ A, ∃ th : Thread, w.threads[l]? = some th ∧ th.tx.active = false) →
    (refused .read n ea → only (.ld g k d a off) e (at48 ea)) ∧
    (refused .read n (fun l => ea (lead l)) → only (.ldu g k d a off) e (at48 fun l => ea (lead l))) ∧
    (sc.toNat < 3 → refused .read 4 ea4 → only (.lda g sc d a off) e (at48 ea4)) ∧
    (refused .write n ea → only (.st g k d a off) e (at48 ea)) ∧
    (refused .write 4 ea4 → only (.strl g sc d a off) e (at48 ea4)) ∧
    ((∀ l ∈ A, lea_ s c a off n l % n ≠ 0) →
      only (.ldl g k d a off) 0x0A (fun l => BitVec.ofNat 64 (lea_ s c a off n l)) ∧
      only (.stl g k d a off) 0x0A (fun l => BitVec.ofNat 64 (lea_ s c a off n l)))

namespace Sys2Proof.Claim

/-- The address in the window of logical byte `o` of a row of a tile (R135). -/
def tileAddr (e : Word64) (row o : Nat) : Nat :=
  e.toNat % 2^20 + row * (16 * (e.toNat / 2^32 % 2^12 + 1)) +
    (if e.toNat / 2^46 % 4 = 1 then 4 * ((o / 4) ^^^ (row % 32)) + o % 4 else o)

/-- The state after a READY tile has been named: what engines wrote is observed, the L1 copies that they left behind are given up
(R164). -/
def seen (s : State) (w : Workgroup) : State := (st0 s).l1Observe w.core

/-- As `Lands`, in the state `s1` that the instruction itself has come to. -/
def LandsIn (s1 : State) (c : Issue) (lat : Nat) (ts : List Nat) (regs : List (Nat × (Nat → Word))) (t : State) : Prop :=
  ∃ p : Pend, t = { s1 with nextId := s1.nextId + 1, pend := s1.pend ++ [p] } ∧ p.due = s1.clk + lat ∧ p.wg = c.wg ∧ p.tids = ts ∧
    p.ctr = none ∧ p.load = false ∧ p.late = none ∧ p.flags = [] ∧ p.sys = [] ∧ p.poison = [] ∧ Gives p c.wg ts regs []

/-- No thread of a list is kept from a tile because it is another thread's view tile (R303). -/
def Owns (w : Workgroup) (ts : List Nat) (x : Tile) : Prop :=
  ∀ e, x.view = some e → ∃ v, w.view? e = some v ∧ ∀ l ∈ ts, v.owner = l

/-- The threads of a list park on a tile at the issuing word, and leave their bundle. -/
def Parks (s : State) (c : Issue) (w : Workgroup) (ls : List Nat) (p : Park) (t : State) : Prop :=
  OthersKept s c w ls t ∧ (∀ b ∈ t.bundles, b.wg = c.wg → ∀ l ∈ ls, l ∉ b.tids) ∧
  ∃ w', t.wg? c.wg = some w' ∧ ∀ l ∈ ls, ∀ th : Thread, w.threads[l]? = some th → ∃ th' : Thread, w'.threads[l]? = some th' ∧
    th'.st = .parked p ∧ th'.pc = th.here.pc ∧ th'.mid = some (th.here.hdr, th.here.idx)

/-- A READY tile of the window and coordinates within it: `rows` and `bytes` are the rows named and the bytes within them. -/
def InTile (w : Workgroup) (k : Nat) (x : Tile) (ts : List Nat) (row col : Nat → Nat) : Prop :=
  w.tiles[k]? = some x ∧ x.st = .ready ∧ x.view = none ∧
  ∀ l ∈ ts, row l < x.desc.toNat / 2^20 % 2^12 + 1 ∧
    col l < 16 * (x.desc.toNat / 2^32 % 2^12 + 1) / 2^(x.desc.toNat / 2^44 % 4)

end Sys2Proof.Claim

/-- R131, R148, R149: TDEF of a FREE tile with a sound descriptor makes it EMPTY, or READY with .r, its counters 0 and its trailer 0;
otherwise every active thread takes TILEBAD with TRAPADDR k. TFREE returns a tile of the window to FREE, also one that accepted matrix
operations have still to read (R133), parks the threads while it is FILLING or DRAINING or a copy to another tile reads it (R197), and
raises TILEBAD where the tile is FREE or there is none. -/
def Sys2Proof.Claim.TileDefinition : Prop :=
  ∀ (s : State) (c : Issue) (w : Workgroup) (g : Guard) (m : BitVec 1) (a : RegCode) (k : BitVec 6), Plain s c w →
    let A := act s c g
    let e : Word64 := reg s c (a.toNat + 1) (elect A) ++ reg s c a.toNat (elect A)
    let B := e.toNat % 2^20
    let P := 16 * (e.toNat / 2^32 % 2^12 + 1)
    let n := (e.toNat / 2^20 % 2^12 + 1) * P
    let E := 2^(e.toNat / 2^44 % 4)
    let swz := e.toNat / 2^46 % 4
    let sound := (∃ x : Tile, w.tiles[k.toNat]? = some x ∧ x.st = .free) ∧ e.toNat < 2^48 ∧ swz < 2 ∧ B % 16 = 0 ∧ P % E = 0 ∧
      (swz = 1 → P = 128 ∧ B % 128 = 0) ∧ B + n + 4 ≤ w.lsbytes ∧
      ∀ i (sl : Slab), w.slabs[i]? = some sl → sl.anvil = true → ¬ (B < 65536 * (i + 1) ∧ 65536 * i < B + n + 4)
    let frees := fun (x : Tile) => x.st ≠ .free ∧ x.bound = false ∧ x.view = none
    A ≠ [] →
    (sound → w.window.wf = true → ∃ t w', exec (.tdef g m a k) s = .next t ∧ t.wg? c.wg = some w' ∧
      (∀ x : Tile, w.tiles[k.toNat]? = some x →
        w'.tiles[k.toNat]? = some ⟨if m = 1 then .ready else .empty, e, n, 0, 0, (0, 0, 0), none, false, x.readers, x.lent⟩) ∧
      (∀ j, j ≠ k.toNat → w'.tiles[j]? = w.tiles[j]?) ∧
      (∀ x, w'.window.get x = if B + n ≤ x ∧ x < B + n + 4 then 0 else w.window.get x) ∧
      { w' with tiles := w.tiles, window := w.window, poison := w.poison } = w ∧ { t with wgs := s.wgs, fresh := s.fresh } = s) ∧
    (¬ sound → CanTrap s c w (vector s w) A → Faults s c w (.tdef g m a k) A 0x08 fun _ => k.setWidth 64) ∧
    (∀ x : Tile, w.tiles[k.toNat]? = some x → frees x → x.st ≠ .filling → x.st ≠ .draining → x.lent = 0 →
      ∃ t w', exec (.tfree g k) s = .next t ∧ t.wg? c.wg = some w' ∧
        w'.tiles[k.toNat]? = some ⟨.free, 0, 0, 0, 0, (0, 0, 0), none, false, x.readers, 0⟩ ∧
        (∀ j, j ≠ k.toNat → w'.tiles[j]? = w.tiles[j]?) ∧ { w' with tiles := w.tiles } = w ∧ { t with wgs := s.wgs, fresh := s.fresh } = s) ∧
    (∀ x : Tile, w.tiles[k.toNat]? = some x → frees x → x.st = .filling ∨ x.st = .draining ∨ 0 < x.lent →
      ∃ t, exec (.tfree g k) s = .next t ∧ Parks s c w A (.free k.toNat) t) ∧
    (w.tiles[k.toNat]? = none ∨ (∃ x : Tile, w.tiles[k.toNat]? = some x ∧ x.st = .free) → CanTrap s c w (vector s w) A →
      Faults s c w (.tfree g k) A 0x08 fun _ => k.setWidth 64)

/-- R129, R130, R150, R154, R303: TQRY writes the state word, the expected bytes, the arrived bytes or the descriptor's words of any tile
that is no other thread's, FREE ones too, after 8 clk; fn 5 reads the counter as it was before this clk's increments, and of a tile that is
not FREE it leaves the counter at those increments alone. What TQRY reads of a FREE tile, and that fn 5 leaves it as it is, is the model's
choice (log entry 52). LSERRQ reads LSERR as it stood before this clk, after 8 clk, and, with fn 0, clears it, but for a record of this clk. -/
def Sys2Proof.Claim.TileAndLserrQueries : Prop :=
  ∀ (s : State) (c : Issue) (w : Workgroup) (g : Guard) (f : BitVec 3) (d : RegCode) (k : BitVec 6), Plain s c w →
    let A := act s c g
    let r := s.lsErr w.ctx w.core
    let e := if r.at_ = s.clk then r.held else s.lserr w.ctx w.core
    (∀ x : Tile, w.tiles[k.toNat]? = some x → Owns w A x →
      let now := decide (x.recent.1 = s.clk)
      let late := if now then x.recent.2.2 else 0
      let s1 := if x.st = .ready ∧ A ≠ [] then seen s w else st0 s
      let state := (if f = 5 ∧ now then x.recent.2.1 else x.ovf) * 2^16 + x.desc.toNat / 2^46 % 4 * 2^8 + x.desc.toNat / 2^44 % 4 * 2^6 +
        (match x.st with | .free => 0 | .empty => 1 | .filling => 2 | .ready => 3 | .draining => 4)
      let word : Word := if f = 1 then BitVec.ofNat 32 x.expected else if f = 2 then BitVec.ofNat 32 x.arrived
        else if f = 3 then lo x.desc else if f = 4 then hi x.desc else BitVec.ofNat 32 state
      (f ≠ 5 ∨ x.st = .free → ∃ t, exec (.tqry g f d k) s = .next t ∧ LandsIn s1 c 8 A [(d.toNat, fun _ => word)] t) ∧
      (f = 5 → A ≠ [] → x.view = none → x.st ≠ .free → ∃ t t' w', exec (.tqry g f d k) s = .next t ∧
        LandsIn s1 c 8 A [(d.toNat, fun _ => word)] t' ∧ t.pend = t'.pend ∧ t.wg? c.wg = some w' ∧
        (∃ y : Tile, w'.tiles[k.toNat]? = some y ∧ y.ovf = late ∧ { y with ovf := x.ovf, recent := x.recent } = x) ∧ w'.threads = w.threads ∧ t.mem = t'.mem)) ∧
    (w.tiles[k.toNat]? = none → CanTrap s c w (vector s w) A → Faults s c w (.tqry g f d k) A 0x08 fun _ => k.setWidth 64) ∧
    (∃ t, exec (.lserrq g 1 d) s = .next t ∧ Lands s c 8 A [(d.toNat, fun _ => lo e), (d.toNat + 1, fun _ => hi e)] [] t) ∧
    (A ≠ [] → ∃ t t', exec (.lserrq g 0 d) s = .next t ∧
      Lands s c 8 A [(d.toNat, fun _ => lo e), (d.toNat + 1, fun _ => hi e)] [] t' ∧ { t with contexts := s.contexts } = t' ∧
      t.lserr w.ctx w.core = if r.at_ = s.clk then r.new else 0)

/-- R133, R135, R151, R153: TLD and LDTR in a READY tile of the window, at coordinates within it, read the element at its address under
the tile's pitch and swizzle: raw, sign-extended, or converted to FP32 by the slot's element; LDTR reads the 4 bytes of row a + lane.
In every other READY tile, a view tile's blank or its spill area among them, lanes whose access goes on put one result counted on L in
flight too. The threads park while the tile is EMPTY, FILLING or DRAINING, and take TILEBAD where it is FREE. That an FP32 element passes
unchanged, a NaN too, is the model's reading (log entry 53). -/
def Sys2Proof.Claim.TileElementLoads : Prop :=
  ∀ (s : State) (c : Issue) (w : Workgroup) (g : Guard) (f : BitVec 3) (d a b : RegCode) (x : Word) (ti : Tile), Plain s c w →
    w.poison = [] → w.flips = [] → w.ctx < s.contexts.length →
    let A := act s c g
    let k := x.toNat % 64
    let row := fun l => (reg s c a.toNat l).toNat
    let col := fun l => (reg s c b.toNat l).toNat
    let E := 2^(ti.desc.toNat / 2^44 % 4)
    let sl := slotOf s c (x.toNat / 64 % 8)
    let addrs := fun (row' : Nat → Nat) (n l : Nat) => (List.range n).map fun i => tileAddr ti.desc (row' l) (col l * E + i)
    let elem := fun l => leNat (w.threadWin l (addrs row E l))
    let rowT := fun l => row l + l % 32
    let L := ∀ l ∈ A, ∃ th : Thread, w.threads[l]? = some th ∧ th.ctr.l < 63
    let issues := fun (i : Instr) => ∃ t, exec i s = .next t ∧ ∃ p ∈ t.pend, p.wg = c.wg ∧ p.tids = A ∧ p.ctr = some .l ∧ p.load = true
    A ≠ [] → L →
    ((∀ l ∈ A, ∃ y ps lf, (st0 s).tileLane w l k d.toNat (row l) (col l) .read (f == 2) sl = .go y ps lf) → issues (.tld g f d a b x)) ∧
    ((∀ l ∈ A, ∃ y ps lf, (st0 s).elemFate w l k .read (fun y => decide (rowT l < descRows y.desc) &&
        decide (col l < descPitch y.desc / descSize y.desc) && col l * descSize y.desc % 4 == 0) (rowT l)
        (fun y => col l * descSize y.desc) (fun _ => 4) (fun _ => []) = .go y ps lf) → issues (.ldtr g d a b x)) ∧
    (InTile w k ti A row col → (f = 2 → tileElemOk E (slotElem sl) = true ∧ slotRoundOk sl = true ∧ slotResOk sl = true) →
      (f ≠ 2 → E = 8 → d.toNat % 2 = 0 ∧ d.toNat ≤ 60 ∧ d.toNat + 1 < w.regs) →
      ∃ t, exec (.tld g f d a b x) s = .next t ∧ LocalLoadIssues (seen s w) c w A ((sortNat A).flatMap (addrs row E))
        (if f = 2 then [(d.toNat, fun l => BitVec.ofNat 32 (elemTo32 sl (Config.rho (st0 s).fresh (l % 32) 0).toNat (elem l)))]
         else if E = 8 then [(d.toNat, fun l => BitVec.ofNat 32 (elem l)), (d.toNat + 1, fun l => BitVec.ofNat 32 (elem l / 2^32))]
         else if f = 1 then [(d.toNat, fun l => (BitVec.ofNat (8 * E) (elem l)).signExtend 32)]
         else [(d.toNat, fun l => BitVec.ofNat 32 (elem l))]) t) ∧
    (InTile w k ti A rowT col → (∀ l ∈ A, col l * E % 4 = 0) →
      ∃ t, exec (.ldtr g d a b x) s = .next t ∧ LocalLoadIssues (seen s w) c w A ((sortNat A).flatMap (addrs rowT 4))
        [(d.toNat, fun l => BitVec.ofNat 32 (leNat (w.threadWin l (addrs rowT 4 l))))] t) ∧
    (w.tiles[k]? = some ti → ti.view = none → ti.st ≠ .free → ti.st ≠ .ready →
      ∃ t t', exec (.tld g f d a b x) s = .next t ∧ Parks s c w A (.ready k) t ∧ exec (.ldtr g d a b x) s = .next t' ∧
        Parks s c w A (.ready k) t') ∧
    (w.tiles[k]? = some ti → ti.st = .free → CanTrap s c w (vector s w) A →
      Faults s c w (.tld g f d a b x) A 0x08 (fun _ => BitVec.ofNat 64 k) ∧
      Faults s c w (.ldtr g d a b x) A 0x08 (fun _ => BitVec.ofNat 64 k))

/-- R136, R152: TST in a READY tile of the window puts the element's bytes at its address into the store queue and raises S: the low
bits of the register, or, converting, the register's FP32 value rounded into the slot's element; each lane that saturates adds one to
the tile's overflow counter, which stays at 0xFFFF; that it counts when TST issues is the model's choice (log entry 58). A raw element goes
into the queue in every other READY tile too, where the lane's access goes on. The threads park while the tile is EMPTY, FILLING or
DRAINING, and take TILEBAD where it is FREE. -/
def Sys2Proof.Claim.TileElementStores : Prop :=
  ∀ (s : State) (c : Issue) (w : Workgroup) (g : Guard) (f : BitVec 1) (d a b : RegCode) (x : Word) (ti : Tile), Plain s c w →
    let A := act s c g
    let k := x.toNat % 64
    let row := fun l => (reg s c a.toNat l).toNat
    let col := fun l => (reg s c b.toNat l).toNat
    let E := 2^(ti.desc.toNat / 2^44 % 4)
    let sl := slotOf s c (x.toNat / 64 % 8)
    let raw := fun l => (reg s c d.toNat l).toNat + (if E = 8 then 2^32 * (reg s c (d.toNat + 1) l).toNat else 0)
    let conv := fun l => roundElem (slotElem sl) (slotRound sl) (Config.rho (st0 s).fresh (l % 32) 0).toNat (slotSat sl)
      (f32.decode (reg s c d.toNat l).toNat)
    let put := fun (n l : Nat) => ((toBytes E n).zipIdx).map fun y => (tileAddr ti.desc (row l) (col l * E + y.2), [y.1])
    A ≠ [] → (∀ l ∈ A, ∃ th : Thread, w.threads[l]? = some th ∧ th.ctr.s < 63 ∧ th.sq.length < 8) →
    ((∀ l ∈ A, ∃ y ps lf, (st0 s).tileLane w l k d.toNat (row l) (col l) .write false sl = .go y ps lf) →
      ∃ t, exec (.tst g 0 d a b x) s = .next t ∧ ∀ l ∈ A, ∀ th : Thread, w.threads[l]? = some th →
        ∃ e th', e.seq = s.nextId ∧ t.thread? c.wg l = some th' ∧ th'.sq = th.sq ++ [e] ∧ th'.ctr = { th.ctr with s := th.ctr.s + 1 }) ∧
    (InTile w k ti A row col → (E = 8 → d.toNat % 2 = 0 ∧ d.toNat ≤ 60 ∧ d.toNat + 1 < w.regs) →
      ∃ t, exec (.tst g 0 d a b x) s = .next t ∧ StoreQueues (seen s w) c w A (fun l => .window (put (raw l) l)) true t) ∧
    (InTile w k ti A row col → tileElemOk E (slotElem sl) = true → slotRoundOk sl = true → slotResOk sl = true → ti.ovf ≤ 0xFFFF →
      ∃ t w', exec (.tst g 1 d a b x) s = .next t ∧ t.mem = (seen s w).mem ∧ t.wg? c.wg = some w' ∧ w'.window = w.window ∧
        (∃ y : Tile, w'.tiles[k]? = some y ∧ { y with ovf := ti.ovf, recent := ti.recent } = ti ∧ y.ovf = min (ti.ovf + A.countP fun l => (conv l).sat) 0xFFFF) ∧
        (∀ j, j ≠ k → w'.tiles[j]? = w.tiles[j]?) ∧
        ∀ l ∈ A, ∀ th : Thread, w.threads[l]? = some th → ∃ tr, ((conv l).sat = false → tr = []) ∧ w'.threads[l]? = some { th with
          sq := th.sq ++ [⟨s.clk + 1, s.nextId, .window (put (conv l).bits l ++ tr)⟩], ctr := { th.ctr with s := th.ctr.s + 1 } }) ∧
    (w.tiles[k]? = some ti → ti.view = none → ti.st ≠ .free → ti.st ≠ .ready → ∃ t w', exec (.tst g f d a b x) s = .next t ∧
      OnlyFaults s c w A t ∧ (∀ y ∈ t.bundles, y.wg = c.wg → ∀ l ∈ A, l ∉ y.tids) ∧ t.wg? c.wg = some w' ∧
      ∀ l ∈ A, ∀ th : Thread, w.threads[l]? = some th → ∃ th' : Thread, w'.threads[l]? = some th' ∧ th'.st = .parked (.ready k) ∧
        th'.pc = th.here.pc ∧ th'.mid = some (th.here.hdr, th.here.idx)) ∧
    (w.tiles[k]? = some ti → ti.st = .free → CanTrap s c w (vector s w) A →
      Faults s c w (.tst g f d a b x) A 0x08 (fun _ => BitVec.ofNat 64 k))

/-! Ordering, atomics, barriers and transactions (R155 to R184). -/

namespace Sys2Proof.Claim

/-- An atomic's operation on the old value and the operand, by type and operation code (R168). -/
def atomNew (ty op old b : Nat) : Nat :=
  let n := if ty = 2 ∨ ty = 3 then 64 else 32
  let i := fun x : Nat => (BitVec.ofNat n x).toInt
  let less := if ty = 0 ∨ ty = 2 then decide (i old < i b) else decide (old < b)
  if ty = 4 then match op with
    | 0 => addF32 old b
    | 1 => (minMax1 false ⟨f32, 0, false, 0, 0⟩ old b).1
    | 2 => (minMax1 true ⟨f32, 0, false, 0, 0⟩ old b).1
    | _ => b
  else match op with
  | 0 => (old + b) % 2^n
  | 1 => if less then old else b
  | 2 => if less then b else old
  | 3 => old &&& b
  | 4 => old ||| b
  | 5 => old ^^^ b
  | _ => b

/-- The atomics that an instruction has begun, one for each active thread in ascending order of the bundle, none performed. -/
def AtomsQueue (s : State) (c : Issue) (w : Workgroup) (ts : List Nat) (x : Word) (isC : Bool) (d : Option Nat) (ea b cmp : Nat → Word64)
    (lf : Nat → Leaf) (t : State) : Prop :=
  (∃ due : Nat → Nat, (∀ l, s.clk < due l) ∧ t.atoms = s.atoms ++ ts.zipIdx.map fun y => ({
      id := s.nextId + y.2, due := due y.1, wg := w.uid, tidx := y.1, va := (ea y.1).toNat, pa := (lf y.1).pa, fields := x, isC := isC
      result := d, opB := b y.1, opC := cmp y.1, ca := (lf y.1).c && !(lf y.1).sa && !s.remote (lf y.1).pa, mi := (lf y.1).m
      fwd := false } : AtomOp)) ∧
  t.wgs = (onThreads s c.wg ts fun _ th => { th with ctr := match d with
    | some _ => { th.ctr with l := th.ctr.l + 1 }
    | none => { th.ctr with a := th.ctr.a + 1 } }).wgs ∧
  LoadKeeps s { t with atoms := s.atoms } w.core

/-- A thread has no access that a FENCE could wait for, no held store that is still to be performed, and no write to another package or a
mirror is on its way. -/
def Quiet (s : State) (u l : Nat) : Prop :=
  (∀ th, s.thread? u l = some th → th.sq = []) ∧ (∀ a ∈ s.atoms, ¬ (a.wg = u ∧ a.tidx = l)) ∧
  (∀ h ∈ s.channels, ∀ a ∈ h.queue, ¬ (a.wg = u ∧ a.tidx = l)) ∧ (∀ q ∈ s.cmds, ¬ (q.wg = u ∧ q.tidx = l)) ∧
  (∀ o ∈ s.ops, ¬ (o.wg = u ∧ o.tidx = l)) ∧ s.releasing u l = false ∧ s.ralpex = [] ∧ s.mirrors = []

/-- The issuing word is not over: its bundle stands at it again, each thread at it, and nothing else has changed. -/
def Held (s : State) (c : Issue) (t : State) : Prop :=
  t.cur = none ∧ (∀ b ∈ s.bundles, b.id = c.bundle → { b with idx := c.idx, notBefore := s.clk + 1 } ∈ t.bundles) ∧
  (∀ l ∈ c.tids, ∀ th, t.thread? c.wg l = some th → th.pc = c.addr ∧ th.mid = some (c.hdr, c.idx)) ∧
  { t with cur := s.cur, bundles := s.bundles, wgs := s.wgs, ports := s.ports, fresh := s.fresh } = s

end Sys2Proof.Claim

/-- R166, R174, R175, R181: ATOM, ATOMC and RED in lanes that may access put one atomic in flight for each active thread, with its
operands, place and the leaf's page kind, and raise L with a result and A without; no register changes yet, and no memory but where the
core's L1 writes a dirty byte back. -/
def Sys2Proof.Claim.AtomicsIssue : Prop :=
  ∀ (s : State) (c : Issue) (w : Workgroup) (g : Guard) (f : BitVec 1) (d a b : RegCode) (x : Word) (lf : Nat → Leaf), Plain s c w →
    let A := act s c g
    let ea := fun l => (reg s c (a.toNat + 1) l ++ reg s c a.toNat l : Word64)
    let wide := x.toNat / 16 % 8 = 2 ∨ x.toNat / 16 % 8 = 3
    let opd := fun (r : RegCode) (l : Nat) =>
      if wide then (reg s c (r.toNat + 1) l ++ reg s c r.toNat l : Word64) else (reg s c r.toNat l).setWidth 64
    let dest := if f = 0 then some d.toNat else none
    let room := ∀ l ∈ A, (st0 s).atomLane w (ea l) x = .ok (lf l) ∧ ∃ th : Thread, w.threads[l]? = some th ∧ th.ctr.l < 63 ∧ th.ctr.a < 63
    room →
    (∃ t, exec (.atom g f d a b x) s = .next t ∧ AtomsQueue s c w A x false dest ea (opd b) (fun _ => 0) lf t) ∧
    (∃ t, exec (.atomc g f d a b x) s = .next t ∧ AtomsQueue s c w A x true dest ea (opd b) (opd d) lf t) ∧
    (∃ t, exec (.red g a b x) s = .next t ∧ AtomsQueue s c w A x false none ea (opd b) (fun _ => 0) lf t)

/-- R167, R168, R181: an atomic at its home slice is performed as one step: the location takes the operation's value, every other byte
of memory stands (no completion word and no store of the core to another package stands there); a result form puts the old value in flight for its register, counted on L, and a form without lowers A. -/
def Sys2Proof.Claim.AtomicsPerform : Prop :=
  ∀ (s : State) (a : AtomOp) (w : Workgroup), s.atoms.find? s.atomReady = some a → s.wg? a.wg = some w → w.redun = none →
    3 ≤ a.fields.toNat / 256 % 8 ∨ a.ca = false → a.mi = false → s.remote a.pa = false → isIo a.pa = false → s.poisoned a.pa 8 = false →
    s.routed (dieOf w.core) (homeDie a.pa) = true → s.l1Find w.core (sectorOf a.pa) = none → s.mem.wf = true → s.underway w.core = [] →
    (∀ x ∈ s.cwords, a.pa + 8 ≤ x ∨ x + 8 ≤ a.pa) →
    let ty := a.fields.toNat / 16 % 8
    let n := if ty = 2 ∨ ty = 3 then 8 else 4
    let old := s.mem.readNat a.pa n
    let b := a.opB.toNat % 2^(8 * n)
    let new := if a.isC then (if old = a.opC.toNat % 2^(8 * n) then b else old) else atomNew ty (a.fields.toNat % 16) old b
    ∃ t, exec .atomicPerformed s = .next t ∧ t.mem.readNat a.pa n = new % 2^(8 * n) ∧
      (∀ x, ¬ (a.pa ≤ x ∧ x < a.pa + n) → t.mem.get x = s.mem.get x) ∧ t.atoms = s.atoms.filter (·.id != a.id) ∧
      (∀ d, a.result = some d → t.wgs = s.wgs ∧ ∃ p : Pend, t.pend = s.pend ++ [p] ∧ p.due = s.clk ∧ p.seq = (if a.id = 0 then s.nextId else a.id) ∧
        p.ctr = some .l ∧ p.load = true ∧ p.poison = [] ∧ p.tids = [a.tidx] ∧
        Gives p a.wg [a.tidx] ((d, fun _ => BitVec.ofNat 32 old) :: if n = 8 then [(d + 1, fun _ => BitVec.ofNat 32 (old / 2^32))] else []) []) ∧
      (a.result = none → t.pend = s.pend ∧ ∀ th : Thread, w.threads[a.tidx]? = some th → th.fell = [] → th.born ≤ a.id →
        (∀ y ∈ s.atoms, y.id < a.id → ¬ (y.wg = a.wg ∧ y.tidx = a.tidx)) → (∀ p ∈ s.pend, p.wg = a.wg → p.ctr ≠ some .a) →
        t.thread? a.wg a.tidx = some { th with ctr := { th.ctr with a := th.ctr.a - 1 } })

/-- R157, R176: FENCE with an empty set, or in threads with no access outstanding, lets the bundle go on: with W in either set and a scope
of RECT or wider, or from W to engines, the core's dirty sectors are written back; with R in the successor set its L1 copies are discarded at such a
scope, and below it, with engine writes or reductions in the predecessor set, those that engines have written behind. It holds the bundle at
the word while a thread's stores stand in its queue and the predecessor set has W, or an atomic without result and AN. -/
def Sys2Proof.Claim.FenceOrders : Prop :=
  ∀ (s : State) (c : Issue) (g : Guard) (k : BitVec 3) (x : Word), s.cur = some c →
    let A := act s c g
    let s0 := st0 s
    let pred := x.toNat % 256
    let succ := x.toNat / 256 % 256
    let s1 := if ((pred.testBit 1 || succ.testBit 1) && decide (3 ≤ k.toNat)) || (pred.testBit 1 && (succ.testBit 2 || succ.testBit 4)) then
      s0.l1Release c.core else s0
    (pred = 0 ∨ succ = 0 → exec (.fence g k x) s = .next s0) ∧
    (pred ≠ 0 → succ ≠ 0 → A ≠ [] → (∀ l ∈ A, Quiet s c.wg l) → exec (.fence g k x) s = .next (
      if succ.testBit 0 = false then s1 else if 3 ≤ k.toNat then s1.l1Acquire c.core
      else if pred.testBit 3 || pred.testBit 5 || pred.testBit 6 then s1.l1Observe c.core else s1)) ∧
    (pred ≠ 0 → succ ≠ 0 → (∃ l ∈ A, (pred.testBit 1 = true ∧ ∃ th, s.thread? c.wg l = some th ∧ th.sq ≠ []) ∨
      (pred.testBit 6 = true ∧ ∃ a ∈ s.atoms, a.wg = c.wg ∧ a.tidx = l ∧ a.result = none)) →
      ∃ t, exec (.fence g k x) s = .next t ∧ Held s c t)

/-- R72, R157, R178: WAITV in lanes whose word is in memory of the package blocks those whose condition does not hold, and the others
go on after an acquire at SYSTEM; WAITV_REREAD ends the wait of a thread whose word has come to satisfy it. -/
def Sys2Proof.Claim.WaitOnAWord : Prop :=
  ∀ (s : State) (c : Issue) (w : Workgroup) (g : Guard) (k : BitVec 3) (d a : RegCode) (off : Off) (lf : Nat → Leaf), Plain s c w →
    let A := act s c g
    let ea := gea s c a off 4
    let v := fun l => reg s c d.toNat l
    let m := fun l => (BitVec.ofNat 32 (s.mem.readNat (lf l).pa 4) : Word)
    let holds := fun (m v : Word) => match k.toNat with
      | 0 => m = v
      | 1 => m ≠ v
      | 2 => v.toNat ≤ m.toNat
      | 3 => m.toNat < v.toNat
      | 4 => v.toInt ≤ m.toInt
      | _ => m.toInt < v.toInt
    s.l1 = [] → (∀ l ∈ A, (st0 s).access w .read (ea l) (.sized 4) = .ok (lf l) ∧ isIo (lf l).pa = false ∧
      (∃ th : Thread, w.threads[l]? = some th ∧ th.sq = []) ∧ (∀ a ∈ s.atoms, ¬ (a.wg = c.wg ∧ a.tidx = l)) ∧ s.ownedBy (dieOf w.core) (lf l).pa 4 none = false ∧
      s.sentTo w.core (lf l).pa 4 = false ∧
      (st0 s).readPoisoned w.core (lf l).pa 4 false = false) →
    ((∀ l ∈ A, holds (m l) (v l)) → exec (.waitv g k d a off) s = .next (st0 s)) ∧
    ((∀ l ∈ A, ¬ holds (m l) (v l)) → ∃ t, exec (.waitv g k d a off) s = .next t ∧
      Blocks s c w A (fun l => .waitv k.toNat (ea l).toNat (v l) (s.external w.ctx (ea l).toNat (lf l).pa)) none t)

/-- R178: WAITV_REREAD takes the first waiting thread whose word satisfies its condition: it is a candidate again behind an acquire at
SYSTEM; nothing else changes. -/
def Sys2Proof.Claim.WaitvRereadReleases : Prop :=
  ∀ (s : State) (w : Workgroup) (l : Nat) (th : Thread) (va : Nat) (m : Word), w.redun = none → s.wgs = [w] → w.threads[l]? = some th →
    (∀ j (y : Thread), j < l → w.threads[j]? = some y → s.rereadFate w j y = none) → s.rereadFate w l th = some (va, .met m) →
    ∃ (t : State) (w' : Workgroup), exec .waitvReread s = .next t ∧ t.wgs = [w'] ∧
      w'.threads[l]? = some { th with st := .ready, since := s.clk, notBefore := s.clk, wake := none } ∧
      (∀ j, j ≠ l → w'.threads[j]? = w.threads[j]?) ∧ { w' with threads := w.threads } = w ∧
      { t with wgs := s.wgs } = s.l1Acquire w.core

/-- R72, R179: BAR and BARX block each active thread whose stores are performed at the core; the arrivals that complete the phase make
it the next one, set the barrier free and wake every waiter 8 clk later; ARRIVE gives the phase before its arrival, AWAITB blocks
while its phase is the barrier's. Here one thread arrives. A count outside 1 to THREADS raises ILLOP. -/
def Sys2Proof.Claim.WorkgroupBarriers : Prop :=
  ∀ (s : State) (c : Issue) (w : Workgroup) (g : Guard) (k : BitVec 4) (a : Src) (d : RegCode) (l : Nat) (th : Thread) (b : Barrier),
    Plain s c w → act s c g = [l] → w.threads[l]? = some th → th.sq = [] → (∀ a ∈ s.atoms, ¬ (a.wg = c.wg ∧ a.tidx = l)) →
    w.barriers[k.toNat]? = some b → th.st = .live →
    let N := w.threads.length
    let exited := fun (e : Nat) => if e = N then (w.threads.filter fun t => !t.unexited).length else 0
    let n := (val s c a l).toNat
    let after := fun (e : Nat) (t : State) => ∃ (w' : Workgroup) (b' : Barrier), t.wg? c.wg = some w' ∧ w'.barriers[k.toNat]? = some b' ∧
      (b.arrived + 1 < e - exited e → b' = ⟨e, b.arrived + 1, b.phase⟩) ∧
      (e ≠ 0 → e - exited e ≤ b.arrived + 1 → b' = ⟨0, 0, (b.phase + 1) % 256⟩ ∧
        ∀ (j : Nat) (y : Thread), j ≠ l → w.threads[j]? = some y → y.st = .blocked (.bar k.toNat b.phase) → y.wake = none →
          w'.threads[j]? = some { y with wake := some (s.clk + 8) })
    let e := fun (m : Nat) => if b.expected = 0 then m else b.expected
    let blocked := fun (t : State) => ∃ y, t.thread? c.wg l = some y ∧ y.st = .blocked (.bar k.toNat b.phase)
    (∃ t, exec (.bar g k) s = .next t ∧ after (e N) t ∧ blocked t) ∧
    (1 ≤ n ∧ n ≤ N → ∃ t, exec (.barx g a k) s = .next t ∧ after (e n) t ∧ blocked t) ∧
    (∃ (t : State) (p : Pend), exec (.arrive g 0 d a k) s = .next t ∧ after (e N) t ∧ t.pend = s.pend ++ [p] ∧ p.due = s.clk + 8 ∧
      Gives p c.wg [l] [(d.toNat, fun _ => BitVec.ofNat 32 b.phase)] []) ∧
    (1 ≤ n ∧ n ≤ N → ∃ (t : State) (p : Pend), exec (.arrive g 1 d a k) s = .next t ∧ after (e n) t ∧ t.pend = s.pend ++ [p] ∧ p.due = s.clk + 8 ∧
      Gives p c.wg [l] [(d.toNat, fun _ => BitVec.ofNat 32 b.phase)] []) ∧
    (n % 256 ≠ b.phase → exec (.awaitb g a k) s = .next (st0 s)) ∧
    (n % 256 = b.phase → ∃ t, exec (.awaitb g a k) s = .next t ∧ Blocks s c w [l] (fun _ => .awaitb k.toNat b.phase) none t) ∧
    (n = 0 ∨ N < n → CanTrap s c w (vector s w) [l] → Faults s c w (.barx g a k) [l] 0x01 fun _ => 0)

/-- R180: GSYNC of a COOP launch blocks threads whose stores are performed, after the core's dirty sectors are written back; without
COOP it raises ILLOP. BARRIER_RELEASE releases every thread of a running workgroup whose wake time has come. -/
def Sys2Proof.Claim.GridArrivalAndBarrierRelease : Prop :=
  (∀ (s : State) (c : Issue) (w : Workgroup) (g : Guard), s.cur = some c → s.wg? c.wg = some w →
    let A := act s c g
    ((s.lrOf w).coop = true → (∀ l ∈ A, Quiet s c.wg l) → A ≠ [] →
      ∃ t, exec (.gsync g) s = .next t ∧ Blocks ((st0 s).l1Release c.core) c w A (fun _ => .gsync) none t) ∧
    ((s.lrOf w).coop = false → CanTrap s c w (vector s w) A → Faults s c w (.gsync g) A 0x01 fun _ => 0)) ∧
  (∀ (s : State) (w : Workgroup), s.wgs.find? (fun w => s.wgRuns w && w.threads.any (barrierDue s)) = some w →
    ∃ t, exec .barrierRelease s = .next t ∧ t = { s with wgs := s.wgs.map fun v => if v.uid = w.uid then { v with
      threads := v.threads.map fun th => if barrierDue s th then { th with st := .ready, since := s.clk, notBefore := s.clk, wake := none }
        else th } else v })

/-- R169 to R173, R182 to R184: TBEGIN opens a transaction in threads whose stores are performed, or has a thread with 8 aborts wait for
the token, which TOKEN_GRANT gives to the first waiter; TEND of one lane performs the buffered stores and resets the abort count where
every sector of the read set holds what was read and no token holder owns one, and otherwise, without the token, aborts with CONFLICT;
TABORT aborts with its code; TSTAT reads the status word. Outside a transaction TEND and TABORT raise TXFAULT. -/
def Sys2Proof.Claim.Transactions : Prop :=
  ∀ (s : State) (c : Issue) (w : Workgroup) (g : Guard) (o : BitVec 21) (b : Src) (d : RegCode) (l : Nat) (th : Thread), Plain s c w →
    act s c g = [l] → w.threads[l]? = some th → s.l1 = [] → s.owned = [] →
    let aborted := fun (cause fcode code : Nat) (t : State) => ∃ y, t.thread? c.wg l = some y ∧ y = { th with
      pc := th.tx.target, mid := none, st := .ready, since := s.clk, notBefore := s.clk, wake := none
      tx := { th.tx with active := false, reads := [], wsecs := [], writes := [], msecs := [], aborts := min 15 (th.tx.aborts + 1), token := false
                         fcode := if cause = 5 then fcode else th.tx.fcode, cause := cause, code := code } } ∧ t.mem = s.mem
    let closed := { th.tx with active := false, reads := [], wsecs := [], writes := [], msecs := [], aborts := 0, token := false }
    let holds := ∀ r ∈ th.tx.reads, s.pkgRead (128 * r.1) r.2.length = r.2
    (th.sq = [] → th.tx.aborts < 8 → ∃ t, exec (.tbegin g o) s = .next t ∧ t = onThreads (st0 s) c.wg [l] fun _ th => { th with
      tx := { th.tx with active := true, target := target c o, reads := [], wsecs := [], writes := [], msecs := [], token := false } }) ∧
    (th.sq = [] → 8 ≤ th.tx.aborts → ∃ t y, exec (.tbegin g o) s = .next t ∧ t.thread? c.wg l = some y ∧ y.st = .blocked .token ∧
      y.tx = { th.tx with target := target c o } ∧
      ∀ x ∈ s.launches, x.id = w.launch → { x with tokenQueue := x.tokenQueue ++ [(c.wg, l)] } ∈ t.launches) ∧
    (th.tx.active = true → th.tx.msecs = [] → holds → ∃ t, exec (.tend g) s = .next t ∧ t.thread? c.wg l = some { th with tx := closed } ∧
      t.mem = th.tx.writes.foldl (fun m y => m.write y.1 y.2) s.mem) ∧
    (th.tx.active = true → th.tx.token = false → ¬ holds → ∃ t, exec (.tend g) s = .next t ∧ aborted 1 0 0 t) ∧
    (th.tx.active = true → ∃ t, exec (.tabort g b) s = .next t ∧ aborted 6 0 ((val s c b l).toNat % 256) t) ∧
    (th.tx.active = false → CanTrap s c w (vector s w) [l] →
      Faults s c w (.tend g) [l] 0x0B (fun _ => 0) ∧ Faults s c w (.tabort g b) [l] 0x0B (fun _ => 0)) ∧
    (∃ t, exec (.tstat g d) s = .next t ∧ Lands s c 4 [l] [(d.toNat, fun _ => BitVec.ofNat 32 ((if th.tx.active then 2^31 else 0) +
      (if th.tx.token then 2^30 else 0) + th.tx.aborts * 2^24 + th.tx.fcode * 2^16 + th.tx.cause * 2^8 + th.tx.code))] [] t)

/-- R172: the serialisation token of a launch, while nobody holds it, goes to the thread at the head of its queue, whose TBEGIN completes
with the transaction open and the token held. -/
def Sys2Proof.Claim.TokenGrantOpensTheTransaction : Prop :=
  ∀ (s : State) (x : Launch) (w : Workgroup) (u l : Nat) (q : List (Nat × Nat)) (th : Thread), s.launches = [x] → x.tokenHolder = none →
    x.tokenQueue = (u, l) :: q → s.wg? u = some w → s.wgRuns w = true → w.threads[l]? = some th → th.st = .blocked .token →
    ∃ t, exec .tokenGrant s = .next t ∧ t.launches = [{ x with tokenHolder := some (u, l), tokenQueue := q }] ∧
      t.thread? u l = some { th with
        st := .ready, since := s.clk, notBefore := s.clk, wake := none
        tx := { th.tx with active := true, reads := [], wsecs := [], writes := [], msecs := [], token := true } } ∧
      { t with launches := s.launches, wgs := s.wgs } = s

/-! Exits, views and blanks (R87, R296 to R317). -/

namespace Sys2Proof.Claim

/-- A thread at its end (R87): no task, no meet address, blocked by nothing. -/
def ended (th : Thread) : Thread :=
  { th with st := .exited, meet := none, mid := none, task := none, seed := false, wake := none, wd := none }

/-- The one active thread runs a task. -/
def TaskThread (s : State) (c : Issue) (w : Workgroup) (g : Guard) (l : Nat) (th : Thread) : Prop :=
  Plain s c w ∧ act s c g = [l] ∧ w.threads[l]? = some th ∧ th.task.isSome = true

/-- No table entry of a view is still being made (R312, R314). -/
def NoMakes (s : State) : Prop := ∀ p ∈ s.pend, p.makes = []

/-- Views of a workgroup by entry, each once, with no merge assigned anywhere or about to be, and no entry still being made. -/
def ViewsSound (s : State) (w : Workgroup) : Prop :=
  (w.views.map View.entry).Nodup ∧ s.merges = [] ∧ s.mergeEvents = [] ∧ NoMakes s

end Sys2Proof.Claim

/-- R87, R179: EXIT ends each active thread that owns no view and has no transaction; it may complete barrier phases that count exits,
and changes nothing else but the bundles. A thread with an open transaction aborts it with cause FAULT and takes TXFAULT at EXIT. -/
def Obligations.ExitEndsThreads : Prop :=
  ∀ (s : State) (c : Issue) (w : Workgroup) (g : Guard), Plain s c w → ViewsSound s w → w.views = [] →
    let A := act s c g
    ((∀ l ∈ A, ∃ th : Thread, w.threads[l]? = some th ∧ th.tx.active = false) → ∃ t w', exec (.exit g) s = .next t ∧ t.wg? c.wg = some w' ∧
      (∀ l ∈ A, ∀ th : Thread, w.threads[l]? = some th → w'.threads[l]? = some (ended th)) ∧
      (∀ k (th : Thread), k ∉ A → w.threads[k]? = some th → ∃ wake, w'.threads[k]? = some { th with wake := wake }) ∧
      { w' with threads := w.threads, barriers := w.barriers } = w ∧ (∀ b ∈ t.bundles, b.wg = c.wg → ∀ l ∈ A, l ∉ b.tids) ∧
      (∀ u, u ≠ c.wg → t.wg? u = s.wg? u) ∧ { t with wgs := s.wgs, bundles := s.bundles, fresh := s.fresh } = s) ∧
    (∀ l (th : Thread), A = [l] → w.threads[l]? = some th → th.tx.active = true → CanTrap s c w (vector s w) A →
      ∃ t y, exec (.exit g) s = .next t ∧ t.thread? c.wg l = some y ∧ t.mem = s.mem ∧
        Entered { th with tx := { th.tx with active := false, reads := [], wsecs := [], writes := [], msecs := [], token := false
                                             aborts := min 15 (th.tx.aborts + 1), fcode := 0x0B, cause := 5, code := 0 } }
          (BitVec.ofNat 48 (vector s w)) 0x0B 0 (c.addr.setWidth 64) (clsWord c) s.clk y)

/-- R296, R297, R303, R312, R314: VDECL over a READY tile of the window and VTILE of a FREE tile number and a child view raise V and put
the entry to be made in flight, due 8 clk later, nothing else changed; when it lands the root view stands in the table and its slot with
its tile bound, or the tile is READY, bound to the child's blank. -/
def Sys2Proof.Claim.ViewDeclaration : Prop :=
  (∀ (s : State) (c : Issue) (w : Workgroup) (g : Guard) (k o : BitVec 6) (j : BitVec 3) (l : Nat) (th : Thread), TaskThread s c w g l th →
    th.ctr.v < 63 → NoMakes s →
    let makes := fun (i : Instr) (m : Make) => ∃ (t : State) (p : Pend), exec i s = .next t ∧
      t = { onThreads s c.wg [l] (fun _ th => { th with ctr := { th.ctr with v := th.ctr.v + 1 } }) with
        pend := s.pend ++ [p], nextId := t.nextId, fresh := s.fresh + 1 } ∧
      p.due = s.clk + 8 ∧ p.wg = c.wg ∧ p.ctr = some .v ∧ p.tids = [l] ∧ p.regs = [] ∧ p.preds = [] ∧ p.makes = [(l, m)]
    (∀ x : Tile, w.tiles[k.toNat]? = some x → x.st = .ready → x.view = none → x.bound = false →
      2^(x.desc.toNat / 2^44 % 4) = (if o = 1 then 8 else 4) → th.vs.getD j.toNat none = none → w.views.length < w.nviews →
      makes (.vdecl g k o j) (.root k.toNat o.toNat j.toNat x.desc)) ∧
    (∀ (x : Tile) e v, w.tiles[k.toNat]? = some x → x.st = .free → th.vs.getD j.toNat none = some e → w.views.find? (·.entry == e) = some v →
      v.root = false → makes (.vtile g k j) (.bind k.toNat e))) ∧
  (∀ (s : State) (w : Workgroup) (p : Pend) (l : Nat) (th : Thread) (m : Make), s.nextLanding false = some p → p.regs = [] → p.preds = [] →
    p.flags = [] → p.sys = [] → p.poison = [] → p.late = none → p.makes = [(l, m)] → s.wg? p.wg = some w → w.threads[l]? = some th →
    ∃ t w', exec .resultLands s = .next t ∧ t.wg? p.wg = some w' ∧ t.mem = s.mem ∧
      (∀ k o j d, m = .root k o j d → w.views.length < 128 → ∃ v : View, w'.views = w.views ++ [v] ∧
        v = ⟨v.entry, l, j, true, o, d, .tile k, .live, none, 0, 0, false, 0⟩ ∧ v.entry ∉ w.views.map View.entry ∧
        w'.tiles[k]? = (w.tiles[k]?).map (fun x => { x with bound := true }) ∧ (∀ i, i ≠ k → w'.tiles[i]? = w.tiles[i]?) ∧
        ∃ y, w'.threads[l]? = some y ∧ y.vs = th.vs.set j (some v.entry)) ∧
      (∀ k e v x, m = .bind k e → w.views.find? (·.entry == e) = some v → w.tiles[k]? = some x → w'.views = w.views ∧
        w'.tiles[k]? = some ⟨.ready, v.desc, descBytes v.desc, descBytes v.desc, 0, (0, 0, 0), some e, false, x.readers, x.lent⟩ ∧
        (∀ i, i ≠ k → w'.tiles[i]? = w.tiles[i]?) ∧ ∃ y, w'.threads[l]? = some y ∧ y.vs = th.vs))

/-- R311, R317: VQRY writes the view's state word, its ID, its parent, its index or the thread's merge fault word, 0 for an empty slot, 8
clk later, counted on V. The instructions of views raise ILLOP in threads that run no task. -/
def Sys2Proof.Claim.ViewQueriesAndTasklessThreads : Prop :=
  (∀ (s : State) (c : Issue) (w : Workgroup) (g : Guard) (d : RegCode) (e : BitVec 6) (l : Nat) (th : Thread), TaskThread s c w g l th →
    th.ctr.v < 63 →
    let view := (th.vs.getD (e.toNat % 8) none).bind fun n => w.views.find? (·.entry == n)
    let ide := fun (p : Nat × Nat) => 128 * p.1 + p.2
    let tile := fun (v : View) => match v.store with
      | .tile k => some k
      | _ => (w.tiles.zipIdx.find? fun x => x.1.view == some v.entry).map (·.2)
    let word : Nat := if e.toNat / 8 = 4 then th.mergeFault.toNat else match view with
      | none => 0
      | some v => match e.toNat / 8 with
        | 0 => 2^31 + (if v.root then 2^30 else 0) + (match v.st with | .live => 0 | .soldering => 1 | .merged => 2 | .faulted => 3) * 2^28 +
            (match v.store with | .spill .. => 2^27 | _ => 0) + (match tile v with | some k => 2^26 + k * 2^20 | none => 0) + v.op * 2^16 +
            v.counter % 2^16
        | 1 => ide (w.g, v.entry)
        | 2 => match v.parent with
          | some p => 2^31 + ide p
          | none => 0
        | _ => if v.root then 0 else v.index
    ∃ (t : State) (p : Pend), exec (.vqry g d e) s = .next t ∧ t.pend = s.pend ++ [p] ∧ p.due = s.clk + 8 ∧ p.ctr = some .v ∧
      Gives p c.wg [l] [(d.toNat, fun _ => BitVec.ofNat 32 word)] [] ∧ t.mem = s.mem ∧
      t.wgs = (onThreads s c.wg [l] fun _ th => { th with ctr := { th.ctr with v := th.ctr.v + 1 } }).wgs) ∧
  (∀ (s : State) (c : Issue) (w : Workgroup) (g : Guard) (k o q : BitVec 6) (j : BitVec 3) (d : RegCode) (p : PredCode) (a : RegCode),
    Plain s c w → (∀ l ∈ act s c g, ∃ th : Thread, w.threads[l]? = some th ∧ th.task = none) → CanTrap s c w (vector s w) (act s c g) →
    ∀ i ∈ [Instr.vdecl g k o j, .spawn g p a q, .vtile g k j, .solder g, .vsync g, .vqry g d o], Faults s c w i (act s c g) 0x01 fun _ => 0)

/-- R300, R301, R313: SPAWN of a thread that runs a task puts its entry on the way to the queue's home die, with V raised: with an empty
mask as QPUT does; with views in the mask, live all, it also reserves their record and the blanks' space in the spill area, and where
there is no room the predicate becomes false and nothing is offered. A queue that is off or not the launch's raises PERMISSION, unless
the record's write raises the lower PAGEFAULT. -/
def Sys2Proof.Claim.SpawnOffersAChild : Prop :=
  ∀ (s : State) (c : Issue) (w : Workgroup) (g : Guard) (d : PredCode) (a : RegCode) (q : BitVec 6) (l : Nat) (th : Thread),
    TaskThread s c w g l th → Quiet s c.wg l → th.ctr.v < 63 → s.l1 = [] → w.ctx < s.contexts.length →
    let on := s.tqEnabled w.ctx q.toNat && (s.lrOf w).qmask.getLsbD q.toNat
    let num := (s.ctx w.ctx).newRecord
    let mask := (List.range 8).filter fun i => (reg s c (a.toNat + 7) l).getLsbD i
    let views := mask.map fun i => (th.vs.getD i none).bind fun n => w.views.find? (·.entry == n)
    let room := fun (n : Nat) => (s.ctx w.ctx).reserve n (64 :: views.map fun v => roundUp ((v.map fun v => descBytes v.desc + 4).getD 0) 4096)
    let raised := fun (t : State) => t.thread? c.wg l = some { th with ctr := { th.ctr with v := th.ctr.v + 1 } } ∧ t.mem = s.mem
    let offers := fun (t : State) (rec_ : Nat) => ∃ p : Put, t.puts = s.puts ++ [p] ∧ p.ctx = w.ctx ∧ p.queue = q.toNat ∧ p.wg = c.wg ∧ p.tidx = l ∧
      p.d = d.toNat ∧ s.clk < p.due ∧ p.till = none ∧ p.mask = mask ∧ p.entry.spawn = rec_ ∧ p.entry.queue = q.toNat ∧ p.host = false
    (on = true → mask = [] → ∃ t, exec (.spawn g d a q) s = .next t ∧ raised t ∧ offers t 0 ∧ t.pend = s.pend) ∧
    (on = true → mask ≠ [] → (∀ v ∈ views, ∃ x, v = some x ∧ x.st = .live) → room num = none →
      ∃ (t : State) (p : Pend), exec (.spawn g d a q) s = .next t ∧ raised t ∧ t.puts = s.puts ∧ t.contexts = s.contexts ∧ t.pend = s.pend ++ [p] ∧
        Gives p c.wg [l] [] [(d.toNat, fun _ => false)]) ∧
    (∀ k lf, on = true → mask ≠ [] → (∀ v ∈ views, ∃ x, v = some x ∧ x.st = .live) → room num = some k →
      (st0 s).devTranslate w.ctx .write (k.desc.vspill + k.recordOff num) = .ok lf →
      ∃ t, exec (.spawn g d a q) s = .next t ∧ raised t ∧ offers t num ∧ t.ctx w.ctx = k ∧ t.pend = s.pend) ∧
    (on = false → (∀ k, room num = some k → ∃ lf, (st0 s).devTranslate w.ctx .write (k.desc.vspill + k.recordOff num) = .ok lf) →
      CanTrap s c w (vector s w) [l] → Faults s c w (.spawn g d a q) [l] 0x05 fun _ => 0)

/-- R300, R314 to R316: SOLDER of a task's thread whose stores are performed frees its view tiles and closes its open families; with one
open it waits; with none its root views are gone, its other live views are SOLDERING, and the thread has ended if it had no view, else
it waits until its views' merges have found their carriers. VSYNC closes the families and waits, 8 clk where none is open, its views and tiles as they were. -/
def Sys2Proof.Claim.SolderAndVsync : Prop :=
  ∀ (s : State) (c : Issue) (w : Workgroup) (g : Guard) (l : Nat) (th : Thread), TaskThread s c w g l th → Quiet s c.wg l → s.puts = [] →
    s.l1 = [] → ViewsSound s w →
    let mine := w.viewsOf l
    let stays := fun (t : State) (wait : Wait) (w' : Workgroup) => t.wg? c.wg = some w' ∧ (∃ y : Thread, w'.threads[l]? = some y ∧ y.st = .blocked wait) ∧
      w'.views = w.views.map (fun v => if v.entry ∈ mine.map View.entry ∧ v.counter ≠ 0 then { v with closed := true } else v) ∧
      (∀ i, i ≠ l → w'.threads[i]? = w.threads[i]?) ∧ w'.window = w.window ∧ t.mem = s.mem
    let tiles := w.tiles.map fun x => match x.view.bind w.view? with
      | some v => if v.owner = l then { Tile.free with readers := x.readers, lent := x.lent } else x
      | none => x
    ((∃ v ∈ mine, v.counter ≠ 0) → (∀ x ∈ w.viewTiles l, x.st ≠ .filling ∧ x.st ≠ .draining) → ∃ t w', exec (.solder g) s = .next t ∧
      stays t .solder w' ∧ w'.tiles = tiles) ∧
    ((∀ v ∈ mine, v.counter = 0) → (∀ x ∈ w.viewTiles l, x.st ≠ .filling ∧ x.st ≠ .draining) → ∃ (t : State) (w' : Workgroup) (y : Thread), exec (.solder g) s = .next t ∧
      t.wg? c.wg = some w' ∧ w'.threads[l]? = some y ∧ y.st = (if mine = [] then .exited else .blocked .solder) ∧
      (∀ v ∈ mine, v.st = .live → if v.root then w'.view? v.entry = none else w'.view? v.entry = some { v with st := .soldering }) ∧
      (∀ v ∈ w.views, v ∉ mine → w'.view? v.entry = some v) ∧ t.mem = s.mem) ∧
    (∃ (t : State) (w' : Workgroup) (y : Thread), exec (.vsync g) s = .next t ∧ stays t .vsync w' ∧ w'.tiles = w.tiles ∧ w'.threads[l]? = some y ∧
      y.wake = if mine.any (·.counter != 0) then none else some (s.clk + 8))

/-- R298, R135: a merge combines every element of the target with the source's at the same place, under the tile's pitch and swizzle, by
the view's operator, and leaves every byte that belongs to no element as the target has it. A swizzled tile has rows of 128 bytes (R131). -/
def Sys2Proof.Claim.MergeCombinesElements : Prop :=
  ∀ (op : Nat) (d : Word64) (t x : List Byte), op ≤ 9 → t.length = descBytes d + 4 → x.length = descBytes d + 4 → (descSwz d = 1 → descPitch d = 128) →
    let e := if op = 1 then 8 else 4
    let r := (mergeBytes op d t x).1
    let off := fun (row o : Nat) => row * descPitch d + (if descSwz d = 1 then 4 * ((o / 4) ^^^ (row % 32)) + o % 4 else o)
    let at_ := fun (bs : List Byte) (row col : Nat) => leNat ((List.range e).map fun i => bs.getD (off row (col * e + i)) 0)
    let f := fun a b : Nat => match op with
      | 0 => (a + b) % 2^32
      | 1 => (a + b) % 2^64
      | 3 => if (BitVec.ofNat 32 b).toInt < (BitVec.ofNat 32 a).toInt then b else a
      | 5 => if (BitVec.ofNat 32 a).toInt < (BitVec.ofNat 32 b).toInt then b else a
      | 7 => a ||| b
      | 8 => a &&& b
      | 9 => a ^^^ b
      | _ => (mergeElem op a b).1
    r.length = t.length ∧ (∀ row col, row < descRows d → col < descPitch d / e → at_ r row col = f (at_ t row col) (at_ x row col) % 2^(8 * e)) ∧
    ∀ i, descBytes d ≤ i → r.getD i 0 = t.getD i 0

/-- R307: MERGE of a blank held in granules into another, or into a root view's tile, where the carrier's core has room for the shadow and
no invalid operation traps, computes the shadow and is due after 24 clk and 2 for each 128 bytes, 3 into a root's tile; neither view, no tile
and no memory changes. MERGE_COMMIT of a sibling's merge makes the shadow the target's storage, counts it, and frees the source; one into a
root's tile writes the shadow's bytes into the window at the tile, but for its trailer, every other byte of the window as it was. -/
def Sys2Proof.Claim.MergesRunAndCommit : Prop :=
  ∀ (s : State) (m : MergeJob) (w x y : Workgroup) (a b : View) (ms : Mem) (ka : Nat), s.merges = [m] →
    s.wg? m.carrier.1 = some w → s.wg? m.src.1 = some x → s.wg? m.tgt.1 = some y → x.view? m.src.2 = some a → y.view? m.tgt.2 = some b →
    a.store = .local_ ka ms →
    let n := descBytes b.desc + 4
    let base := descBase b.desc
    let starts := fun (tgt : List Byte) (k : Nat) =>
      let r := mergeBytes b.op b.desc tgt (ms.read 0 (descBytes a.desc + 4))
      s.mergeStarts m = true → roundUp n 4096 ≤ s.lsFree w.core → r.2 = false →
      ∃ t, exec .merge s = .next t ∧ { t with merges := s.merges, fresh := s.fresh } = s ∧
        t.merges = [{ m with shadow := some r.1, off := none, due := s.clk + 24 + k * ((n + 127) / 128) }]
    (∀ kb mt, b.root = false → b.store = .local_ kb mt → starts (mt.read 0 n) 2) ∧
    (∀ kt, b.root = true → b.store = .tile kt → y.poison = [] → starts ((List.range n).map fun i => y.winByte (base + i)) 3) ∧
    (∀ bs kt, s.l1 = [] → s.mergeCommits m = true → m.shadow = some bs → m.off = none → b.store = .tile kt → y.window.wf = true →
      ∃ t y', exec .mergeCommit s = .next t ∧ t.wg? m.tgt.1 = some y' ∧
        (∀ i, y'.window.get i = if base ≤ i ∧ i < base + descBytes b.desc ∧ i < base + bs.length ∧ y.lsBad i = none then bs.getD (i - base) 0
          else y.window.get i) ∧
        (∀ x', t.wg? m.src.1 = some x' → x'.view? m.src.2 = none) ∧ (∀ k ∈ t.merges, k.id ≠ m.id ∨ k ∉ s.merges) ∧ t.mem = s.mem) ∧
    (∀ bs kb mt, b.root = false → b.store = .local_ kb mt → s.l1 = [] → s.mergeCommits m = true → m.shadow = some bs → m.off = none →
      a.index ≠ 0 → b.st ≠ .live →
      (y.views.map View.entry).Nodup → (x.views.map View.entry).Nodup → m.src ≠ m.tgt →
      ∃ t y', exec .mergeCommit s = .next t ∧ t.wg? m.tgt.1 = some y' ∧
        y'.view? m.tgt.2 = some { b with store := .local_ w.core (Mem.write [] 0 bs), recv := b.recv + 1 } ∧
        (∀ x', t.wg? m.src.1 = some x' → x'.view? m.src.2 = none) ∧ (∀ k ∈ t.merges, k.id ≠ m.id ∨ k ∉ s.merges) ∧ t.mem = s.mem)

/-! Launches, queues and tasks (R261 to R295). -/

namespace Sys2Proof.Claim

/-- An instruction result counted on V for these threads, due later, and nothing else but the count. -/
def LandsOnV (s : State) (c : Issue) (ts : List Nat) (t : State) (p : Pend) : Prop :=
  t.pend = s.pend ++ [p] ∧ s.clk < p.due ∧ p.wg = c.wg ∧ p.tids = ts ∧ p.ctr = some .v ∧
  t.wgs = (onThreads s c.wg ts fun _ th => { th with ctr := { th.ctr with v := th.ctr.v + 1 } }).wgs ∧
  { t with pend := s.pend, nextId := s.nextId, fresh := s.fresh, wgs := s.wgs } = s

/-- The task queue of a context. -/
def tqOf (s : State) (n q : Nat) : Option TaskQueue := (s.ctx n).tqs[q]?

/-- A queue changes as `f` says, and no other queue of any context does. -/
def OnlyTq (s t : State) (n q : Nat) (f : TaskQueue → TaskQueue) : Prop :=
  (∀ x, tqOf s n q = some x → tqOf t n q = some (f x)) ∧ (∀ m p, (m, p) ≠ (n, q) → tqOf t m p = tqOf s m p)

/-- The answer a put gets: for a thread the predicate in flight, counted on V; for a host RESULT of its window, which is free again. -/
def Answered (s t : State) (p : Put) (b : Bool) : Prop :=
  if p.host then t.pend = s.pend ∧ t.windows = s.windows.modify p.ctx fun x => { x with result := if b then 0x80000001 else 0x80000000, busy := false }
  else ∃ r : Pend, t.pend = s.pend ++ [r] ∧ r.due = s.clk ∧ r.ctr = some .v ∧ r.tids = [p.tidx] ∧ Gives r p.wg [p.tidx] [] [(p.d, fun _ => b)]

end Sys2Proof.Claim

/-- R275, R278, R291: QPUT and QPUTW of a queue that is on, in a thread whose stores are performed, put the entry of the seven registers,
its reserved flags 0, on the way to the queue's home die and raise V; QPUTW with a bound blocks until then. A queue that is off raises
PERMISSION. -/
def Sys2Proof.Claim.TaskPutsAreOffered : Prop :=
  ∀ (s : State) (c : Issue) (w : Workgroup) (g : Guard) (d : PredCode) (a : RegCode) (q : BitVec 6) (l : Nat) (th : Thread), Plain s c w →
    act s c g = [l] → w.threads[l]? = some th → Quiet s c.wg l → th.ctr.v < 63 → s.l1 = [] →
    let bound := (reg s c (a.toNat + 7) l).toNat
    let offers := fun (t : State) (till : Option Nat) (p : Put) => t.puts = s.puts ++ [p] ∧ p.ctx = w.ctx ∧ p.queue = q.toNat ∧ p.wg = c.wg ∧
      p.tidx = l ∧ p.d = d.toNat ∧ s.clk < p.due ∧ p.till = till ∧ p.mask = [] ∧ p.isSpawn = false ∧ p.host = false ∧
      p.entry.queue = q.toNat ∧ p.entry.spawn = 0 ∧ p.entry.words.length = 7 ∧
      (∀ i, i < 7 → i ≠ 1 → p.entry.words[i]? = some (s.tickFree.tickFree.readReg c.wg l (a.toNat + i))) ∧
      p.entry.words[1]? = some (s.tickFree.tickFree.readReg c.wg l (a.toNat + 1) &&& 0xC3FF03FF) ∧ t.mem = s.mem ∧ t.pend = s.pend
    let raised := { th with ctr := { th.ctr with v := th.ctr.v + 1 } }
    (s.tqEnabled w.ctx q.toNat = true →
      (∃ t p, exec (.qput g d a q) s = .next t ∧ offers t none p ∧ t.thread? c.wg l = some raised) ∧
      (bound = 0 → ∃ t p, exec (.qputw g d a q) s = .next t ∧ offers t none p ∧ t.thread? c.wg l = some raised) ∧
      (bound ≠ 0 → ∃ t p, exec (.qputw g d a q) s = .next t ∧ offers t (some (s.clk + bound)) p ∧
        t.thread? c.wg l = some { raised with st := .blocked (.qputw p.id), wake := none })) ∧
    (s.tqEnabled w.ctx q.toNat = false → CanTrap s c w (vector s w) [l] → Faults s c w (.qput g d a q) [l] 0x05 (fun _ => 0) ∧
      Faults s c w (.qputw g d a q) [l] 0x05 (fun _ => 0))

/-- R292 to R295: QSTAT puts the queue's state word in flight, sampled as it lands, counted on V; TARG writes a word of the task's entry
4 clk later, ILLOP without a task; STNC sets the queue's stencil; TDONE puts the tile's byte, translated at issue, behind the thread's
stores in its queue, nothing where the queue has no scoreboard, and the bundle goes on; as it leaves the queue it sets the tile's bit in
the scoreboard, every other byte as it was, and makes an evaluation due. -/
def Obligations.TaskStateInstructions : Prop :=
  (∀ (s : State) (c : Issue) (w : Workgroup) (g : Guard) (d : RegCode) (a : RegCode) (b : Src) (q : BitVec 6) (k : BitVec 3) (l : Nat) (th : Thread)
    (e : TaskEntry) (m : BitVec 1), Plain s c w → act s c g = [l] → w.threads[l]? = some th →
    (th.ctr.v < 63 → ∃ t p, exec (.qstat g d q) s = .next t ∧ LandsOnV s c [l] t p ∧ p.late = some (.qstat w.ctx q.toNat, d.toNat)) ∧
    (th.task = some e → ∃ t, exec (.targ g d k) s = .next t ∧ Lands s c 4 [l] [(d.toNat, fun _ =>
      [e.words.getD 2 0, e.words.getD 3 0, e.words.getD 4 0, e.words.getD 5 0, e.words.getD 6 0, e.words.getD 1 0, e.words.getD 0 0,
        BitVec.ofNat 32 e.queue].getD k.toNat 0)] [] t) ∧
    (th.task = none → CanTrap s c w (vector s w) [l] →
      Faults s c w (.targ g d k) [l] 0x01 (fun _ => 0) ∧ Faults s c w (.tdone g b m) [l] 0x01 (fun _ => 0)) ∧
    (s.tqEnabled w.ctx q.toNat = true → ∃ t, exec (.stnc g a q) s = .next t ∧
      OnlyTq s t w.ctx q.toNat (fun x => { x with stencil := reg s c (a.toNat + 1) l ++ reg s c a.toNat l }) ∧
      { t with contexts := s.contexts, fresh := s.fresh } = s) ∧
    (s.tqEnabled w.ctx q.toNat = false → CanTrap s c w (vector s w) [l] → Faults s c w (.stnc g a q) [l] 0x05 fun _ => 0) ∧
    (∀ x, th.task = some e → tqOf s w.ctx e.queue = some x → th.sq.length < 8 → (m = 0 → (e.words.getD 1 0).getLsbD 31 = false) →
      let v := (if m = 0 then e.words.getD 1 0 else val s c b l).toNat
      let i := v / 2^16 % 1024 * 1024 + v % 1024
      (x.sbaddr = 0 → exec (.tdone g b m) s = .next { st0 s with nextId := s.nextId + 1 }) ∧
      (∀ lf, x.sbaddr ≠ 0 → (st0 s).access w .atomic (BitVec.ofNat 64 (x.sbaddr + i / 8)) .any = .ok lf →
        exec (.tdone g b m) s = .next (onThreads { st0 s with nextId := s.nextId + 1 } c.wg [l] fun _ th => { th with
          sq := th.sq ++ [⟨s.clk + 1, s.nextId, .retire e.queue lf.pa lf.m (i % 8)⟩] })))) ∧
  (∀ (s : State) (w : Workgroup) (l q pa i : Nat) (e : SqEntry) (th : Thread), s.nextStore = some (w, l, e) → e.act = .retire q pa false i →
    s.wg? w.uid = some w → w.threads[l]? = some th → s.l1 = [] → s.poisoned pa 1 = false → s.mem.wf = true → w.ctx < s.contexts.length →
    ∃ t, exec .storeLeavesQueue s = .next t ∧ t.thread? w.uid l = some { th with sq := th.sq.tail } ∧ t.pend = s.pend ∧
      (∀ y, t.mem.get y = if y = pa then s.mem.get y ||| BitVec.ofNat 8 (2^i) else s.mem.get y) ∧
      OnlyTq s t w.ctx q (fun x => { x with evalDue := true }))

/-- R276 to R278, R291, R386: the first put that is due, and that finds a way to its home die, is placed on-die where the queue's ring is
empty and the die has room, counted in PUTS, and its thread's predicate is true; else its entry is written to the ring at RTAIL, which
advances, where the ring has room and ERR is 0; a write that fails sets ERR, and the put is refused; with no place on-die or in the ring it is
refused, counted in REFUSED, and false. A host's put is answered in RESULT of its window instead. A QPUTW that has reached the home die and whose bound ends takes false too. A write to PUT of a task window offers its entry, or answers at once where the queue is off. -/
def Sys2Proof.Claim.PutsArePlacedOrRefused : Prop :=
  (∀ (s : State) (p : Put) (q : TaskQueue), s.puts.find? s.putReady = some p → p.isSpawn = false → p.till = none →
    tqOf s p.ctx p.queue = some q → (s.ctx p.ctx).state = .running → s.putLost p = false →
    let va := q.ring + 32 * (q.rtail.toNat % 2^q.size)
    (q.rhead = q.rtail → s.dieRoom q = true → ∃ t, exec .taskPutPlacement s = .next t ∧ Answered s t p true ∧
      t.puts = s.puts.filter (·.id != p.id) ∧ t.mem = s.mem ∧ t.wgs = s.wgs ∧
      OnlyTq s t p.ctx p.queue fun x => { x with
        die := x.die ++ [⟨p.entry, (p.entry.words.getD 1 0).getLsbD 31 || x.sbaddr == 0, 0, false⟩], puts := x.puts + 1 }) ∧
    (q.rhead ≠ q.rtail ∨ s.dieRoom q = false → 2^q.size ≤ (q.rtail - q.rhead).toNat → ∃ t, exec .taskPutPlacement s = .next t ∧
      Answered s t p false ∧ t.puts = s.puts.filter (·.id != p.id) ∧ t.mem = s.mem ∧ t.wgs = s.wgs ∧
      OnlyTq s t p.ctx p.queue fun x => { x with refused := x.refused + 1 }) ∧
    (q.rhead ≠ q.rtail ∨ s.dieRoom q = false → (q.rtail - q.rhead).toNat < 2^q.size → q.err = 0 → q.ring % 32 = 0 → p.entry.words.length = 7 →
      (∀ lf, s.translate none p.ctx (s.devWorld p.ctx) .write va = .ok lf → ∃ t, exec .taskPutPlacement s = .next t ∧ Answered s t p true ∧
        t.puts = s.puts.filter (·.id != p.id) ∧ t.wgs = s.wgs ∧
        t.mem = s.mem.write lf.pa (p.entry.words.flatMap (fun x => toBytes 4 x.toNat) ++ toBytes 4 p.entry.spawn) ∧
        OnlyTq s t p.ctx p.queue fun x => { x with rtail := x.rtail + 1, puts := x.puts + 1 }) ∧
      (∀ e, s.translate none p.ctx (s.devWorld p.ctx) .write va = .error e → ∃ t, exec .taskPutPlacement s = .next t ∧ Answered s t p false ∧
        t.puts = s.puts.filter (·.id != p.id) ∧ t.wgs = s.wgs ∧ t.mem = s.mem ∧
        OnlyTq s t p.ctx p.queue fun x => { x with err := e, refused := x.refused + 1 }))) ∧
  (∀ (s : State) (p : Put) (till : Nat) (th : Thread), s.puts = [p] → p.till = some till → till ≤ s.clk → p.due ≤ s.clk → p.host = false → p.isSpawn = false →
    s.thread? p.wg p.tidx = some th → th.st = .blocked (.qputw p.id) → (s.ctx p.ctx).state = .running →
    ∃ t, exec .qputwTimeout s = .next t ∧ t.puts = [] ∧ Answered s t p false ∧
      t.thread? p.wg p.tidx = some { th with st := .ready, since := s.clk, notBefore := s.clk, wake := none } ∧
      OnlyTq s t p.ctx p.queue fun x => { x with refused := x.refused + 1 }) ∧
  (∀ (s : State) (n k : BitVec 6) (w : TaskWin), s.windows[n.toNat]? = some w → w.busy = false →
    (s.tqEnabled n.toNat k.toNat = false → ∃ t, exec (.taskPut n k) s = .next t ∧ t.windows[n.toNat]? = some { w with result := 0x80000000 } ∧
      { t with windows := s.windows, fresh := s.fresh } = s) ∧
    (s.tqEnabled n.toNat k.toNat = true → ∃ (t : State) (p : Put), exec (.taskPut n k) s = .next t ∧ t.windows[n.toNat]? = some { w with busy := true } ∧
      t.puts = s.puts ++ [p] ∧ p.host = true ∧ p.ctx = n.toNat ∧ p.queue = k.toNat ∧ p.entry.words = w.words.modify 1 (· &&& 0xC3FF03FF) ∧
      { t with windows := s.windows, puts := s.puts, fresh := s.fresh, nextId := s.nextId } = s))

/-- R277, R285, R393: TASK_REFILL brings the entry at the ring's head on-die and advances HEAD, and a read that fails sets ERR;
STENCIL_EVALUATION releases the first queue's tasks whose tiles are all set. Here the queue holds one task that depends on one tile. -/
def Sys2Proof.Claim.RefillAndStencil : Prop :=
  (∀ (s : State) (n k : Nat) (q : TaskQueue), s.firstQueue s.refillable = some (n, k) → tqOf s n k = some q →
    (∀ bs, s.devRead n (s.devWorld n) (q.ring + 32 * (q.rhead.toNat % 2^q.size)) 32 = .ok (bs, none) →
      ∃ t, exec .taskRefill s = .next t ∧ { t with contexts := s.contexts } = s ∧ OnlyTq s t n k fun x =>
        let e : TaskEntry := ⟨(List.range 7).map fun i => BitVec.ofNat 32 (field bs (4 * i) 4), k, field bs 28 4, false⟩
        { x with rhead := x.rhead + 1, die := x.die ++ [⟨e, (e.words.getD 1 0).getLsbD 31 || x.sbaddr == 0, 0, false⟩] }) ∧
    (∀ code va, s.devRead n (s.devWorld n) (q.ring + 32 * (q.rhead.toNat % 2^q.size)) 32 = .error (code, va) →
      ∃ t, exec .taskRefill s = .next t ∧ OnlyTq s t n k fun x => { x with err := code })) ∧
  (∀ (s : State) (n k : Nat) (q : TaskQueue) (x : QTask) (i : Nat) (b : Byte), s.firstQueue s.evalReady = some (n, k) → tqOf s n k = some q →
    q.die = [x] → x.released = false → x.stuck = false →
    stencilTiles q.stencil ((x.entry.words.getD 1 0).toNat % 1024) ((x.entry.words.getD 1 0).toNat / 2^16 % 1024) = [i] →
    s.devRead n (s.devWorld n) (q.sbaddr + i / 8) 1 = .ok ([b], none) →
    ∃ t, exec .stencilEvaluation s = .next t ∧ { t with contexts := s.contexts } = s ∧
      OnlyTq s t n k fun y => { y with die := [{ x with released := b.getLsbD (i % 8) }], evalDue := false, evalAt := s.clk })

/-- R70, R282, R283, R300 to R302: TASK_DISPATCH starts the chosen task in the first idle slot of its workgroup: pc at CODE plus the entry's
word 0, registers as they stand, p0 alone true, no task views; the queue's TAKEN counts it. Here it is alone on the queue. A spawned child
whose record names one view takes a blank of it, the operator's identity in granules of its core, in the record's slot, with the record's
parent and index, and its record is released. -/
def Sys2Proof.Claim.DispatchStartsTheTask : Prop :=
  ∀ (s : State) (x : Launch) (w : Workgroup) (k core : Nat) (q : TaskQueue) (y : QTask) (l : Nat) (r : List Nat) (th : Thread), s.launches = [x] →
    s.nextTask x = some (⟨k, 0, false⟩, core, w) → s.wg? w.uid = some w → tqOf s x.ctx k = some q → q.die = [y] →
    s.slotsOf w = l :: r → w.threads[l]? = some th → w.redun = none → s.l1 = [] → k < 64 → x.ctx < s.contexts.length →
    let child := y.entry.spawn
    let starts := fun (vs : List (Option Nat)) (t : State) (w' : Workgroup) => t.mem = s.mem ∧ t.wg? w.uid = some w' ∧
      { w' with threads := w.threads, views := w.views } = w ∧ (∀ i, i ≠ l → w'.threads[i]? = w.threads[i]?) ∧ w'.threads[l]? = some { th with
        pc := BitVec.ofNat 48 (x.lr.code + (y.entry.words.getD 0 0).toNat), mid := none, meet := none, link := 0, preds := 1, ctr := .zero
        fell := [], born := s.nextId, vs := vs, mergeFault := 0, task := some y.entry, seed := false, st := .ready, since := s.clk
        notBefore := s.clk, wake := none } ∧ OnlyTq s t x.ctx k fun z => { z with die := [], taken := z.taken + 1 }
    (child = 0 → ∃ t w', exec .taskDispatch s = .next t ∧ starts (List.replicate 8 none) t w' ∧ w'.views = w.views) ∧
    (∀ i g e j off p wp, child ≠ 0 → i < 8 → s.tickFree.recordBad x.ctx child = none →
      (s.ctx x.ctx).records.lookup child = some [(i, g, e, j)] →
      ((s.ctx x.ctx).spill.filter fun z => z.2.2 == child && z.2.1 != 64).map (·.1) = [off] → s.wgOfG x.id g = some wp → wp.view? e = some p →
      roundUp (descBytes p.desc + 4) 4096 ≤ s.lsFree w.core → w.views.length < 128 →
      ∃ (t : State) (w' : Workgroup) (v : View), exec .taskDispatch s = .next t ∧ starts ((List.replicate 8 none).set i (some v.entry)) t w' ∧
        w'.views = w.views ++ [v] ∧ v.entry ∉ w.views.map View.entry ∧
        v = ⟨v.entry, l, i, false, p.op, p.desc, .local_ w.core (Mem.write [] 0 (identityBytes p.op p.desc)), .live, some (g, e), j, 0, false, 0⟩ ∧
        (t.ctx x.ctx).records = (s.ctx x.ctx).records.filter (·.1 != child) ∧
        (t.ctx x.ctx).spill = (s.ctx x.ctx).spill.filter (·.2.2 != child))

namespace Sys2Proof.Claim

/-- A thread as it becomes a candidate again, at the word its pc names (R397). -/
def freed (th : Thread) (clk : Nat) : Thread := { th with st := .ready, since := clk, notBefore := clk, wake := none }

end Sys2Proof.Claim

/-- R271, R273, R286, R288 to R290: LAUNCH of a readable record at a multiple of 64, in a thread whose stores are performed, sends the
256 bytes as read at issue to the dispatcher and raises V; LWAIT gives 11 for a handle that is not valid, the status of a complete
launch, and blocks on one that runs; MIGRATE blocks every active thread. A record that is not aligned raises ALIGN. -/
def Sys2Proof.Claim.LaunchInstructions : Prop :=
  ∀ (s : State) (c : Issue) (w : Workgroup) (g : Guard) (d a : RegCode) (b : Src) (p : PredCode) (l : Nat) (th : Thread), Plain s c w →
    act s c g = [l] → w.threads[l]? = some th → s.l1 = [] →
    let va := (reg s c (a.toNat + 1) l ++ reg s c a.toNat l : Word64).toNat
    let h := (val s c b l).toNat % 2^24
    let launch := ((s.ctx w.ctx).handles.lookup h).bind s.launch?
    (st0 s).blockWaits w l va 256 = false →
    (∀ bs, Quiet s c.wg l → th.ctr.v < 63 → (st0 s).blockRead w l va 256 = .ok (bs, none) → va % 64 = 0 →
      ∃ (t : State) (q : LaunchReq), exec (.launch g d a) s = .next t ∧ t.launchReqs = s.launchReqs ++ [q] ∧ q.ctx = w.ctx ∧ q.wg = c.wg ∧ q.tidx = l ∧ q.d = d.toNat ∧
        q.raw = bs ∧ q.secure = w.secure ∧ q.host = false ∧ s.clk < q.due ∧ t.thread? c.wg l = some { th with ctr := { th.ctr with v := th.ctr.v + 1 } } ∧
        { t with launchReqs := s.launchReqs, wgs := s.wgs, nextId := s.nextId, fresh := s.fresh } = s) ∧
    (∀ bs, Quiet s c.wg l → th.ctr.v < 63 → (st0 s).blockRead w l va 256 = .ok (bs, none) → va % 64 ≠ 0 → CanTrap s c w (vector s w) [l] →
      Faults s c w (.launch g d a) [l] 0x0A fun _ => BitVec.ofNat 64 va) ∧
    (launch = none → ∃ t, exec (.lwait g d b) s = .next t ∧
      Lands s c 4 [l] [(d.toNat, fun _ => 11)] [] { t with contexts := s.contexts }) ∧
    (∀ x, launch = some x → x.complete = true → ∃ t, exec (.lwait g d b) s = .next t ∧
      Lands s c 4 [l] [(d.toNat, fun _ => if x.killed then 10 else 0)] [] { t with contexts := s.contexts } ∧
      (w.ctx < s.contexts.length → (t.ctx w.ctx).handles = (s.ctx w.ctx).handles.filter (·.1 != h))) ∧
    (∀ x, launch = some x → x.complete = false → ∃ t, exec (.lwait g d b) s = .next t ∧
      Blocks s c w [l] (fun _ => .lwait h d.toNat) none { t with contexts := s.contexts }) ∧
    (∃ t, exec (.migrate g p b) s = .next t ∧ Blocks s c w [l] (fun _ => .migrate (val s c b l) p.toNat) none t)

/-- R263 to R265, R271, R273, R280, R288: the first record that the dispatcher has read is checked, once its time has come, in the order
of R263; one that passes becomes a launch that claims the queues of its mask, with a handle that no valid one has; the submitting thread
gets status × 2^24 plus the handle. That launches are accepted in the order read or issued, and which free handle is taken, are the
model's choices (log entries 55, 35). -/
def Sys2Proof.Claim.LaunchAcceptanceChecksTheRecord : Prop :=
  ∀ (s : State) (q : LaunchReq) (qs : List LaunchReq), s.launchReqs = q :: qs → q.due ≤ s.clk → q.host = false →
    let r := parseLaunch q.raw
    let code := s.objHeader q.ctx q.secure r.code
    let status := s.launchStatus q r
    (r.fieldsOk = false → status = 2) ∧ (r.fieldsOk = true → code = none → status = 3) ∧
    (∀ h, r.fieldsOk = true → code = some h → field h 8 8 ≠ 0x6D3A91C40B27E85F → status = 1) ∧
    ∃ (t : State) (p : Pend) (n : Nat), exec .launchAcceptance s = .next t ∧ t.pend = s.pend ++ [p] ∧ p.due = s.clk ∧ p.ctr = some .v ∧ p.tids = [q.tidx] ∧
      Gives p q.wg [q.tidx] [(q.d, fun _ => BitVec.ofNat 32 (status * 2^24 + n))] [] ∧ t.launchReqs = qs ∧
      (status ≠ 0 → n = 0 ∧ t.launches = s.launches ∧ t.contexts = s.contexts) ∧
      (status = 0 → 0 < n ∧ n < 2^24 ∧ n ∉ (s.ctx q.ctx).handles.map (·.1) ∧ t.mem = s.mem ∧
        t.launches = s.launches ++ [⟨s.nextId, q.ctx, n, r, 0, [], 0, false, [], none, [], false, 0, 0⟩] ∧
        (q.ctx < s.contexts.length → (n, s.nextId) ∈ (t.ctx q.ctx).handles ∧ ∀ k, k ∈ maskBits r.qmask → ∀ x, tqOf s q.ctx k = some x →
          tqOf t q.ctx k = some { x with claim := some s.nextId, stencil := r.stencil }))

/-- R70, R267: the first launch that has room for its next workgroup starts it: THREADS threads at CODE + ENTRY with p0 alone true and
every other register, counter and mode 0, a window of zeros, FREE tiles and free barriers. -/
def Sys2Proof.Claim.PlacementStartsAWorkgroup : Prop :=
  ∀ (s : State) (l : Launch) (g kills core : Nat) (d : Option Nat), (sortLaunches s.launches).find? (fun l => (s.place l).isSome) = some l →
    l.pending = some (g, kills, d) → s.coreFor l g d = some core →
    l.lr.paired l.ctx g = false → l.lr.qmask = 0 → s.l1 = [] →
    ∃ (t : State) (w : Workgroup), exec .workgroupPlacement s = .next t ∧ t.wgs = s.wgs ++ [w] ∧ w.launch = l.id ∧ w.ctx = l.ctx ∧ w.g = g ∧ w.core = core ∧
      w.kills = kills ∧ w.secure = l.lr.secure ∧ w.regs = l.lr.regs ∧ w.threads.length = l.lr.threads ∧ w.lsbytes = l.lr.lsbytes ∧
      w.window = [] ∧ w.tiles.length = l.lr.tiles ∧ w.slabs.length = l.lr.slabs ∧ (∀ x ∈ w.tiles, x.st = .free) ∧
      (∀ i, i < 16 → w.barriers[i]? = some ⟨0, 0, 0⟩) ∧ (∀ hw r, hw < l.lr.threads / 32 → r < l.lr.regs → w.img hw r = .u 0) ∧
      (∀ th ∈ w.threads, th.pc = BitVec.ofNat 48 (l.lr.code + l.lr.entry) ∧ th.mid = none ∧ th.meet = none ∧ th.link = 0 ∧ th.preds = 1 ∧
        th.ctr = ⟨0, 0, 0, 0, 0, 0⟩ ∧ th.fpctl = 0 ∧ th.priv = false ∧ th.task = none ∧ th.tx.active = false ∧ th.st = .ready ∧ th.sq = []) ∧
      (∀ x ∈ s.launches, x.id = l.id → (match x.again with
        | _ :: r => { x with again := r }
        | [] => { x with next := x.next + 1 }) ∈ t.launches) ∧
      { t with wgs := s.wgs, launches := s.launches, nextId := s.nextId, dcache := s.dcache } = s

/-- R269, R358, R359: a workgroup whose threads have all exited and of which nothing is in flight leaves its core; its launch counts it, with
status byte 1, or 2 where it was killed before and started again. A contained one becomes uncontained first: its held stores are to be
performed, each thread's in program order. -/
def Sys2Proof.Claim.RetirementCountsTheWorkgroup : Prop :=
  ∀ (s : State) (w : Workgroup), s.wgs.find? s.retires = some w → s.wg? w.uid = some w → w.redun = none →
    (∀ th ∈ w.threads, th.st = .exited ∨ th.st = .idle) ∧
    (∀ buf, w.contain = some ⟨true, buf⟩ → ∃ t w' k, exec .workgroupRetire s = .next t ∧ t.wg? w.uid = some w' ∧ w'.contain = some ⟨false, k⟩ ∧
      (∀ j, k.filter (·.tidx == j) = buf.filter (·.tidx == j)) ∧ { w' with contain := w.contain } = w ∧
      { t with wgs := s.wgs, fresh := s.fresh } = s) ∧
    (w.contained = false → ∃ t, exec .workgroupRetire s = .next t ∧ t.wgs = s.wgs.filter (·.uid != w.uid) ∧ t.mem = s.mem ∧ t.contexts = s.contexts ∧
      ∀ x ∈ s.launches, x.id = w.launch → ∃ y ∈ t.launches, y.id = x.id ∧ y.retired = x.retired + 1 ∧
        y.status = x.status ++ [(w.g, if w.kills = 0 then 1 else 2)] ∧ y.lr = x.lr ∧ y.complete = x.complete)

/-- R265, R281, R289: a launch whose workgroups have all retired is complete: its completion word, where it asks for one and the address
translates, is written to memory, its queues are unclaimed, and every thread in LWAIT of its handle goes on. A launch whose rectangle has
no core on a LIVE die does not complete, which is the model's choice (log entry 55). -/
def Sys2Proof.Claim.CompletionReleasesTheWaiters : Prop :=
  ∀ (s : State) (l : Launch), s.launches.find? s.completes = some l → s.l1 = [] → l.lr.hasStatus = false → (s.wgs.map Workgroup.uid).Nodup →
    (∀ w ∈ s.wgs, w.launch = l.id → w.contained = false) →
    ∃ t, exec .launchCompletion s = .next t ∧ (∀ x ∈ s.launches, x.id = l.id → { x with complete := true } ∈ t.launches) ∧
      (∀ k x, tqOf s l.ctx k = some x → l.ctx < s.contexts.length → x.claim = some l.id → tqOf t l.ctx k = some { x with claim := none }) ∧
      (∀ w ∈ s.wgs, w.ctx = l.ctx → ∃ w' ∈ t.wgs, { w' with threads := w.threads } = w ∧ ∀ (i : Nat) (th : Thread), w.threads[i]? = some th →
        w'.threads[i]? = some (match th.st with
          | .blocked (.lwait h _) => if h = l.handle ∧ l.handle ≠ 0 then freed th s.clk else th
          | _ => th)) ∧
      (l.lr.done = 0 → t.mem = s.mem) ∧
      (∀ lf, l.lr.done ≠ 0 → l.lr.done % 8 = 0 → s.translate none l.ctx l.lr.secure .write l.lr.done = .ok lf →
        t.mem = s.mem.write lf.pa (toBytes 8 (l.handle * 2^32 + 2^31 + if l.killed then 10 else 0)))

/-- R286, R290: MIGRATE_MOVE of a workgroup whose unexited threads have all arrived takes the target of the arrived thread with the lowest
TIDX: it raises MIGRATEBAD in every arrived thread where R286 refuses, answers false in each where the target core has no room, and else
moves the workgroup, its state as it was; MIGRATE_ARRIVAL answers true and every thread goes on. -/
def Sys2Proof.Claim.MigrationMovesTheWorkgroup : Prop :=
  (∀ (s : State) (w : Workgroup) (x : Word) (first : Nat), s.wgs.find? s.migrates = some w → s.wg? w.uid = some w → s.l1 = [] →
    (∃ (th : Thread) (d : Nat), w.threads[first]? = some th ∧ th.st = .blocked (.migrate x d)) →
    (∀ i (th : Thread) y d, i < first → w.threads[i]? = some th → th.st ≠ .blocked (.migrate y d)) → w.ctx < s.contexts.length →
    let core := 32 * (x.toNat / 2^16 % 32) + x.toNat % 32
    let bad := s.migrateBad w (x.toNat % 32) (x.toNat / 2^16 % 32)
    let arrived := fun (i d : Nat) (th : Thread) => w.threads[i]? = some th ∧ ∃ y, th.st = .blocked (.migrate y d)
    let others := fun (t : State) => (∀ i (th : Thread), w.threads[i]? = some th → (∀ y d, th.st ≠ .blocked (.migrate y d)) →
      t.thread? w.uid i = some th) ∧ (∀ u, u ≠ w.uid → t.wg? u = s.wg? u) ∧ t.mem = s.mem
    (bad = false → s.roomOn core (w.needAt core) = true → ∃ t w', exec .migrateMove s = .next t ∧ t.wg? w.uid = some w' ∧ w'.core = core ∧
      { w' with core := w.core, slot := w.slot } = w ∧ t.mem = s.mem ∧ ∃ m ∈ t.migrations, m.wg = w.uid ∧ m.target = core ∧ s.clk < m.due) ∧
    (bad = false → s.roomOn core (w.needAt core) = false → ∃ t, exec .migrateMove s = .next t ∧ others t ∧
      ∀ i d th, arrived i d th → t.thread? w.uid i = some (freed th s.clk) ∧
        ∃ p ∈ t.pend, p.due = s.clk ∧ p.ctr = none ∧ p.tids = [i] ∧ Gives p w.uid [i] [] [(d, fun _ => false)]) ∧
    (bad = true → vector s w ≠ 0 → (∀ i d th, arrived i d th → th.priv = false ∧ s.outstanding w.uid i = false) →
      ∃ t, exec .migrateMove s = .next t ∧ others t ∧ ∀ i d th, arrived i d th → ∃ y, t.thread? w.uid i = some y ∧
        Entered th (BitVec.ofNat 48 (vector s w)) 0x0D (x.setWidth 64) (th.here.pc.setWidth 64)
          (BitVec.ofNat 64 (2^63 + th.here.idx % 16 * 2^48 + th.here.hdr.toNat)) s.clk y)) ∧
  (∀ (s : State) (m : Migration) (w : Workgroup), s.migrations.find? (fun m => decide (m.due ≤ s.clk)) = some m → s.wg? m.wg = some w →
    ∃ t w', exec .migrateArrival s = .next t ∧ t.migrations = s.migrations.erase m ∧ t.wg? m.wg = some w' ∧ w'.core = w.core ∧
      w'.age = s.nextId ∧ w'.window = w.window ∧ w'.waves = w.waves ∧ ∀ i (th : Thread) x d, w.threads[i]? = some th → th.st = .blocked (.migrate x d) →
        w'.threads[i]? = some (freed th s.clk) ∧ ∃ p ∈ t.pend, p.due = s.clk ∧ p.tids = [i] ∧ Gives p m.wg [i] [] [(d, fun _ => true)])

/-- R180, R270, R385: the grid barrier of a launch whose every thread has arrived lets its waiting threads go on; a workgroup that waits
there while another of its launch wants room can be swapped out to the save area, where it stays parked. -/
def Sys2Proof.Claim.GridBarrierCompletesOrSwaps : Prop :=
  (∀ (s : State) (l : Launch), s.launches.find? s.gridArrived = some l → s.l1 = [] → (∀ w ∈ s.wgs, ∀ th ∈ w.threads, th.wd = none) →
    ∃ t, exec .gsyncComplete s = .next t ∧ t.mem = s.mem ∧ t.wgs = s.wgs.map fun w : Workgroup => if w.launch = l.id then { w with
      gparked := false, threads := w.threads.map fun th : Thread => if th.st = .blocked .gsync then freed th s.clk else th } else w) ∧
  (∀ (s : State) (l : Launch) (w : Workgroup), s.launches = [l] → s.swapVictim l = some [w] → s.wg? w.uid = some w → l.ctx < s.contexts.length →
    w.ctx = l.ctx → w.yielded = false →
    ∃ t, exec .gsyncSwapOut s = .next t ∧ (∀ v ∈ t.wgs, v.uid ≠ w.uid) ∧ ∃ x ∈ (t.ctx l.ctx).saved, x.uid = w.uid ∧ x.gparked = true ∧
      x.waves = w.waves ∧ x.window = w.window ∧ x.g = w.g ∧ x.threads.length = w.threads.length)

/-- R272: the record at HEAD of the first ring that holds an unread one, with none of it still to be checked, is submitted with the world
of its agent, the ring as it was; as it is accepted HEAD advances in the state and in the header; a doorbell sets TAIL in both while the
ring is present and is no more than a ring ahead of HEAD, and is kept while it is absent; the doorbell register holds the value written.
The world of a ring's record (log entry 35), and that its records are accepted in the order in which they were read, with HEAD advanced
then (log entry 55), are the model's choices. -/
def Sys2Proof.Claim.LaunchRingAndDoorbell : Prop :=
  (∀ (s : State) (n : Nat), (List.range 64).find? s.ringReady = some n → n < s.contexts.length →
    let r := (s.ctx n).ring
    let i := r.head.toNat % 2^r.size
    let pa := r.pages.getD (i / 16) 0 + 256 * (i % 16)
    s.poisoned pa 256 = false → ∃ (t : State) (q : LaunchReq), exec .launchRingRead s = .next t ∧ t.launchReqs = s.launchReqs ++ [q] ∧ q.ctx = n ∧ q.host = true ∧
      q.raw = s.pkgRead pa 256 ∧ q.secure = (s.ctx n).rungWorld r.head ∧
      { t with launchReqs := s.launchReqs, nextId := s.nextId, fresh := s.fresh } = s) ∧
  (∀ (s : State) (q : LaunchReq) (qs : List LaunchReq), s.launchReqs = q :: qs → q.due ≤ s.clk → q.host = true → q.ctx < s.contexts.length →
    s.launchStatus q (parseLaunch q.raw) = 0 →
    let r := (s.ctx q.ctx).ring
    ∃ t, exec .launchAcceptance s = .next t ∧ t.launchReqs = qs ∧ (t.ctx q.ctx).ring = { r with head := r.head + 1 } ∧
      t.mem = s.mem.write (r.headerPa + 0x10) (toBytes 4 (r.head + 1).toNat) ∧ t.wgs = s.wgs ∧
      t.launches = s.launches ++ [⟨s.nextId, q.ctx, 0, parseLaunch q.raw, 0, [], 0, false, [], none, [], false, 0, 0⟩]) ∧
  (∀ (s : State) (n : BitVec 6) (sec : Bool) (v : Word64), n.toNat < s.contexts.length →
    let c := s.ctx n.toNat
    let tail : Word := v.setWidth 32
    ∃ t, exec (.doorbell n sec v) s = .next t ∧ (t.ctx n.toNat).doorbell = v ∧ t.wgs = s.wgs ∧
      (c.ring.present = true → (tail - c.ring.head).toNat ≤ 2^c.ring.size →
        (t.ctx n.toNat).ring = { c.ring with tail := tail } ∧ t.mem = s.mem.write (c.ring.headerPa + 0x14) (toBytes 4 tail.toNat)) ∧
      (c.ring.present = true → 2^c.ring.size < (tail - c.ring.head).toNat → (t.ctx n.toNat).ring = c.ring ∧ t.mem = s.mem) ∧
      (c.ring.present = false → (t.ctx n.toNat).kept = some (v, sec) ∧ t.mem = s.mem))

/-! Contexts (R326 to R332, R346, R385). -/

/-- R346: CTXSW of a thread in the secure world, where one thread is active, answers a next state in every case here: a query gives
the state; a save of the own context gives SELF; a save of a context that is SAVING, or whose save has been begun, gives BUSY, of one in the
wrong state BADSTATE, of a RUNNING one that its save area does not hold NOSPACE; a save of a RUNNING context that fits begins, and the thread
waits: the context is SAVING, or, where workgroups of a launch with YIELD are asked to yield first, RUNNING until they have (R327, R332); a
resume of a SAVING context gives BUSY, of a RUNNING one BADSTATE,
of one whose descriptor passes makes it RUNNING with its page-table root and gives its state. -/
def Obligations.ContextSwitchInstruction : Prop :=
  ∀ (s : State) (c : Issue) (w : Workgroup) (g : Guard) (d : RegCode) (a : Src) (l : Nat) (th : Thread), Plain s c w → act s c g = [l] →
    w.threads[l]? = some th → th.priv = true →
    let n := (val s c a l).toNat % 64
    let x := s.ctx n
    let code := fun (st : CtxState) => match st with
      | .empty => 0 | .running => 1 | .saving => 2 | .saved => 3 | .stopped => 4
    let answers := fun (k : BitVec 2) (word : Nat) => ∃ (t : State) (p : Pend), exec (.ctxsw g d a k) s = .next t ∧ t.pend = s.pend ++ [p] ∧ s.clk < p.due ∧
      p.ctr = none ∧ Gives p c.wg [l] [(d.toNat, fun _ => BitVec.ofNat 32 word)] [] ∧ t.wgs = s.wgs ∧ t.mem = s.mem ∧ t.contexts = s.contexts
    w.secure = true →
    answers 2 (code x.state) ∧ (n = w.ctx → answers 0 (code x.state + 4 * 2^8)) ∧
    (n ≠ w.ctx → x.state = .saving → answers 0 (2 + 1 * 2^8) ∧ answers 1 (2 + 1 * 2^8)) ∧
    (n ≠ w.ctx → x.saving.isSome = true → answers 0 (code x.state + 1 * 2^8)) ∧
    (n ≠ w.ctx → x.state = .empty ∨ x.state = .saved → x.resident = false → x.saving = none → answers 0 (code x.state + 2 * 2^8)) ∧
    (n ≠ w.ctx → x.state = .running → x.saving = none → s.asks n = false → x.desc.savesize < s.saveSize n (s.allWgs n) →
      answers 0 (1 + 3 * 2^8)) ∧
    (x.state = .running → answers 1 (1 + 2 * 2^8)) ∧
    (n ≠ w.ctx → x.state = .running → x.saving = none → s.saveSize n (s.allWgs n) ≤ x.desc.savesize → n < s.contexts.length →
      ∃ t y, exec (.ctxsw g d a 0) s = .next t ∧ (t.ctx n).state = (if s.asks n then .running else .saving) ∧
        (∀ v ∈ s.wgs, v.ctx = n → (s.lrOf v).yields = true → v.uid ≠ c.wg →
          { v with yreq := true, ydeadline := 2^63 + x.desc.ygrace } ∈ t.wgs) ∧ (t.ctx n).saving = some ⟨false, false⟩ ∧
        t.thread? c.wg l = some y ∧ y.st = .blocked (.ctxsw n d.toNat)) ∧
    (x.state ≠ .saving → x.state ≠ .running → x.resident = false → s.ctxtab ≠ 0 → (∀ i, i < 4 → s.dieLive (64 + i) = true) →
      s.descOk n (s.mem.read (s.ctxtab.toNat + 256 * n) 256) = true → n < s.contexts.length →
      ∃ (t : State) (p : Pend), exec (.ctxsw g d a 1) s = .next t ∧ (t.ctx n).state = .running ∧ (t.ctx n).desc.ptroot = s.mem.readNat (s.ctxtab.toNat + 256 * n) 8 ∧
        (t.ctx n).wdcount = 0 ∧ p ∈ t.pend ∧ s.clk < p.due ∧ Gives p c.wg [l] [(d.toNat, fun _ => 1)] [])

/-- R385: the host's commands: a write to CTXCMD while one is in progress changes nothing; a query, and every command while CTXTAB is 0,
answers at once with the state and the outcome, and vector 6; a save that fits begins, behind the yields that it asks for; a resume whose checks pass sets the context
running. -/
def Sys2Proof.Claim.HostContextCommands : Prop :=
  ∀ (s : State) (n : BitVec 6) (sec : Bool), n.toNat < s.contexts.length →
    let x := s.ctx n.toNat
    let answered := fun (t : State) (o : Nat) => t.ctxres = BitVec.ofNat 64 (2^63 + (t.ctx n.toNat).state.code + o * 2^8) ∧ t.hostCmd = false ∧
      t.irqstat = setBit s.irqstat 6 true
    let quiet := fun (t : State) => { t with ctxres := s.ctxres, hostCmd := s.hostCmd, ctxcmd := s.ctxcmd, irqstat := s.irqstat } = s
    let world := sec = true ∨ (∀ k, s.secureCtx n.toNat k = false)
    (s.hostCmd = true → exec (.ctxcmdSave n sec) s = .next s ∧ exec (.ctxcmdResume n sec) s = .next s ∧ exec (.ctxcmdQuery n sec) s = .next s) ∧
    (s.hostCmd = false →
      (s.ctxtab = 0 → ∀ i ∈ [Instr.ctxcmdSave n sec, .ctxcmdResume n sec, .ctxcmdQuery n sec], ∃ t, exec i s = .next t ∧ answered t 2 ∧ quiet t) ∧
      (s.ctxtab ≠ 0 → ∃ t, exec (.ctxcmdQuery n sec) s = .next t ∧ answered t 0 ∧ quiet t) ∧
      (s.ctxtab ≠ 0 → ¬ world → s.secureCtx n.toNat 0 = true → ∃ t, exec (.ctxcmdSave n sec) s = .next t ∧ answered t 5 ∧ quiet t) ∧
      (s.ctxtab ≠ 0 → world → x.state = .running → x.saving = none → s.saveSize n.toNat (s.allWgs n.toNat) ≤ x.desc.savesize →
        ∃ t, exec (.ctxcmdSave n sec) s = .next t ∧ (t.ctx n.toNat).state = (if s.asks n.toNat then .running else .saving) ∧ (t.ctx n.toNat).saving = some ⟨false, true⟩ ∧
          t.hostCmd = true ∧ t.ctxres = 0) ∧
      (s.ctxtab ≠ 0 → world → x.state ≠ .saving → x.state ≠ .running → x.resident = false → (∀ i, i < 4 → s.dieLive (64 + i) = true) →
        s.descOk n.toNat (s.mem.read (s.ctxtab.toNat + 256 * n.toNat) 256) = true →
        ∃ t, exec (.ctxcmdResume n sec) s = .next t ∧ (t.ctx n.toNat).state = .running ∧ t.hostCmd = false ∧ t.ctxres = BitVec.ofNat 64 (2^63 + 1)))

/-- R328, R330, R331: a save that fits, once nothing of the context is left to drain, ends with every workgroup in the save area, the
context SAVED or, after an unhandled fault, STOPPED; WORKGROUP_RESTORE puts the first saved workgroup that a core has room for back,
its registers and window as they were saved. -/
def Sys2Proof.Claim.SaveAndRestore : Prop :=
  (∀ (s : State) (n : Nat) (v : Saving), (List.range 64).find? (fun n => s.saveRefused n || s.saveReady n) = some n → s.saveReady n = true →
    (s.ctx n).saving = some v → n < s.contexts.length → (∀ q ∈ s.cmds, q.ctx = n → q.started = false) →
    s.saveSize n (s.allWgs n) ≤ (s.ctx n).desc.savesize → (s.wgs.map Workgroup.uid).Nodup →
    ∃ t, exec .contextSaveComplete s = .next t ∧ (t.ctx n).state = (if v.toStopped then .stopped else .saved) ∧ (t.ctx n).saving = none ∧
      (∀ w ∈ t.wgs, w.ctx ≠ n) ∧ (∀ w ∈ s.wgs, w.ctx ≠ n → ∃ w' ∈ t.wgs, w'.uid = w.uid ∧ w'.waves = w.waves ∧ w'.window = w.window) ∧
      ∀ w ∈ s.wgs, w.ctx = n → ∃ x ∈ (t.ctx n).saved, x.uid = w.uid ∧ x.window = w.window ∧ (w.yielded = false → x.waves = w.waves)) ∧
  (∀ (s : State) (n : Nat) (w : Workgroup) (core : Nat), (∀ k, k < n → s.dispatches k = false ∨ (s.ctx k).saved = []) → n < 64 →
    n < s.contexts.length → s.dispatches n = true → (s.ctx n).saved = [w] → s.restorable w = some [(w, core)] → w.ctx = n → w.views = [] → s.l1 = [] →
    ∃ (t : State) (w' : Workgroup), exec .workgroupRestore s = .next t ∧ t.wgs = s.wgs ++ [w'] ∧ (t.ctx n).saved = [] ∧ w'.uid = w.uid ∧ w'.core = core ∧
      w'.waves = w.waves ∧ w'.window = w.window ∧ w'.tiles = w.tiles ∧ w'.barriers = w.barriers ∧ w'.cr = w.cr ∧
      w'.threads.length = w.threads.length ∧ t.mem = s.mem)

/-! Copy queues and hearths (R185 to R213). -/

namespace Sys2Proof.Claim

/-- One active thread, with room on C, whose register pair is the address of a block that it reads at once; no L1 holds a copy and
no transaction's token is out. -/
def BlockAt (s : State) (c : Issue) (w : Workgroup) (g : Guard) (a : RegCode) (l : Nat) (th : Thread) (b : List Byte) : Prop :=
  Plain s c w ∧ act s c g = [l] ∧ w.threads[l]? = some th ∧ th.ctr.c < 63 ∧ s.l1 = [] ∧ (∀ o ∈ s.owned, ∀ u m, o.2 ≠ .token u m) ∧
  laneBlock (st0 s) w l (reg s c (a.toNat + 1) l ++ reg s c a.toNat l : Word64).toNat = .ok (b, none) ∧
  laneWaits (st0 s) w l (reg s c (a.toNat + 1) l ++ reg s c a.toNat l : Word64).toNat = false

/-- One command has left its instruction for the workgroup's copy queue, counted on C, not accepted yet; memory stands, and so does all
else of the state `z`, which is `s` after the lane's read of an index tile. -/
def Submitted (s z : State) (c : Issue) (w : Workgroup) (l : Nat) (th : Thread) (k : CmdKind) (b : List Byte) (idx : List Nat) (q : Cmd)
    (t : State) : Prop :=
  t.cmds = s.cmds ++ [q] ∧ q.id = s.nextId ∧ q.kind = k ∧ q.block = b ∧ q.idx = idx ∧ q.ctx = w.ctx ∧ q.queue = w.cq ∧ q.wg = c.wg ∧
  q.tidx = l ∧ q.tids = [l] ∧ q.accepted = false ∧ q.started = false ∧ q.due = s.clk + 8 ∧
  t.thread? c.wg l = some { th with ctr := { th.ctr with c := th.ctr.c + 1 } } ∧ (∀ j, j ≠ l → t.thread? c.wg j = s.thread? c.wg j) ∧
  { t with cmds := z.cmds, wgs := z.wgs, owned := z.owned, tlb := z.tlb, nextId := z.nextId, fresh := z.fresh } = z

/-- A copy queue changes as `f` says, and no other queue of any context does. -/
def OnlyCq (s t : State) (n q : Nat) (f : CopyQueue → CopyQueue) : Prop :=
  (∀ x, s.cq? n q = some x → t.cq? n q = some (f x)) ∧ (∀ m p, (m, p) ≠ (n, q) → t.cq? m p = s.cq? m p)

/-- Nothing of this counter is outstanding in a thread before instruction number `seq`. -/
def NoneBefore (s : State) (u l : Nat) (k : Ctr) (seq : Nat) : Prop :=
  (∀ p ∈ s.pend, p.wg = u → p.ctr ≠ some k) ∧ (∀ q ∈ s.cmds, q.id < seq → ¬ (q.wg = u ∧ l ∈ q.tids)) ∧
  (∀ a ∈ s.atoms, a.id < seq → ¬ (a.wg = u ∧ a.tidx = l)) ∧ ∀ th, s.thread? u l = some th → th.fell = []

end Sys2Proof.Claim

/-- R187, R190, R191, R196 to R199: CPY, CPYG, CPYS and CPYX of a block whose checks pass send one command to the queue, raise C and take
the tile: FILLING with 0 of ROWB × rows bytes arrived, or DRAINING; a copy from tile to tile takes the target. A failing check raises its
fault; a tile that may not be taken yet parks the thread. The offset that TRAPADDR of a failing field gives is the model's choice where
the entry names none (log entries 25, 30). -/
def Obligations.CopyCommandsAreSubmitted : Prop :=
  ∀ (s : State) (c : Issue) (w : Workgroup) (g : Guard) (a : RegCode) (l : Nat) (th : Thread) (b : List Byte), BlockAt s c w g a l th b →
    ∀ i k, (i, k) ∈ [(Instr.cpy g a, CmdKind.cpy), (.cpyg g a, .cpyg), (.cpys g a, .cpys), (.cpyx g a, .cpyx)] →
    let fate := copyLane (st0 s) w c l k b []
    let n := bTile b
    let z := (st0 s).readIndex w l k b
    listWaits (st0 s) w l k b = false →
    (∀ idx pages dsl ssl rwg (x : Tile), fate = .go idx pages dsl ssl rwg → w.tiles[n]? = some x → x.view = none →
      (∀ v y, targetTile (st0 s) w k b = some (v, y) → y.view = none) → ∃ t q w', exec i s = .next t ∧
      Submitted s z c w l th k b idx q t ∧ q.xlate = pages ∧ t.wg? c.wg = some w' ∧
      z.wg? c.wg = some { w' with threads := w.threads, tiles := w.tiles } ∧
      (fillsTile k b = true → w'.tiles = w.tiles.set n { x with st := .filling, arrived := 0, expected := bRowb b * destRows k b idx.length }) ∧
      (emptiesTile k b = true → w'.tiles = w.tiles.set n { x with st := .draining }) ∧
      (twoTiles k b = true → (s.wgs.map Workgroup.uid).Nodup → q.rwg = rwg ∧ (∃ z, t.tile? c.wg n = some z ∧ z.lent = x.lent + 1) ∧
        ∃ y, t.tile? rwg (bRtile b) = some y ∧ y.st = .filling ∧ y.arrived = 0 ∧ y.expected = bRowb b * bNrows b)) ∧
    (∀ code x, fate = .fault code x → CanTrap s c w (vector s w) [l] → Faults s c w i [l] code fun _ => BitVec.ofNat 64 x) ∧
    (∀ p, fate = .park p → ∃ t, exec i s = .next t ∧ Parks s c w [l] p t)

/-- R202 to R204, R207, R213: HLUT and HLUTW of a block whose checks pass, and HSUM, send one command to the queue and raise C; a queue
that is off raises PERMISSION at HSUM and CQBIND; CQBIND names the workgroup's queue; CQSTAT puts a word of the queue in flight, sampled
as it lands; CQDRAIN of a thread whose submissions are accepted waits for DONE to reach TAIL, counted on C. Which HLUTW an HLUT's WCODE is
held against, and the offsets of failing fields, are the model's choices (log entries 25, 30). -/
def Obligations.HearthCommandsAndQueues : Prop :=
  (∀ (s : State) (c : Issue) (w : Workgroup) (g : Guard) (a : RegCode) (l : Nat) (th : Thread) (b : List Byte), BlockAt s c w g a l th b →
    ∀ i k, (i, k) ∈ [(Instr.hlut g a, CmdKind.hlut), (.hlutw g a, .hlutw)] →
    (∀ pages, hearthLane (st0 s) w k b = .go [] pages 0 0 0 → ∃ t q w', exec i s = .next t ∧ Submitted s s c w l th k b [] q t ∧
      q.xlate = pages ∧ t.wg? c.wg = some w' ∧ { w' with threads := w.threads } = w) ∧
    (∀ code x, hearthLane (st0 s) w k b = .fault code x → CanTrap s c w (vector s w) [l] →
      Faults s c w i [l] code fun _ => BitVec.ofNat 64 x)) ∧
  (∀ (s : State) (c : Issue) (w : Workgroup) (g : Guard) (f : BitVec 1) (fn : BitVec 3) (d : RegCode) (a : Src) (k : BitVec 4) (l : Nat)
      (th : Thread), Plain s c w → act s c g = [l] → w.threads[l]? = some th → th.ctr.c < 63 →
    let x := (val s c a l).toNat
    let on := fun q => ((s.ctx w.ctx).cqs[q]?).map CopyQueue.enabled = some true
    let raised := { th with ctr := { th.ctr with c := th.ctr.c + 1 } }
    (on w.cq → ∃ t q, exec (.hsum g f d a) s = .next t ∧
      Submitted s s c w l th .hsum (List.replicate 64 0) [32 * (x / 2^8 % 8) + x % 32] q t ∧ q.arg = (d.toNat, f.toNat)) ∧
    (¬ on w.cq → CanTrap s c w (vector s w) [l] → Faults s c w (.hsum g f d a) [l] 0x05 fun _ => 0) ∧
    (on k.toNat → ∃ t w', exec (.cqbind g k) s = .next t ∧ t.wg? c.wg = some w' ∧ w'.cq = k.toNat ∧
      { w' with cq := w.cq, threads := w.threads } = w ∧ (∀ j, j ≠ l → w'.threads[j]? = w.threads[j]?) ∧
      (NoneBefore s c.wg l .c s.nextId → th.born ≤ s.nextId → w'.threads[l]? = some th) ∧
      { t with wgs := s.wgs, nextId := s.nextId, fresh := s.fresh } = s) ∧
    (¬ on k.toNat → CanTrap s c w (vector s w) [l] → Faults s c w (.cqbind g k) [l] 0x05 fun _ => 0) ∧
    (∃ (t : State) (p : Pend), exec (.cqstat g fn d k) s = .next t ∧ t.pend = s.pend ++ [p] ∧ s.clk < p.due ∧ p.ctr = some .c ∧ p.wg = c.wg ∧ p.tids = [l] ∧
      p.late = some (.cqstat w.ctx k.toNat fn.toNat, d.toNat) ∧ t.thread? c.wg l = some raised ∧
      { t with pend := s.pend, wgs := s.wgs, nextId := s.nextId, fresh := s.fresh } = s) ∧
    (let tail := ((s.cq? w.ctx k.toNat).map fun q => q.tail.toNat).getD 0
      let own := ∃ q ∈ s.cmds, q.wg = c.wg ∧ q.tidx = l ∧ q.queue = k.toNat ∧ q.accepted = false
      ∃ (t : State) (target : Option Nat), exec (.cqdrain g k) s = .next t ∧ (own → target = none) ∧ (¬ own → target = some tail) ∧
        t.thread? c.wg l = some { raised with st := .blocked (.cqdrain k.toNat target), wake := none } ∧
        (∀ b ∈ t.bundles, b.wg = c.wg → l ∉ b.tids) ∧ { t with wgs := s.wgs, bundles := s.bundles, fresh := s.fresh } = s))

/-- R185 to R187, R189, R192: the first acceptable command is written into the ring slot at TAIL, a copy with its kind, TAIL rises and C
falls; the next command in the die's round that heads its queue and finds an engine starts, and HEAD rises as it starts for the first
time; a copy that has moved every byte writes its completion word, where it has one, and then DONE rises. No other queue changes. That
byte 0x38 of the ring slot is written for copies alone (log entry 25), that HLUT and HLUTW take an engine, and that DONE follows the
completion word's write (log entry 39) are the model's choices. -/
def Sys2Proof.Claim.CommandsAreAcceptedStartedAndFinished : Prop :=
  (∀ (s : State) (q : Cmd) (x : CopyQueue), s.cmds.find? s.acceptable = some q → s.cq? q.ctx q.queue = some x →
    (q.writesGlobal = true → ∀ w, s.wg? q.wg = some w → w.contained = false) →
    let i := x.tail.toNat % 2^x.size
    ∃ t, exec .copyAcceptance s = .next t ∧ OnlyCq s t q.ctx q.queue (fun y => { y with tail := y.tail + 1 }) ∧
      t.mem = s.mem.write (x.pages.getD (64 * i / 4096) 0 + 64 * i % 4096)
        (let block := (q.block ++ List.replicate 64 0).take 64
         match q.kind with
         | .cpy => block.set 0x38 1
         | .cpyg => block.set 0x38 2
         | .cpys => block.set 0x38 3
         | .cpyx => block.set 0x38 4
         | _ => block) ∧
      t.cmds = s.cmds.map (fun d => if d.id = q.id then { d with accepted := true, num := x.tail } else d) ∧ t.pend = s.pend ∧
      ∀ l th, q.kind ≠ .hsum → q.tids = [l] → s.thread? q.wg l = some th → NoneBefore s q.wg l .c q.id → th.born ≤ q.id →
        t.thread? q.wg l = some { th with ctr := { th.ctr with c := th.ctr.c - 1 } }) ∧
  (∀ (s : State) (q : Cmd), bestOf s.startBefore (s.cmds.filter fun c => !c.started && s.atHead c && s.startReady c) = some q →
    ∃ t due, exec .copyCommandStart s = .next t ∧ OnlyCq s t q.ctx q.queue (fun y => { y with head := if y.head = q.num then y.head + 1 else y.head }) ∧ s.clk < due ∧
      t.cmds = s.cmds.map (fun d => if d.id = q.id then { d with started := true, due := due } else d) ∧ t.mem = s.mem ∧ t.wgs = s.wgs ∧
      (q.kind = .hlut ∨ q.kind = .hlutw → due = s.clk + 240 ∧ (t.channel (hChannel q.block)).wave = some (q.id, q.seg)) ∧
      (q.kind ≠ .hlut ∧ q.kind ≠ .hlutw → t.channels = s.channels)) ∧
  (∀ (s : State) (q : Cmd), s.cmds.find? (fun c => c.kind != .hsum && s.finishes c c.total) = some q → isCopy q.kind = true →
    let done := fun (t : State) => exec .copyFinish s = .next t ∧ OnlyCq s t q.ctx q.queue (fun y => { y with done := y.done + 1, prog := 0 }) ∧
      t.cmds = s.cmds.filter (·.id != q.id) ∧ t.wgs = s.wgs
    (bCwe q.block = false ∨ q.cw = true → ∃ t, done t ∧ t.mem = s.mem) ∧
    (∀ pa, bCwe q.block = true → q.cw = false → q.pa (bCwaddr q.block) = some (pa, false) → bCwaddr q.block % 8 = 0 → s.remote pa = false →
      s.routed q.die (homeDie pa) = true → ∃ t, done t ∧ t.mem = s.mem.write pa (toBytes 8 (bCwval q.block))))

/-- R134, R163, R185, R186, R188, R194, R196 to R200: one segment of a copy moves, to the next end of its row or of 128 bytes. Into a tile
of the window its bytes land at the row's place under pitch and swizzle and the tile counts them, READY with the last; out of a tile they
go to memory with the last of their sector's bytes, and the tile is EMPTY after the trailer; PROG counts whole 128 bytes; each source
sector is read once, whole; poisoned data halts the queue with ERR 0x0F and moves nothing. That segments end at 128 bytes, that a sector
is read once and put down whole, are the model's choices (log entry 39). -/
def Sys2Proof.Claim.CopySegmentsMoveBytes : Prop :=
  ∀ (s : State) (q : Cmd) (w : Workgroup) (x : Tile), s.cmds.find? s.segReady = some q → s.wg? q.wg = some w →
    w.tiles[bTile q.block]? = some x → x.view = none → w.redun = none → w.contain = none → w.window.wf = true →
    let b := q.block
    let p := q.seg
    let row := (q.segAt p).1
    let o := (q.segAt p).2.1
    let n := (q.segAt p).2.2
    let at_ := fun i => tileAddr x.desc (bTrow b + row) (o + i)
    let q' := if bSrcacc b then s.holdAccs (s.hold q (q.segRuns s w x p)) (accsOf b row o n) else s.hold q (q.segRuns s w x p)
    let va := (bGaddr b + row * bGstride b + o) % 2^64
    let moved := fun (t : State) => ∃ k, t.cmds.find? (·.id == q.id) = some k ∧ k.seg = p + n ∧ OnlyCq s t q.ctx q.queue fun y =>
      { y with prog := min (p + n - (k.out.map (·.2.2.length)).foldl (· + ·) 0) q.rowBytes / 128 * 128 }
    (p < q.rowBytes → q.segAt p = (p / bRowb b, p % bRowb b, min (min (128 - p % bRowb b % 128) (bRowb b - p % bRowb b)) (128 - p % 128))) ∧
    (∀ bs sat, p < q.rowBytes → fillsTile q.kind b = true → s.segBytes q' w x p = .ok (bs, sat) → bs.length = n → p + n < q.segs ∨ q.sat.1 + q.sat.2 + sat = 0 →
      (∀ i, i < n → w.lsBad (at_ i) = none) →
      ∃ t w', exec .copySegmentArrival s = .next t ∧ moved t ∧ t.mem = s.mem ∧ t.wg? q.wg = some w' ∧
        (∀ i, i < n → w'.window.get (at_ i) = bs.getD i 0) ∧ (∀ y, (∀ i, i < n → y ≠ at_ i) → w'.window.get y = w.window.get y) ∧
        w'.tiles = w.tiles.set (bTile b) (if x.st = .filling then
          { x with arrived := x.arrived + n, st := if x.expected ≤ x.arrived + n then .ready else .filling } else x) ∧
        { w' with tiles := w.tiles, window := w.window, poison := w.poison } = w) ∧
    (p < q.rowBytes → q.kind = .cpy → bDir b = 0 → bSrcacc b = false →
      (∀ bs, s.engRead q' va n = .ok bs → s.segBytes q' w x p = .ok (bs, 0)) ∧
      (∀ pa mi, q.held = [] → q.pa va = some (pa, mi) → va % 128 + n ≤ 128 → isIo pa = false → s.engBad q pa n = false →
        s.engRead q' va n = .ok (s.mem.read pa n))) ∧
    (∀ bs sat, emptiesTile q.kind b = true → s.segBytes q' w x p = .ok (bs, sat) → (∀ d ∈ q.segOffs x p, w.lsBad (descBase x.desc + d) = none) → ∃ t w', exec .copySegmentArrival s = .next t ∧ moved t ∧
      t.wg? q.wg = some w' ∧ w'.tiles = w.tiles.set (bTile b) { x with
        st := if q.segs ≤ p + n ∧ x.st = .draining then .empty else x.st } ∧ { w' with tiles := w.tiles } = w ∧
      (q.pastSectors p = [] → t.mem = s.mem) ∧
      ∀ va pa, q.segDest p = some (va, n) → q.pa va = some (pa, false) → va % 128 + n ≤ 128 → q.out = [] → q.pastSectors p = [sectorOf pa] →
        s.remote pa = false → s.routed q.die (homeDie pa) = true → t.mem = s.mem.write pa bs) ∧
    (p < q.rowBytes → q.kind = .cpy → bDir b = 0 → bSrcacc b = true → q.held = [] →
      let h := s.channel (32 * (bGaddr b % 8) + bGaddr b / 2^8 % 32)
      s.segBytes q' w x p = .ok ((List.range (n / 4)).flatMap fun i =>
        h.acc.read (4 * (bGaddr b / 2^16 % 2^15 + row * (bGstride b / 4) + o / 4 + i)) 4, 0)) ∧
    (∀ bad, s.segBytes q' w x p = .error bad → ∃ t, exec .copySegmentArrival s = .next t ∧ t.mem = s.mem ∧
      t.cmds = s.cmds.map (fun d => if d.id = q.id then { d with started := false } else d) ∧
      OnlyCq s t q.ctx q.queue fun y => { y with err := 0x0F })

/-- R205, R208, R209, R212, R213: HSUM_SAMPLE puts the channel's status word in flight and clears it where asked; HEARTH_RED_ACCEPT takes a
reduction into its channel's queue and A falls; HEARTH_RED_APPLY writes the operation's value and no other byte; a step of an HLUTW
writes the tables of products; a weight step of an HLUT adds its rows' sums to the accumulators and keeps them, and a checksum step holds
them against its rows: the first bank that fails is the status's. HEARTH_REFRESH brings the count to 0. That a check is against what the
weight step before it added (`Channel.sums`), and the figures it is formed from, is the model's reading (log entry 56). -/
def Obligations.HearthUpdatesAndWaves : Prop :=
  (∀ (s : State) (q : Cmd) (w : Workgroup), s.cmds.find? (fun c => c.kind == .hsum && s.atHead c) = some q → s.wg? q.wg = some w →
    let n := q.idx.headD 0
    let h := s.channel n
    let word := (if h.fail then 2^31 else 0) + (if h.wave.isSome then 2^30 else 0) + h.fstep * 2^24 + h.fbank * 2^18 + h.pass
    ∃ (t : State) (p : Pend), exec .hsumSample s = .next t ∧ t.pend = s.pend ++ [p] ∧ s.clk < p.due ∧ p.ctr = some .c ∧ p.tids = [q.tidx] ∧
      Gives p q.wg [q.tidx] [(q.arg.1, fun _ => BitVec.ofNat 32 word)] [] ∧ t.cmds = s.cmds.filter (·.id != q.id) ∧
      OnlyCq s t q.ctx q.queue (fun y => { y with head := y.head + 1, done := y.done + 1 }) ∧ t.mem = s.mem ∧ t.wgs = s.wgs ∧
      (q.arg.2 = 1 → t.channel n = { h with fail := false, fstep := 0, fbank := 0, pass := 0 }) ∧ (q.arg.2 ≠ 1 → t.channels = s.channels)) ∧
  (∀ (s : State) (a : AtomOp), s.atoms.find? s.redAcceptable = some a → s.l1 = [] →
    (∀ w, s.wg? a.wg = some w → s.routed (dieOf w.core) (homeDie a.pa) = true) →
    let h := s.channel (channelOf a.pa)
    ∃ t due, exec .hearthRedAccept s = .next t ∧ t.atoms = s.atoms.filter (·.id != a.id) ∧ s.clk < due ∧
      t.channel (channelOf a.pa) = { h with queue := h.queue ++ [{ a with due := due }] } ∧ t.mem = s.mem ∧ t.pend = s.pend ∧
      ∀ th, s.thread? a.wg a.tidx = some th → NoneBefore s a.wg a.tidx .a a.id → th.born ≤ a.id →
        t.thread? a.wg a.tidx = some { th with ctr := { th.ctr with a := th.ctr.a - 1 } }) ∧
  (∀ (s : State) (h : Channel) (a : AtomOp) (r : List AtomOp), s.channels.find? (Channel.applicable s.clk) = some h → h.queue = a :: r →
    s.remote a.pa = false → a.mi = false → isIo a.pa = false → a.isC = false → s.mem.wf = true →
    let ty := a.fields.toNat / 16 % 8
    let n := if ty = 2 ∨ ty = 3 then 8 else 4
    s.poisoned a.pa n = false → ∃ t, exec .hearthRedApply s = .next t ∧ t.channel h.num = { h with queue := r } ∧ t.wgs = s.wgs ∧
      t.mem.readNat a.pa n = atomNew ty (a.fields.toNat % 16) (s.mem.readNat a.pa n) (a.opB.toNat % 2^(8 * n)) % 2^(8 * n) ∧
      ∀ x, ¬ (a.pa ≤ x ∧ x < a.pa + n) → t.mem.get x = s.mem.get x) ∧
  (∀ (s : State) (q : Cmd), s.cmds.find? (fun c => ((s.waveDue c).map fun h => decide (h.refresh < 8)).getD false) = some q →
    let h := s.channel (hChannel q.block)
    (q.kind = .hlutw → q.seg = 0 → ∃ t k, exec .hlutWaveStep s = .next t ∧ t.mem = s.mem ∧ t.wgs = s.wgs ∧ k.wave = none ∧
      t.channel (hChannel q.block) = k ∧ k.wcode = hWcode .hlutw q.block ∧ k.acts = q.block.drop 0x20 ∧ k.acc = h.acc ∧ k.queue = h.queue ∧
      ∀ i j, i < 32 → j < 16 → (BitVec.ofNat 16 (field k.table (32 * i + 2 * j) 2)).toInt =
        hDec (hWcode .hlutw q.block) j * ((q.block.drop 0x20).getD i 0).toInt) ∧
    let chk := hChk q.block
    let step := if chk then q.seg / 2 else q.seg
    let rows := fun r => s.stepRows ((q.xlate.head?.map fun x => x.2 / 4096 * 4096).getD 0) (hStack q.block) (hChan q.block) (hRow q.block + r)
    (∀ ws, q.kind = .hlut → (chk = true → q.seg % 2 = 0) → rows step = .ok ws →
      ∃ t, exec .hlutWaveStep s = .next t ∧ t.mem = s.mem ∧ t.wgs = s.wgs ∧
        (t.channel (hChannel q.block)).acc = addAcc h.acc step (ws.flatMap (rowSums h.table)) ∧
        (t.channel (hChannel q.block)).sums = ws.map (rowSums h.table)) ∧
    (∀ cs, q.kind = .hlut → chk = true → q.seg % 2 = 1 → rows (hSteps q.block + step) = .ok cs → h.sums.length = 64 →
      let bad := fun n => checkBank h (h.sums.getD n []) (cs.getD n []) = false
      ∃ t, exec .hlutWaveStep s = .next t ∧ t.mem = s.mem ∧ t.wgs = s.wgs ∧
        let k := t.channel (hChannel q.block)
        k.acc = h.acc ∧ (k.fail = true ↔ h.fail = true ∨ ∃ n, n < 64 ∧ bad n) ∧
        (h.fail = true → k.fstep = h.fstep ∧ k.fbank = h.fbank) ∧
        (h.fail = false → ∀ n, n < 64 → bad n → (∀ m, m < n → ¬ bad m) → k.fstep = step ∧ k.fbank = n) ∧
        ((∀ n, n < 64 → ¬ bad n) → h.pass + 64 ≤ 0xFFFF → k.pass = h.pass + 64))) ∧
  (∀ (s : State) (h : Channel), s.channels.find? s.refreshes = some h → h.wave = none → ∃ t, exec .hearthRefresh s = .next t ∧
    t.channel h.num = { h with refresh := 0 } ∧ t.mem = s.mem ∧ t.wgs = s.wgs ∧ t.cmds = s.cmds)

/-! Anvils, the crucible, the dense pipe and the epilogue (R214 to R259). -/

namespace Sys2Proof.Claim

/-- One active thread, with room on M, whose register pair is the address of a block that it reads at once; no L1 holds a copy. -/
def OpAt (s : State) (c : Issue) (w : Workgroup) (g : Guard) (a : RegCode) (l : Nat) (th : Thread) (b : List Byte) : Prop :=
  Plain s c w ∧ act s c g = [l] ∧ w.threads[l]? = some th ∧ th.ctr.m < 63 ∧ s.l1 = [] ∧
  laneBlock (st0 s) w l (reg s c (a.toNat + 1) l ++ reg s c a.toNat l : Word64).toNat = .ok (b, none) ∧
  laneWaits (st0 s) w l (reg s c (a.toNat + 1) l ++ reg s c a.toNat l : Word64).toNat = false

/-- The workgroup changes in these two ways and nothing else of the machine does. -/
def OnlyWg (s : State) (c : Issue) (w' : Workgroup) (t : State) : Prop :=
  t.wg? c.wg = some w' ∧ { t with wgs := s.wgs, fresh := s.fresh } = s ∧ ∀ u, u ≠ c.wg → t.wg? u = s.wg? u

/-- One matrix operation is accepted, waiting to start, counted on M of each of its threads. -/
def Accepted (s : State) (c : Issue) (w : Workgroup) (ts : List Nat) (k : MatKind) (b : List Byte) (o : MatOp) (w' : Workgroup)
    (t : State) : Prop :=
  t.ops = s.ops ++ [o] ∧ o.id = s.nextId ∧ o.kind = k ∧ o.blk = b ∧ o.wg = c.wg ∧ o.tidx = elect ts ∧ o.tids = ts ∧ o.st = .queued ∧
  o.group = 0 ∧ o.data = [] ∧ t.wg? c.wg = some w' ∧ t.mem = s.mem ∧ t.pend = s.pend ∧ t.cmds = s.cmds ∧ w'.window = w.window ∧ w'.cr = w.cr ∧
  w'.waves = w.waves ∧
  (∀ l ∈ ts, ∀ th : Thread, w.threads[l]? = some th → w'.threads[l]? = some { th with ctr := { th.ctr with m := th.ctr.m + 1 } }) ∧
  ∀ l, l ∉ ts → w'.threads[l]? = w.threads[l]?

/-- A submission takes 1 from the held lease of its engine; the last leaves it spent (R230). -/
def LeaseTaken (w w' : Workgroup) (e : Nat) : Prop :=
  ∀ r n, w.lease e = .held r n → w'.lease e = if r ≤ 1 then .spent n else .held (r - 1) n

/-- A submission that finds no lease faults; one whose lease is spent waits for it, at the instruction. -/
def LeaseStops (s : State) (c : Issue) (w : Workgroup) (i : Instr) (l e : Nat) : Prop :=
  ((st0 s).leaseFate w e = .lost → CanTrap s c w (vector s w) [l] → Faults s c w i [l] 0x0E fun _ => 0) ∧
  (∀ n, (st0 s).leaseFate w e = .wait (some n) → ∃ t y, exec i s = .next t ∧ t.leaseReqs = s.leaseReqs ++ [⟨w.core, e, c.wg, n, [l]⟩] ∧
    t.thread? c.wg l = some y ∧ y.st = .blocked (.lease e) ∧ y.pc = y.here.pc ∧ t.ops = s.ops ∧ t.mem = s.mem)

/-- An entry of a workgroup's crucible by flat number. -/
def entry (w : Workgroup) (f : Nat) : Nat := ((w.cr[f / 4096]?).map fun x => x.entry (f % 4096)).getD 0

/-- The entries of the group of slabs under way are written, each once, and no other entry. -/
def GroupWritten (s t : State) (o : MatOp) (w : Workgroup) : Prop :=
  let b := o.blk
  let at_ := fun v n => 4096 * aCbank b + aCoff b + v * aVstride b + n
  (∀ v n, v < aNvec b → n < aN b → t.crEntry o (at_ v n) =
    (let r := o.entryValue w (o.data.getD v []) n o.group o.perGroup (if aZero b ∧ o.group = 0 then 0 else s.crEntry o (at_ v n))
     if r.bad then o.badBits else r.bits) % 2^32) ∧
  ∀ f, (∀ v n, v < aNvec b → n < aN b → f ≠ at_ v n) → t.crEntry o f = s.crEntry o f

/-- The entries of an operation are its workgroup's, held, and nothing is poisoned: no word of the window, no byte of a map or side store, no
entry, and nothing that an operation has read. -/
def EntriesSound (s : State) (w : Workgroup) (rs : Runs) : Prop :=
  s.crBusy = [] ∧ w.poison = [] ∧ (∀ x ∈ w.slabs, x.bad = []) ∧ (∀ p ∈ s.ops, p.bad = false) ∧ (∀ r ∈ rs, r.1 + r.2 ≤ 65536) ∧ w.holdsRuns rs = true ∧
  ∀ x ∈ w.cr, x.data.wf = true ∧ x.bad = []

/-- M of an operation's one thread falls, where nothing of M is outstanding before it. -/
def MFalls (s t : State) (o : MatOp) : Prop :=
  t.ops = s.ops.filter (·.id != o.id) ∧
  ∀ th, o.tids = [o.tidx] → s.thread? o.wg o.tidx = some th → th.fell = [] → th.born ≤ o.id → (∀ p ∈ s.pend, p.wg = o.wg → p.ctr ≠ some .m) →
    (∀ p ∈ s.ops, p.id < o.id → ¬ (p.wg = o.wg ∧ o.tidx ∈ p.tids)) → ∃ th', t.thread? o.wg o.tidx = some th' ∧
      th' = { th with ctr := { th.ctr with m := th.ctr.m - 1 } }

end Sys2Proof.Claim

/-- R215, R217, R218, R236 to R239: SLABM, WBMAP and WSCALE of an owned slab put their action at the end of the slab's order, with the bytes
read at issue, and it takes effect when it heads that order; WLOAD sends one command to the copy queue and takes its place there; a slab
the workgroup does not own raises TILEBAD; ELECT is true in the elected thread alone. TRAPADDR of that TILEBAD is the slab's number: R236
names it for SLABM alone, and for WLOAD, WBMAP and WSCALE it is the model's choice (log entry 30), as is where their bad bytes are kept
(log entry 62). -/
def Obligations.SlabInstructions : Prop :=
  (∀ (s : State) (c : Issue) (w : Workgroup) (g : Guard) (f : BitVec 1) (a : Src) (k : BitVec 4) (d : PredCode), Plain s c w →
    let A := act s c g
    let x := (val s c a (elect A)).toNat
    let enters := fun (i : Instr) (y : SlabAct) => ∃ t w', exec i s = .next t ∧ OnlyWg s c w' t ∧ w'.slabQ = w.slabQ ++ [(k.toNat, y)] ∧
      { w' with slabQ := w.slabQ } = w
    let reads := fun (i : Instr) (n : Nat) (y : List Byte → List Nat → SlabAct) => ∃ t w', exec i s = .next t ∧ t.wg? c.wg = some w' ∧
      w'.slabQ = w.slabQ ++ [(k.toNat, y ((List.range n).map fun j => w.winByte (x + j))
        ((List.range n).filter fun j => (w.poisonAt [x + j]).isSome))] ∧ w'.slabs = w.slabs ∧ w'.window = w.window ∧
      w'.waves = w.waves ∧ t.mem = s.mem ∧ t.pend = s.pend
    let stored := ∀ l ∈ A, ∃ th : Thread, w.threads[l]? = some th ∧ th.sq = []
    A ≠ [] → (∃ t, exec (.elect g d) s = .next t ∧ Lands s c 4 A [] [(d.toNat, fun l => l == elect A)] t) ∧
    (k.toNat < w.slabs.length →
      ((f = 1 → ∀ y ∈ w.tiles, y.inSlab k.toNat = false) → enters (.slabm g f k) (.mode (f == 1) A)) ∧
      (f = 1 → (∃ y ∈ w.tiles, y.inSlab k.toNat = true) → CanTrap s c w (vector s w) A →
        Faults s c w (.slabm g f k) A 0x08 fun _ => k.setWidth 64) ∧
      (x % 16 = 0 → stored → reads (.wbmap g 0 a k) 256 .mapLoad ∧ reads (.wscale g 0 a k) 2048 .scaleLoad) ∧
      (anvFormat (slotElem (slotOf s c (x % 8))) = true → slotResOk (slotOf s c (x % 8)) = true →
        enters (.wbmap g 1 a k) (.mapScan (slotElem (slotOf s c (x % 8))))) ∧
      enters (.wscale g 1 a k) (.scaleFill (BitVec.ofNat 8 x)) ∧
      (∀ l (th : Thread), A = [l] → w.threads[l]? = some th → th.ctr.c < 63 → (s.cq? w.ctx w.cq).map CopyQueue.enabled = some true →
        let y := (val64 s c a l).toNat
        (∀ pages, y % 128 = 0 → (st0 s).holdPages w [(y, 65536, false)] = ([], pages) → ∃ t q w', exec (.wload g 0 a k) s = .next t ∧
          Submitted s s c w l th .wload (List.replicate 64 0) [y] q t ∧ q.xlate = pages ∧ q.arg = (k.toNat, 0) ∧ t.wg? c.wg = some w' ∧
          w'.slabQ = w.slabQ ++ [(k.toNat, .wload q.id)] ∧ w'.tiles = w.tiles ∧ w'.window = w.window) ∧
        (∀ z : Tile, s.l1 = [] → s.merges = [] → w.tiles[x % 64]? = some z → z.st = .ready → z.view = none → descBytes z.desc ≤ 65536 → ∃ t q w',
          exec (.wload g 1 a k) s = .next t ∧ Submitted s s c w l th .wload (List.replicate 64 0) [x % 64] q t ∧ q.arg = (k.toNat, 1) ∧
          t.wg? c.wg = some w' ∧ w'.slabQ = w.slabQ ++ [(k.toNat, .wload q.id)] ∧
          w'.tiles = w.tiles.set (x % 64) { z with st := .draining } ∧ w'.window = w.window))) ∧
    (w.slabs.length ≤ k.toNat → CanTrap s c w (vector s w) A → (∀ l ∈ A, ∃ th : Thread, w.threads[l]? = some th ∧ th.ctr.c < 63) →
      let out := fun (i : Instr) => Faults s c w i A 0x08 fun _ => k.setWidth 64
      out (.slabm g f k) ∧ out (.wscale g f a k) ∧
      ((f = 1 → anvFormat (slotElem (slotOf s c (x % 8))) = true ∧ slotResOk (slotOf s c (x % 8)) = true) → out (.wbmap g f a k)) ∧
      ((∀ p, wloadSource (st0 s) w (elect A) f.toNat (if f = 0 then (val64 s c a (elect A)).toNat else x) ≠ .park p) → out (.wload g f a k)))) ∧
  (∀ (w : Workgroup) (k : Nat) (x : Slab) (m : Bool) (ts : List Nat) (bs : List Byte) (bad : List Nat) (b : Byte), w.slabs[k]? = some x →
    let does := fun (y : Slab) => ∃ w', w.slabAct k = some w' ∧ w'.slabs = w.slabs.set k y ∧ w'.window = w.window ∧ w'.threads = w.threads
    (w.slabHead k = some (.mode m ts) → (∀ l ∈ ts, ∀ th : Thread, w.threads[l]? = some th → th.sq = []) → does { x with anvil := m }) ∧
    (w.slabHead k = some (.mapLoad bs bad) →
      does { x with map := Mem.ofBytes bs, bad := x.bad.filter (· < 2048) ++ bad.map (2048 + ·) }) ∧
    (w.slabHead k = some (.scaleLoad bs bad) → does { x with scales := Mem.ofBytes bs, bad := x.bad.filter (2048 ≤ ·) ++ bad }) ∧
    (w.slabHead k = some (.scaleFill b) →
      does { x with scales := Mem.ofBytes (List.replicate 2048 b), bad := x.bad.filter (2048 ≤ ·) }))

/-- R222 to R228, R240, R241: AMV and AMVB of a block whose checks pass, with a lease, are accepted and take their tile and their place in
each slab's order; the start reads the activation rows once, by the descriptor the tile had at issue, and runs the first group for its
time; the end of a group, and the end of the operation, write each entry of it once; then M falls. AWAIT blocks on the operations of the
sequencers it names. The order of a bundle's lanes, which mode of a slab counts, that K = 0 is refused and that AWAIT lasts until 8 clk
after the last operation are the model's choices (log entries 64, 40, 65, 32). -/
def Obligations.AnvilOperations : Prop :=
  (∀ (s : State) (c : Issue) (w : Workgroup) (g : Guard) (a : RegCode) (q : BitVec 1) (l : Nat) (th : Thread) (b : List Byte),
    OpAt s c w g a l th b → ∀ i one, (i, one) ∈ [(Instr.amv g a q, true), (.amvb g a q, false)] →
    let sl := fun k => slotOf s c (k % 8)
    let fate := amvLane w l one b (sl (aSlots b)) (sl (aSlots b / 8))
    (fate = .go → (st0 s).leaseFate w q.toNat = .go → ∃ (t : State) (o : MatOp) (w' : Workgroup) (x : Tile), exec i s = .next t ∧ Accepted s c w [l] (.amv q.toNat) b o w' t ∧
      o.slots = [sl (aSlots b), sl (aSlots b / 8)] ∧ o.geo = [(aTile b, x.desc)] ∧ LeaseTaken w w' q.toNat ∧ w.tiles[aTile b]? = some x ∧
      w'.tiles = w.tiles.set (aTile b) { x with readers := x.readers + 1 } ∧
      w'.slabQ = w.slabQ ++ (List.range (aNslab b)).map fun i => (aSlab b + i, .anvil o.id)) ∧
    (fate = .go → LeaseStops s c w i l q.toNat) ∧
    (∀ code x, fate = .fault code x → CanTrap s c w (vector s w) [l] → Faults s c w i [l] code fun _ => BitVec.ofNat 64 x) ∧
    (∀ p, fate = .park p → ∃ t, exec i s = .next t ∧ Parks s c w [l] p t)) ∧
  (∀ (s : State) (c : Issue) (w : Workgroup) (g : Guard) (m : BitVec 2), s.cur = some c → s.wg? c.wg = some w →
    let ids := (s.ops.filter fun o => o.wg == c.wg && o.isAmv && m.toNat.testBit o.unit).map (·.id)
    ∃ t, exec (.await g m) s = .next t ∧ Blocks s c w (act s c g) (fun _ => .await ids) (if ids = [] then some (s.clk + 8) else none) t) ∧
  (∀ (s : State) (o : MatOp) (w : Workgroup) (x : Tile) (e : Word64), s.ops.find? s.amvNext = some o → s.wg? o.wg = some w → w.poison = [] →
    w.flips = [] → w.tiles[aTile o.blk]? = some x → o.geo.lookup (aTile o.blk) = some e → o.data = [] →
    let n := min (aNslab o.blk - o.group) (((s.dies[dieOf w.core]?).map Die.slabGrant).getD 0)
    ∃ t w', exec .anvilOperationStart s = .next t ∧ t.mem = s.mem ∧ t.wg? o.wg = some w' ∧ w'.threads = w.threads ∧ w'.window = w.window ∧
      w'.cr = w.cr ∧ w'.tiles = w.tiles.set (aTile o.blk) { x with readers := x.readers - 1 } ∧
      t.ops = s.ops.map fun p => if p.id = o.id then { p with
        st := .running (s.clk + o.groupTime w o.group n), perGroup := n, permits := n
        data := (List.range (aNvec o.blk)).map fun v => (descOffs e (aRow o.blk + v) 0 (descPitch e)).map fun d =>
          (w.winByte (descBase e + d)).toNat } else p) ∧
  (∀ (s : State) (o : MatOp) (w : Workgroup), s.wg? o.wg = some w → EntriesSound s w (amvRuns o.blk) → o.badAt = [] → (∀ row ∈ o.data, 256 ∉ row) → aNvec o.blk ≤ 1 ∨ aN o.blk ≤ aVstride o.blk →
    (s.ops.find? (·.groupEnds s.clk) = some o → ∃ t, exec .permitGroupEnd s = .next t ∧ GroupWritten s t o w ∧ t.mem = s.mem ∧
      let n := min (aNslab o.blk - (o.group + o.perGroup)) o.perGroup
      t.ops = s.ops.map fun p => if p.id = o.id then { p with
        group := o.group + o.perGroup, perGroup := n
        st := if s.enginesGoOn w.ctx then .running (s.clk + o.groupTime w (o.group + o.perGroup) n) else .between } else p) ∧
    (s.ops.find? (fun o => o.isAmv && o.due s.clk && !o.groupEnds s.clk) = some o → ∃ t w', exec .anvilOperationComplete s = .next t ∧
      GroupWritten s t o w ∧ MFalls s t o ∧ t.mem = s.mem ∧ t.wg? o.wg = some w' ∧ w'.slabQ = w.slabQ.filter fun y => y.2 != .anvil o.id))

/-- R232 to R234, R242 to R245, R259: CRALLOC of free names waits for its banks; the grant, 128 clk after they are free, makes them held
with every entry 0, and each waiter goes on with true; with no progress for 256 clk the youngest request of the core is turned away with
false; CRFREE makes the names free; CRZERO, CRRD and CRWR clear, read and write entries of held banks; the others raise TILEBAD. TRAPADDR
of CRFREE's is B, which R243 does not name: the model's choice (log entry 30). So is that banks are a request's own from when they are
free (log entry 40). -/
def Obligations.CrucibleBanks : Prop :=
  (∀ (s : State) (c : Issue) (w : Workgroup) (g : Guard) (p : PredCode) (d : RegCode) (a : Src) (k : BitVec 4), Plain s c w →
    s.ops = [] → (∀ x ∈ w.cr, x.data.wf = true ∧ x.bad = []) →
    let A := act s c g
    let n := (val s c a (elect A)).toNat
    let e := fun l => (val s c a l).toNat + l % 32
    let names := (w.cr.drop k.toNat).take n
    let faults := fun (i : Instr) (code : Nat) (x : Word64) => CanTrap s c w (vector s w) A → Faults s c w i A code fun _ => x
    let only := fun (t : State) (w' : Workgroup) => t.wg? c.wg = some w' ∧ { w' with cr := w.cr, threads := w.threads } = w ∧
      { t with wgs := s.wgs, bundles := s.bundles, fresh := s.fresh } = s ∧ ∀ (i : Nat) (th : Thread), w.threads[i]? = some th →
        ∃ x : Nat, w'.threads[i]? = some { th with notBefore := x }
    A ≠ [] →
    (1 ≤ n → n ≤ 16 → k.toNat + n ≤ w.cr.length → (∀ x ∈ names, x.held = false) → ∃ t, exec (.cralloc g p a k) s = .next t ∧
      t.crReqs = s.crReqs ++ [⟨s.nextId, c.core, c.wg, A, k.toNat, n, p.toNat, s.clk, none⟩] ∧
      Blocks s c w A (fun _ => .cralloc s.nextId) none { t with crReqs := s.crReqs, nextId := s.nextId }) ∧
    (n = 0 ∨ 16 < n → faults (.cralloc g p a k) 0x01 0 ∧ faults (.crfree g a k) 0x01 0) ∧
    (1 ≤ n → n ≤ 16 → w.cr.length < k.toNat + n ∨ (∃ x ∈ names, x.held = true) → faults (.cralloc g p a k) 0x08 (k.setWidth 64)) ∧
    (1 ≤ n → n ≤ 16 → w.cr.length < k.toNat + n ∨ (∃ x ∈ names, x.held = false) → faults (.crfree g a k) 0x08 (k.setWidth 64)) ∧
    (1 ≤ n → n ≤ 16 → k.toNat + n ≤ w.cr.length → (∀ x ∈ names, x.held = true) → ∃ t w', exec (.crfree g a k) s = .next t ∧ OnlyWg s c w' t ∧
      { w' with cr := w.cr } = w ∧ ∀ i : Nat, w'.cr[i]? = if k.toNat ≤ i ∧ i < k.toNat + n then some ⟨false, [], 0, []⟩ else w.cr[i]?) ∧
    (let f0 := 4096 * k.toNat + n % 4096
     let m := n / 2^16 % 2^13
     (n / 2^12 % 16 = 0 → n / 2^29 = 0 → 1 ≤ m → m ≤ 4096 → w.holdsRuns [(f0, m)] = true → ∃ t w', exec (.crzero g a k) s = .next t ∧ only t w' ∧
        ∀ f, f < 65536 → entry w' f = if f0 ≤ f ∧ f < f0 + m then 0 else entry w f) ∧
     (n / 2^12 % 16 ≠ 0 ∨ n / 2^29 ≠ 0 ∨ m = 0 ∨ 4096 < m ∨ w.holdsRuns [(f0, m)] = false → faults (.crzero g a k) 0x08 (k.setWidth 64))) ∧
    (∀ x : CrBank, w.cr[k.toNat]? = some x → x.held = true → (∀ l ∈ A, e l < 4096) →
      (∀ f : BitVec 1, (∀ l ∈ A, ∃ th : Thread, w.threads[l]? = some th ∧ th.ctr.m < 63) → ∃ (t : State) (q : Pend), exec (.crrd g f d a k) s = .next t ∧ t.pend = s.pend ++ [q] ∧
        q.due = s.clk + 15 + (if f = 1 then 1 else (A.map fun l => e l / 32).eraseDups.length) ∧ q.ctr = some .m ∧ q.tids = A ∧
        Gives q c.wg A [(d.toNat, fun l => if f = 1 then ((w.cr[l % 32]?).map fun y => if y.held then BitVec.ofNat 32 y.ovf else 0).getD 0
          else BitVec.ofNat 32 (x.entry (e l)))] [] ∧
        t.wgs = (onThreads s c.wg A fun _ th => { th with ctr := { th.ctr with m := th.ctr.m + 1 } }).wgs ∧
        { t with pend := s.pend, wgs := s.wgs, nextId := s.nextId, fresh := s.fresh } = s) ∧
      ∃ t w', exec (.crwr g d a k) s = .next t ∧ only t w' ∧ (∀ i : Nat, i ≠ k.toNat → w'.cr[i]? = w.cr[i]?) ∧ ∀ j, j < 4096 →
        ((∀ l ∈ A, e l ≠ j) → entry w' (4096 * k.toNat + j) = entry w (4096 * k.toNat + j)) ∧
        ((∃ l ∈ A, e l = j) → ∃ l ∈ A, e l = j ∧ (∀ m ∈ A, e m = j → m % 32 ≤ l % 32) ∧
          entry w' (4096 * k.toNat + j) = (reg s c d.toNat l).toNat)) ∧
    ((∀ x : CrBank, w.cr[k.toNat]? = some x → x.held = false) → faults (.crwr g d a k) 0x08 (k.setWidth 64) ∧ faults (.crrd g 0 d a k) 0x08 (k.setWidth 64))) ∧
  (∀ (s : State) (r : CrReq) (w : Workgroup) (b : Bool), s.wg? r.wg = some w → r.tids.Nodup →
    (if b then s.crReqs.find? (fun r => (r.due.map fun d => decide (d ≤ s.clk)).getD false && ((s.wg? r.wg).map s.wgRuns).getD false) = some r
      else ∃ p, s.noProg.find? (fun p => decide (p.2 + 256 ≤ s.clk) && s.noProgress p.1) = some p ∧
        bestOf crYounger (s.crReqs.filter (·.core == p.1)) = some r) →
    ∃ t w', exec (if b then .crallocGrant else .noprogress) s = .next t ∧ t.crReqs = s.crReqs.filter (·.id != r.id) ∧ t.mem = s.mem ∧
      t.wg? r.wg = some w' ∧ { w' with cr := w.cr, threads := w.threads } = w ∧
      (∀ i : Nat, w'.cr[i]? = if b = true ∧ r.base ≤ i ∧ i < r.base + r.n ∧ i < w.cr.length then some ⟨true, [], 0, []⟩ else w.cr[i]?) ∧
      (∀ (l : Nat) (th : Thread), w.threads[l]? = some th →
        w'.threads[l]? = some (if l ∈ r.tids ∧ th.st = .blocked (.cralloc r.id) then freed th s.clk else th)) ∧
      (r.d = 0 → t.pend = s.pend) ∧
      (r.d ≠ 0 → ∃ q : Pend, t.pend = s.pend ++ [q] ∧ q.due = s.clk ∧ Gives q r.wg (s.crTids r) [] [(r.d, fun _ => b)])) ∧
  (∀ (s : State) (r : CrReq), (∀ q ∈ s.crReqs, s.crTids q ≠ []) → r ∈ s.crReqs →
    let now := r.due = none ∧ (∀ q ∈ s.crReqs, q.core = r.core → r.id ≤ q.id) ∧ s.freeBanks.banksUsed r.core + r.n ≤ 16
    (now → { r with due := some (s.clk + 128) } ∈ s.settleRequests.crReqs) ∧ (¬ now → r ∈ s.settleRequests.crReqs)) ∧
  (∀ (s : State) (k n : Nat), (k, n) ∈ s.watchProgress.noProg ↔
    (∃ r ∈ s.crReqs, r.core = k) ∧ s.noProgress k = true ∧ n = (s.noProg.lookup k).getD s.clk)

/-- R230, R231, R246: LEASE of 1 to 256 submissions counts a held lease anew, or asks for the engine and waits; another number raises
ILLOP. UNLEASE ends the lease and frees the engine. LEASE_GRANT gives a free engine to the next request: the lease is held with the number
it asked for, or as it stands where it is held since before a save or was counted anew, and its threads go on. That submissions waiting
for one spent lease share a request is the model's choice (log entry 40). -/
def Obligations.Leases : Prop :=
  (∀ (s : State) (c : Issue) (w : Workgroup) (g : Guard) (a : Src) (k : BitVec 2), Plain s c w → w.leases.length = 3 → k.toNat < 3 →
    let A := act s c g
    let n := (val s c a (elect A)).toNat
    A ≠ [] →
    (∀ r m, 1 ≤ n → n ≤ 256 → w.lease k.toNat = .held r m → ∃ t w', exec (.lease g a k) s = .next t ∧ OnlyWg s c w' t ∧
      w'.leases = w.leases.set k.toNat (.held n n) ∧ { w' with leases := w.leases } = w) ∧
    ((∀ r m, w.lease k.toNat ≠ .held r m) → 1 ≤ n → n ≤ 256 → ∃ t, exec (.lease g a k) s = .next t ∧
      t.leaseReqs = s.leaseReqs ++ [⟨w.core, k.toNat, c.wg, n, A⟩] ∧
      Blocks s c w A (fun _ => .lease k.toNat) none { t with leaseReqs := s.leaseReqs }) ∧
    (n = 0 ∨ 256 < n → CanTrap s c w (vector s w) A → Faults s c w (.lease g a k) A 0x01 fun _ => 0) ∧
    ∃ t w', exec (.unlease g k) s = .next t ∧ t.wg? c.wg = some w' ∧ w'.leases = w.leases.set k.toNat .none ∧ { w' with leases := w.leases } = w ∧
      (t.engine w.core k.toNat).owner ≠ some c.wg ∧
      { t with wgs := s.wgs, engines := s.engines, leaseReqs := s.leaseReqs, fresh := s.fresh } = s) ∧
  (∀ (s : State) (r : LeaseReq) (w : Workgroup) (l : Nat) (th : Thread), s.leaseReqs.find? s.leaseNext = some r → s.wg? r.wg = some w →
    r.eng < w.leases.length → r.tids = [l] → w.threads[l]? = some th → th.st = .blocked (.lease r.eng) →
    ∃ t w', exec .leaseGrant s = .next t ∧ t.leaseReqs = s.leaseReqs.erase r ∧ t.engine r.core r.eng = ⟨r.core, r.eng, some r.wg, w.slot⟩ ∧
      t.wg? r.wg = some w' ∧ w'.lease r.eng = (match w.lease r.eng with
        | .held k n => .held k n
        | _ => .held r.n r.n) ∧ w'.threads = w.threads.set l (freed th s.clk) ∧
      { w' with leases := w.leases, threads := w.threads } = w ∧
      { t with wgs := s.wgs, engines := s.engines, leaseReqs := s.leaseReqs } = s)

/-- R248 to R251, R254 to R258: OMAP writes an operand map; MMA and MMAG of a block whose checks pass, with a lease, NZSCAN and EPI are
accepted, counted on M: the tiles MMA and MMAG read have one more reader and the tile NZSCAN and EPI fill is FILLING. A failing check
raises its fault; a tile that may not be taken yet parks the thread. That NZSCAN makes one operation counted by every active thread is the
model's choice (log entry 39), as are the offsets of failing fields and that OMAP takes effect at its issue (log entries 30, 40). -/
def Obligations.DenseSubmissions : Prop :=
  (∀ (s : State) (c : Issue) (w : Workgroup) (g : Guard) (a : RegCode) (k : BitVec 3) (l : Nat) (th : Thread), Plain s c w → act s c g = [l] →
    w.threads[l]? = some th → th.ctr.m < 63 →
    let m : Word64 := reg s c (a.toNat + 1) l ++ reg s c a.toNat l
    let x := m.toNat
    let sl := slotOf s c k.toNat
    let faults := fun (i : Instr) (code y : Nat) => CanTrap s c w (vector s w) [l] → Faults s c w i [l] code fun _ => BitVec.ofNat 64 y
    (x / 2^9 % 8 < 4 → x % 64 < w.tiles.length → x / 2^36 % 256 ≠ 0 → x / 2^44 = 0 → x / 2^6 % 4 = 0 → ∃ t w', exec (.omap g a k) s = .next t ∧
      OnlyWg s c w' t ∧ w'.omaps = w.omaps.set k.toNat (some m) ∧ { w' with omaps := w.omaps } = w) ∧
    (4 ≤ x / 2^9 % 8 → faults (.omap g a k) 0x07 0) ∧
    (x / 2^9 % 8 < 4 → w.tiles.length ≤ x % 64 ∨ x / 2^36 % 256 = 0 ∨ x / 2^44 ≠ 0 ∨ x / 2^6 % 4 ≠ 0 → faults (.omap g a k) 0x08 (x % 64)) ∧
    (s.l1 = [] → scanLane (st0 s) w m sl = .go → ∃ (t : State) (o : MatOp) (w' : Workgroup) (y : Tile) (z : Tile),
      exec (.nzscan g a k) s = .next t ∧ Accepted s c w [l] .nzscan [] o w' t ∧ o.desc = m ∧ o.slots = [sl] ∧ o.maps = [y.desc] ∧
      w.tiles[x % 64]? = some y ∧ w.tiles[x / 2^8 % 64]? = some z ∧
      w'.tiles = w.tiles.set (x / 2^8 % 64) { z with st := .filling, arrived := 0, expected := 4 * (x / 2^28 % 2^12 + 2) }) ∧
    (∀ code y, scanLane (st0 s) w m sl = .fault code y → faults (.nzscan g a k) code y) ∧
    (∀ p, scanLane (st0 s) w m sl = .park p → ∃ t, exec (.nzscan g a k) s = .next t ∧ Parks s c w [l] p t)) ∧
  (∀ (s : State) (c : Issue) (w : Workgroup) (g : Guard) (a : RegCode) (l : Nat) (th : Thread) (b : List Byte), OpAt s c w g a l th b →
    (∀ i k, (i, k) ∈ [(Instr.mma g a, MatKind.mma), (.mmag g a, .mmag)] →
      (∀ ma mb, mmaLane w (k == .mmag) b = (.go, ma, mb) → (st0 s).leaseFate w 2 = .go → ∃ t o w', exec i s = .next t ∧
        Accepted s c w [l] k b o w' t ∧ o.maps = [ma, mb] ∧ o.geo = w.geoOf (mmaTiles (k == .mmag) b ma mb) ∧ LeaseTaken w w' 2 ∧ w'.tiles.length = w.tiles.length ∧
        ∀ (n : Nat) (x : Tile), w.tiles[n]? = some x →
          w'.tiles[n]? = some { x with readers := x.readers + ((mmaTiles (k == .mmag) b ma mb).filter (· == n)).length }) ∧
      (∀ ma mb, mmaLane w (k == .mmag) b = (.go, ma, mb) → LeaseStops s c w i l 2) ∧
      (∀ code x ma mb, mmaLane w (k == .mmag) b = (.fault code x, ma, mb) → CanTrap s c w (vector s w) [l] →
        Faults s c w i [l] code fun _ => BitVec.ofNat 64 x) ∧
      (∀ p ma mb, mmaLane w (k == .mmag) b = (.park p, ma, mb) → ∃ t, exec i s = .next t ∧ Parks s c w [l] p t)) ∧
    (let sl := slotOf s c (eSlot b % 8)
     (∀ x : Tile, epiLane (st0 s) w l b sl = .go → w.tiles[eTile b]? = some x → x.view = none → ∃ t o w', exec (.epi g a) s = .next t ∧
        Accepted s c w [l] .epi b o w' t ∧ o.slots = [sl] ∧
        w'.tiles = w.tiles.set (eTile b) { x with st := .filling, arrived := 0, expected := epiBytes b sl x }) ∧
     (∀ code x, epiLane (st0 s) w l b sl = .fault code x → CanTrap s c w (vector s w) [l] →
        Faults s c w (.epi g a) [l] code fun _ => BitVec.ofNat 64 x) ∧
     (∀ p, epiLane (st0 s) w l b sl = .park p → ∃ t, exec (.epi g a) s = .next t ∧ Parks s c w [l] p t)))

namespace Sys2Proof.Claim

/-- The values of an epilogue's row `i` and column `j`: the entry's, scaled, biased and rectified, exact. -/
def epiExact (s : State) (o : MatOp) (i j : Nat) : Val :=
  let b := o.blk
  epiValue b (s.crValue o (4096 * eCbank b + eCoff b + eWidth b * (i * eCld b + j)) (eWidth b)) ((o.data.headD []).getD j 0)

/-- An epilogue of a tile of the window is over, with `n` elements saturated and bytes written where `cells` says, and no others but the
trailer's, where the counter rose: the tile counts its bytes, CLR clears the entries, and M falls. -/
def EpiEnds (s : State) (o : MatOp) (w : Workgroup) (x : Tile) (n : Nat) (cells : Nat → Prop) (w' : Workgroup) (t : State) : Prop :=
  let b := o.blk
  let y := if n = 0 then x else x.addOvf n s.clk
  let trailer := descBase x.desc + descBytes x.desc
  exec .epiComplete s = .next t ∧ MFalls s t o ∧ t.mem = s.mem ∧ t.wg? o.wg = some w' ∧
  w'.tiles = w.tiles.set (eTile b) (y.arrive (epiBytes b (o.slots.headD 0) x)) ∧ y.ovf = min (x.ovf + n) 0xFFFF ∧
  (y.ovf ≠ x.ovf → leNat ((List.range 4).map fun k => w'.window.get (trailer + k)) = y.ovf) ∧
  (∀ a, ¬ cells a → (y.ovf = x.ovf ∨ a < trailer ∨ trailer + 4 ≤ a) → w'.window.get a = w.window.get a) ∧
  ((eFlags b).testBit 3 = false → w'.cr = w.cr) ∧
  ((eFlags b).testBit 3 = true → ∀ i j, i < eM b → j < eN b →
    t.crValue o (4096 * eCbank b + eCoff b + eWidth b * (i * eCld b + j)) (eWidth b) = 0)

/-- How many elements of an epilogue saturate. -/
def epiSats (b : List Byte) (sat : Nat → Nat → Bool) : Nat :=
  ((List.range (eM b)).flatMap fun i => (List.range (eN b)).filter fun j => sat i j).length

end Sys2Proof.Claim

/-- R247, R251 to R254, R256 to R258: MMA_START reads the operands once and frees their tiles; MMA_COMPLETE writes every element of C
once; NZSCAN_COMPLETE writes the count, the indices of the elements that are not 0 in ascending order and all ones after them; EPI_START
reads the bias; EPI_COMPLETE writes each element's rounded value into the tile in plain mode, and in block mode its code of 32 columns'
shared scale in its container, and the scales; saturated elements are counted, with the trailer; CLR clears the entries. M falls. That the
elements land together at the completion, how an integer accumulator is converted, and where bad entries are kept are the model's choices
(log entry 40). -/
def Obligations.DenseOperationsRun : Prop :=
  (∀ (s : State) (o : MatOp) (w : Workgroup), s.ops.find? s.denseNext = some o → s.wg? o.wg = some w → w.poison = [] → w.flips = [] →
    let o' := { o with data := o.readDense w }
    ∃ t w', exec .mmaStart s = .next t ∧ t.mem = s.mem ∧ t.wg? o.wg = some w' ∧ { w' with tiles := w.tiles } = w ∧
      (∀ (n : Nat) (x : Tile), w.tiles[n]? = some x → w'.tiles[n]? = some { x with
        readers := x.readers - ((mmaTiles (o.kind == .mmag) o.blk (o.maps.headD 0) (o.maps.getD 1 0)).filter (· == n)).length }) ∧
      t.ops = s.ops.map fun p => if p.id = o.id then { p with data := o'.data, st := .running (s.clk + o'.denseTime) } else p) ∧
  (∀ (s : State) (o : MatOp) (w : Workgroup), s.ops.find? (fun o => o.dense && o.due s.clk) = some o → s.wg? o.wg = some w →
    let b := o.blk
    let k := if mapType (o.maps.headD 0) = 0 then 2 else 1
    let at_ := fun i j => 4096 * dCbank b + dCoff b + k * (i * dCld b + j)
    EntriesSound s w (matrixRuns (4096 * dCbank b + dCoff b) (dM b) (dN b) (dCld b) k) → dN b ≤ dCld b → (k = 2 → dCoff b % 2 = 0) →
    ∃ t, exec .mmaComplete s = .next t ∧ MFalls s t o ∧ t.mem = s.mem ∧
      (∀ i j, i < dM b → j < dN b → t.crValue o (at_ i j) k =
        o.element i j (if dZero b then 0 else s.crValue o (at_ i j) k) % 2^(32 * k)) ∧
      ∀ f, (∀ i j, i < dM b → j < dN b → f / k ≠ at_ i j / k) → t.crEntry o f = s.crEntry o f) ∧
  (∀ (s : State) (o : MatOp) (w : Workgroup) (x : Tile) (xs : List Nat), s.ops.find? (fun o => o.kind == .nzscan && o.due s.clk) = some o →
    s.wg? o.wg = some w → w.tiles[zDst o.desc]? = some x → x.view = none → x.st = .filling → x.arrived = 0 → x.expected ≤ 4 * (xs.length + 1) →
    o.data = [xs] → w.window.wf = true → (∀ y ∈ xs, y < 2^64) → (∀ p ∈ s.ops, p.bad = false) →
    let d := x.desc
    let per := descPitch d / 4
    let at_ := fun k i => tileAddr d (k / per) (4 * (k % per) + i)
    let live := (List.range xs.length).filter fun k => !(elemVal (slotElem (o.slots.headD 0)) (xs.getD k 0)).isZero
    descSwz d < 2 → (descSwz d = 1 → descPitch d = 128) → (∀ k i, k < xs.length + 1 → i < 4 → w.lsBad (at_ k i) = none) →
    ∃ t w', exec .nzscanComplete s = .next t ∧ MFalls s t o ∧ t.mem = s.mem ∧ t.wg? o.wg = some w' ∧
      w'.tiles = w.tiles.set (zDst o.desc) { x with arrived := 4 * (xs.length + 1), st := .ready } ∧
      (∀ k, k < xs.length + 1 → leNat ((List.range 4).map fun i => w'.window.get (at_ k i)) =
        (live.length :: live ++ List.replicate (xs.length - live.length) 0xFFFFFFFF).getD k 0 % 2^32) ∧
      ∀ y, (∀ k i, k < xs.length + 1 → i < 4 → y ≠ at_ k i) → w'.window.get y = w.window.get y) ∧
  (∀ (s : State) (o : MatOp) (w : Workgroup), s.ops.find? (fun o => o.kind == .epi && s.opStartable o) = some o → s.wg? o.wg = some w →
    w.poison = [] → w.flips = [] →
    let b := o.blk
    ∃ t, exec .epiStart s = .next t ∧ t.mem = s.mem ∧ t.wg? o.wg = some w ∧ t.ops = s.ops.map fun p => if p.id = o.id then { p with
      data := (if (eFlags b).testBit 1 then [(List.range (eN b)).map fun j => leNat ((List.range 4).map fun i =>
        w.winByte ((eBaddr b + 4 * j + i) % 2^32))] else p.data),
      st := .running (s.clk + 20 + (eM b * eN b + 31) / 32) } else p) ∧
  (∀ (s : State) (o : MatOp) (w : Workgroup) (x : Tile), s.ops.find? (fun o => o.kind == .epi && o.due s.clk) = some o → s.wg? o.wg = some w →
    w.tiles[eTile o.blk]? = some x → x.view = none → x.ovf ≤ 0xFFFF → w.window.wf = true →
    let b := o.blk
    let sl := o.slots.headD 0
    let elem := slotElem sl
    let size := descSize x.desc
    let at_ := fun i k => tileAddr x.desc (eTrow b + i) k
    let exact := epiExact s o
    let rho := fun i j => (Config.rho s.fresh i j).toNat
    let value := fun i j => if eSrc b = 2 ∧ (eFlags b).testBit 0 = false ∧ (eFlags b).testBit 1 = false
      then roundIntElem elem (slotRound sl) (rho i j) (slotSat sl) (exact i j).int
      else roundElem elem (slotRound sl) (rho i j) (slotSat sl) (exact i j)
    epiFields b sl x = none → descSwz x.desc < 2 → (descSwz x.desc = 1 → descPitch x.desc = 128) →
    EntriesSound s w o.runs → (∀ a, descBase x.desc ≤ a → a < descBase x.desc + descBytes x.desc + 4 → w.lsBad a = none) →
    (blockMode sl = false → ∃ t w',
      EpiEnds s o w x (epiSats b fun i j => (value i j).sat)
        (fun a => ∃ i j q, i < eM b ∧ j < eN b ∧ q < size ∧ a = at_ i ((eTcol b + j) * size + q)) w' t ∧
      ∀ i j q, i < eM b → j < eN b → q < size → w'.window.get (at_ i ((eTcol b + j) * size + q)) = (toBytes size (value i j).bits).getD q 0) ∧
    (blockMode sl = true →
      let width := anvWidth elem
      let place := fun j => eTcol b + (if width = 8 then j else j / 2)
      let scale := fun i q => blockScale (emaxOf elem) ((List.range 32).map fun r => exact i (32 * q + r))
      let code := fun i j => quantise elem (slotRound sl) (rho i j) (slotSat sl) (exact i j) (scale i (j / 32))
      let inScales := fun k => eSoff b ≤ k ∧ k < eSoff b + eN b / 32
      ∃ t w', EpiEnds s o w x (epiSats b fun i j => (code i j).sat)
        (fun a => ∃ i k, i < eM b ∧ a = at_ i k ∧ (inScales k ∨ ∃ j, j < eN b ∧ k = place j)) w' t ∧
      (∀ i q, i < eM b → q < eN b / 32 → (w'.window.get (at_ i (eSoff b + q))).toNat = scale i q) ∧
      ∀ i j, i < eM b → j < eN b → ¬ inScales (place j) →
        (w'.window.get (at_ i (place j))).toNat / 2^(if width = 8 then 0 else 4 * (j % 2)) % 2^width = (code i j).bits % 2^width))

/-! Results land, clauses are fetched, bundles form, threads are woken (R26 to R31, R71 to R76, R80, R93, R323 to R356). -/

namespace Sys2Proof.Claim

/-- The registers a result gives: each register of a home wave once, its lanes each once, and where all 32 are written the image is
theirs. -/
def WritesSound (ws : List RegWrite) : Prop :=
  (ws.map fun x => (x.hw, x.reg)).Nodup ∧ ∀ x ∈ ws, (x.lanes.map (·.1)).Nodup ∧ (∀ y ∈ x.lanes, y.1 < 32) ∧
    (x.lanes.length = 32 → x.lanes.map (·.1) = List.range 32 ∧ ∀ i, x.img = some i → ∀ j, j < 32 → x.lanes.lookup j = some (i.lane j))

/-- The value a list of writes gives a lane. -/
def given (ws : List RegWrite) (hw r j : Nat) : Option Word := (ws.find? fun x => x.hw == hw && x.reg == r).bind (·.lanes.lookup j)

/-- One thread that takes a fault, at this place: it enters the handler at `vec`. -/
def EntersAt (s : State) (u l : Nat) (code : Nat) (addr pc cls : Word64) (t : State) : Prop :=
  ∀ w (th : Thread), s.wg? u = some w → w.threads[l]? = some th → th.priv = false → vector s w ≠ 0 → s.outstanding u l = false →
    ∃ th', t.thread? u l = some th' ∧ Entered th (BitVec.ofNat 48 (vector s w)) code addr pc cls s.clk th'

end Sys2Proof.Claim

/-- R27, R28, R29, R80, R93, R141: a result whose time has come, with no earlier one in its way, lands: its registers, predicates and
flags are written, every other register lane stands, it is no longer in flight, and its counter falls where no older instruction of the
counter is outstanding. A home wave all of whose lanes it writes takes the image that the result carries, G where it carries none; any
other that it writes becomes G. Memory and every other workgroup stand. No result here makes a view or is lost on its way, and no L1 holds a
copy that it would give up. -/
def Sys2Proof.Claim.ResultsAreWritten : Prop :=
  ∀ (s : State) (load : Bool) (p : Pend) (w : Workgroup), s.nextLanding load = some p → s.wg? p.wg = some w → p.sys = [] → p.poison = [] → p.makes = [] →
    s.lateLost p = false →
    WritesSound (s.lateWrites p) → (p.preds.map fun x => (x.1, x.2.1)).Nodup → (p.flags.map (·.1)).Nodup → p.tids.Nodup →
    (∀ th ∈ w.threads, th.fell = [] ∧ th.born ≤ p.seq) → s.l1 = [] →
    ∃ t w', exec (if load then .loadResultLands else .resultLands) s = .next t ∧ t.wg? p.wg = some w' ∧
      { t with wgs := s.wgs, pend := s.pend } = s ∧ t.pend = s.pend.filter (·.id != p.id) ∧ (∀ u, u ≠ p.wg → t.wg? u = s.wg? u) ∧
      { w' with waves := w.waves, threads := w.threads } = w ∧
      (∀ hw r j, hw < w.waves.length → r < (w.waves.getD hw []).length → j < 32 →
        (w'.img hw r).lane j = (given (s.lateWrites p) hw r j).getD ((w.img hw r).lane j)) ∧
      (∀ hw r, (∀ x ∈ s.lateWrites p, ¬ (x.hw = hw ∧ x.reg = r)) → w'.img hw r = w.img hw r) ∧
      (∀ x ∈ s.lateWrites p, x.hw < w.waves.length → x.reg < (w.waves.getD x.hw []).length →
        (w'.img x.hw x.reg).tag = (if x.lanes.length = 32 then (x.img.map RegImg.tag).getD 2 else 2) ∧
        ∀ i, x.lanes.length = 32 → x.img = some i → w'.img x.hw x.reg = i) ∧
      ∀ l (th : Thread), w.threads[l]? = some th → ∃ th' : Thread, w'.threads[l]? = some th' ∧
        { th' with preds := th.preds, fpctl := th.fpctl, ctr := th.ctr, fell := th.fell, deps := th.deps } = th ∧
        (∀ n, n < 8 → th'.pred n = (((p.preds.find? fun x => x.1 == l && x.2.1 == n && n != 0).map (·.2.2)).getD (th.pred n))) ∧
        th'.fpctl = (match p.flags.lookup l with
          | some f => th.fpctl ||| f.setWidth 32
          | none => th.fpctl) ∧
        (∀ k, p.ctr = some k → l ∈ p.tids → { s with pend := t.pend }.older p.wg l k p.seq = false →
          th'.ctr = th.ctr.put k (th.ctr.get k - 1) ∧ th'.fell = []) ∧
        (∀ k, p.ctr = some k → l ∈ p.tids → { s with pend := t.pend }.older p.wg l k p.seq = true →
          th'.ctr = th.ctr ∧ th'.fell = [(k, p.seq)]) ∧
        (p.ctr = none ∨ l ∉ p.tids → th'.ctr = th.ctr ∧ th'.fell = th.fell)

/-- R79, R80, R91: the image that a result carries for a home wave all of whose 32 threads are active, and none for another. MOV carries its
source's tag and image, or base 0 and stride 1 of the home lane; MOVI U; ADD and SUB U of U and U, A of A and U or A and A; MUL U of U
and U, A of A and U; another operation of fixed latency U of sources that are all U; SHAPE U or A through home lanes 0 and 1, or G;
TAGQ U. A register that no outstanding write names is read with the tag and image it has; one with a write outstanding is read in the
old state, in the new one, or lane by lane in either, as G (R29, log entry 28). -/
def Sys2Proof.Claim.ImagesOfResults : Prop :=
  (∀ (s : State) (c : Issue) (g : Guard) (d r : RegCode) (a b : Src) (x : Word) (k : BitVec 6), s.cur = some c → c.tids.Nodup →
    let s' := s.tickFree
    let im := fun (f : Src) (hw : Nat) => srcImg s' c hw f
    let whole := fun hw => ∀ j, j < 32 → 32 * hw + j ∈ act s c g
    let carries := fun (i : Instr) (P : Nat → Option RegImg → Prop) => ∃ t p, exec i s = .next t ∧ t.pend = s.pend ++ [p] ∧
      ∀ y ∈ p.regs, (whole y.hw → P y.hw y.img) ∧ (¬ whole y.hw → y.img = none)
    let sum := fun (f : Word → Word → Word) (hw : Nat) (i : Option RegImg) => match im a hw, im b hw with
      | .u m, .u n => i = some (.u (f m n))
      | .a m j, .u n => i = some (.a (f m n) j)
      | .u m, .a n l => i = some (.a (f m n) (f 0 l))
      | .a m j, .a n l => i = some (.a (f m n) (f j l))
      | _, _ => i = none
    let plain := fun hw (i : Option RegImg) => match im a hw, im b hw with
      | .u _, .u _ => ∃ n, i = some (.u n)
      | _, _ => i = none
    let shaped := fun (hw : Nat) => match a with
      | .reg q => s'.wholeImg c.wg hw q.toNat
      | .imm n => RegImg.u n
    carries (.mov g d r) (fun hw i => i = some (if r = 63 then .a 0 1 else im (.reg r) hw)) ∧
    carries (.movi g d x) (fun _ i => i = some (.u x)) ∧
    carries (.add g d a b) (sum (· + ·)) ∧ carries (.sub g d a b) (sum (· - ·)) ∧
    carries (.mul g d a b) (fun hw i => match im a hw, im b hw with
      | .u m, .u n => i = some (.u (m * n))
      | .a m j, .u n => i = some (.a (m * n) (j * n))
      | .u m, .a n l => i = some (.a (n * m) (l * m))
      | _, _ => i = none) ∧
    (∀ i ∈ [Instr.and g d a b, .or g d a b, .xor g d a b, .shl g d a b, .shr g d a b, .sar g d a b, .rot g d a b, .minI g d a b, .minN g d a b,
      .maxI g d a b, .maxN g d a b], carries i plain) ∧
    carries (.shape g d a k) (fun hw i => i = some (match k.toNat with
      | 0 => .u ((shaped hw).lane 0)
      | 1 => .a ((shaped hw).lane 0) ((shaped hw).lane 1 - (shaped hw).lane 0)
      | _ => .g ((List.range 32).map (shaped hw).lane))) ∧
    carries (.tagq g d a) (fun hw i => i = some (.u (BitVec.ofNat 32 (shaped hw).tag)))) ∧
  ∀ (s : State) (u hw r : Nat),
    ((∀ p ∈ s.pend, p.writesReg u hw r = false) → s.readImg u hw r = s.img u hw r ∧ s.wholeImg u hw r = s.img u hw r) ∧
    ∀ p, s.pend = [p] → p.writesReg u hw r = true → p.late = none →
      (∃ x ∈ p.regs, x.hw = hw ∧ x.reg = r ∧ (s.wholeImg u hw r = s.img u hw r ∨ s.wholeImg u hw r = x.apply (s.img u hw r))) ∧
      (s.readImg u hw r = s.wholeImg u hw r ∨ (s.readImg u hw r).tag = 2)

/-- R323, R329, R333, R334, R336: a fault on its way enters the handler once its thread's writes have landed; a context whose watchdog count reaches its limit (0 stands for 2^31) starts the count again and the
first thread that waits inside, in the order of launch, g and thread, takes WATCHDOG at the word it waits in: a wait after arrival, or the
hold at a meet point, is kept for its return. A thread about to issue the word at an enabled breakpoint takes DEBUG with the breakpoint's
number, or the context halts. TRAPPC and TRAPCLS of a place inside a clause are the model's choice (log entry 31). -/
def Sys2Proof.Claim.WaitingThreadsAreWoken : Prop :=
  ∀ (s : State), (s.wgs.map Workgroup.uid).Nodup →
    ((∃ w ∈ s.wgs, ∃ (l : Nat) (th : Thread) (r : TrapRec), w.threads[l]? = some th ∧ th.st = .trapping r ∧ s.outstanding w.uid l = false) →
      ∃ (t : State) (w : Workgroup) (l : Nat) (th : Thread) (r : TrapRec), exec .trapEntry s = .next t ∧ w ∈ s.wgs ∧ w.threads[l]? = some th ∧ th.st = .trapping r ∧
        EntersAt s w.uid l r.code r.addr (r.pc.setWidth 64) r.cls t) ∧
    (∀ n, n < 64 → n < s.contexts.length → (∀ m, m < n → (s.ctx m).wdcount < wdLimit (s.ctx m)) → wdLimit (s.ctx n) ≤ (s.ctx n).wdcount →
      let s0 := s.updCtx n fun c => { c with wdcount := 0 }
      let waits := fun (w : Workgroup) (l : Nat) (th : Thread) => w ∈ s.wgs ∧ w.ctx = n ∧ w.threads[l]? = some th ∧ s0.waitsInside w th = true
      let word := fun (h : CodeAddr) (i : Nat) => (BitVec.ofNat 64 (2^63 + i % 16 * 2^48 + h.toNat) : Word64)
      ∃ t, exec .watchdog s = .next t ∧ ((∀ w l th, ¬ waits w l th) → t = s0) ∧ (∀ w l th, waits w l th →
        (∀ v m y, waits v m y → w.launch < v.launch ∨ (w.launch = v.launch ∧ (w.g < v.g ∨ (w.g = v.g ∧ (w.uid < v.uid ∨ (w = v ∧ l ≤ m)))))) →
        let z : Thread × CodeAddr × Word64 := match th.st with
          | .blocked x =>
            let cls := word th.here.hdr th.here.idx
            let kept : Option Interrupted := match x with
              | .bar .. => some ⟨x, cls, th.pc, th.mid⟩
              | .gsync => some ⟨x, cls, th.pc, th.mid⟩
              | .commit _ => some ⟨x, cls, th.pc, th.mid⟩
              | _ => none
            ({ th with wd := kept, ctr := match x with
              | .cqdrain .. => th.ctr.put .c (th.ctr.c - 1)
              | _ => th.ctr }, th.here.pc, cls)
          | .held => ({ th with wd := some ⟨.meet, word th.pc 0, th.pc, none⟩ }, th.pc, match th.mid with
            | some (h, i) => word h i
            | none => word th.pc 0)
          | _ => (th, th.pc, match th.mid with
            | some (h, i) => word h i
            | none => word th.pc 0)
        th.priv = false → vector s0 w ≠ 0 → s0.outstanding w.uid l = false → (t.ctx n).wdcount = 0 ∧
          ∃ th', t.thread? w.uid l = some th' ∧ Entered z.1 (BitVec.ofNat 48 (vector s0 w)) 0x11 0 (z.2.1.setWidth 64) z.2.2 s.clk th')) ∧
    (∀ b w l (th : Thread) k, s.nextIssue = some b → s.wg? b.wg = some w → b.tids = [l] → w.threads[l]? = some th → th.skipBp = false →
      s.halted w.ctx = false → w.ctx < s.contexts.length →
      let a := b.hdr + BitVec.ofNat 48 (4 * (b.idx + 1))
      k < 4 → (s.ctx w.ctx).dbgctl.getLsbD (4 + k) = true → ((s.ctx w.ctx).dbgbp.getD k 0).toNat / 4 % 2^46 = a.toNat / 4 →
      (∀ j, j < k → ¬ ((s.ctx w.ctx).dbgctl.getLsbD (4 + j) = true ∧ ((s.ctx w.ctx).dbgbp.getD j 0).toNat / 4 % 2^46 = a.toNat / 4)) →
      ∃ t, exec .breakpoint s = .next t ∧
        ((s.ctx w.ctx).dbgctl.getLsbD 0 = false → EntersAt s w.uid l 0x13 (BitVec.ofNat 64 k) (a.setWidth 64)
          (BitVec.ofNat 64 (2^63 + b.idx % 16 * 2^48 + b.hdr.toNat)) t) ∧
        ((s.ctx w.ctx).dbgctl.getLsbD 0 = true → (t.ctx w.ctx).dbgctl = (s.ctx w.ctx).dbgctl ||| 6 ∧ t.mem = s.mem ∧
          ∀ x ∈ t.bundles, ∀ v, s.wg? x.wg = some v → v.ctx ≠ w.ctx))

/-- R343: SLEEP blocks each active thread for the clk its source counts, 4 where it counts none; the thread returns when that time is
over; and a sleeping thread keeps its context's watchdog from advancing. -/
def Obligations.SleepBlocksAndReturns : Prop :=
  (∀ (s : State) (c : Issue) (w : Workgroup) (g : Guard) (a : Src), s.cur = some c → s.wg? c.wg = some w →
    let n := fun l => (val s c a l).toNat
    ∃ t, exec (.sleep g a) s = .next t ∧ Blocks s c w (act s c g) (fun l => .sleep (s.clk + if n l = 0 then 4 else n l)) none t) ∧
  (∀ (s : State), (∃ w ∈ s.wgs, s.wgRuns w = true ∧ ∃ (l : Nat) (th : Thread) (till : Nat), w.threads[l]? = some th ∧
      th.st = .blocked (.sleep till) ∧ till ≤ s.clk) →
    ∃ (t : State) (w : Workgroup) (l : Nat) (th : Thread) (till : Nat), exec .sleepExpiry s = .next t ∧ w ∈ s.wgs ∧ s.wgRuns w = true ∧
      w.threads[l]? = some th ∧ th.st = .blocked (.sleep till) ∧ till ≤ s.clk ∧ t = onThreads s w.uid [l] fun _ th => freed th s.clk) ∧
  ∀ (s : State) (w : Workgroup) (th : Thread) (till : Nat), w ∈ s.wgs → th ∈ w.threads → th.st = .blocked (.sleep till) →
    s.wdAdvances w.ctx = false

/-- R332: when the grace count of a workgroup asked to yield is at 0, a thread of it has not yielded and no word of this clk is left to
issue, the workgroup stops: none
of its bundles is left, its running threads are candidates, and its threads that yielded stand at their YIELD again. -/
def Sys2Proof.Claim.YieldDeadlineStopsTheWorkgroup : Prop :=
  ∀ (s : State), (s.wgs.map Workgroup.uid).Nodup → s.nextIssue = none →
    (∃ w ∈ s.wgs, w.yreq = true ∧ w.ydeadline % 2^32 = 0 ∧ w.allYielded = false) →
    ∃ (t : State) (w w' : Workgroup), exec .yieldDeadlineExpiry s = .next t ∧ w ∈ s.wgs ∧ w.yreq = true ∧ w.ydeadline % 2^32 = 0 ∧
      w.allYielded = false ∧ t.wg? w.uid = some w' ∧
      w'.yreq = false ∧ { w' with yreq := w.yreq, threads := w.threads } = w ∧ t.bundles = s.bundles.filter (·.wg != w.uid) ∧
      { t with wgs := s.wgs, bundles := s.bundles } = s ∧ ∀ (l : Nat) (th : Thread), w.threads[l]? = some th → ∃ th' : Thread, w'.threads[l]? = some th' ∧
        (th.st = .live → th' = { th with st := .ready, since := s.clk }) ∧
        (∀ m, th.st = .blocked (.yield m) → th' = freed { th with pc := th.here.pc, mid := some (th.here.hdr, th.here.idx) } s.clk) ∧
        ((∀ m, th.st ≠ .blocked (.yield m)) → th.st ≠ .live → th' = th)

/-- R350, R352, R353, R355, R357: both copies of a pair having reached the point after their last matched one, the pair is compared. Equal
signatures and no interval marked: the point is matched in both, the leading copy's buffered entries up to it are to be performed, in an
order that is left open, and nothing else of the machine changes. Unequal ones at a pair that has not rolled back since its last match: a
corrected error in the leading copy's die and both copies back at the last matched checkpoint, in the registers, the barriers, the tiles
and the window, with nothing of theirs in flight. That a mismatch that rolls back is recorded as a corrected error of the leading copy's
die, and that the order of release is free, are the model's choices (log entry 33). -/
def Obligations.CommitPointsAreCompared : Prop :=
  ∀ (s : State) (w v : Workgroup) (r q : Redun), s.wgs = [w, v] → w.uid ≠ v.uid → w.redun = some r → v.redun = some q →
    r.trailing = false → q.trailing = true → r.screen = false → r.partner = v.uid → q.partner = w.uid → r.matched = q.matched →
    r.matched < r.point → r.matched < q.point → r.rel = [] → q.rel = [] →
    let k := r.matched + 1
    let ok := r.sigs.lookup k = q.sigs.lookup k ∧ k ∉ r.bad ∧ k ∉ q.bad
    ∃ t, exec .commitPoint s = .next t ∧
      (ok → { t with wgs := s.wgs, fresh := s.fresh } = s ∧ ∀ x rx, (x, rx) ∈ [(w, r), (v, q)] → ∃ x' rx', t.wg? x.uid = some x' ∧
        x'.redun = some rx' ∧ rx'.matched = k ∧ rx'.rollbacks = 0 ∧ rx'.reexec = false ∧ rx'.point = rx.point ∧
        rx'.buf = rx.buf.filter (fun e => decide (k < e.point)) ∧
        rx'.rel.Perm (if x.uid = w.uid then r.buf.filter fun e => decide (e.point ≤ k) else []) ∧
        (∀ c : Checkpoint, c ∈ rx'.checkpoints ↔ c ∈ rx.checkpoints ∧ k ≤ c.point) ∧ x'.waves = x.waves ∧ x'.window = x.window) ∧
      (¬ ok → r.rollbacks = 0 → t.mem = s.mem ∧ (∀ b ∈ t.bundles, b.wg ≠ w.uid ∧ b.wg ≠ v.uid) ∧ (∀ p ∈ t.pend, p.wg ≠ w.uid ∧ p.wg ≠ v.uid) ∧
        (∀ b : Bank, s.banks[dieOf w.core]? = some b → ∃ b' : Bank, t.banks[dieOf w.core]? = some b' ∧
          b'.corrected = (if b.corrected + 1 ≥ 2^32 then 2^32 - 1 else b.corrected + 1)) ∧
        ∀ x rx c, (x, rx) ∈ [(w, r), (v, q)] → rx.checkpoints.find? (·.point == r.matched) = some c →
          ∃ x' rx', t.wg? x.uid = some x' ∧ x'.redun = some rx' ∧ rx'.point = r.matched ∧ rx'.rollbacks = rx.rollbacks + 1 ∧
            x'.waves = c.waves ∧ x'.barriers = c.barriers ∧ x'.tiles = c.tiles ∧ x'.window = c.window)

/-- R26, R30, R73, R74: at a clk that is a multiple of 4, with one workgroup resident and its context running, candidates at one place form a bundle: one
thread for each home lane, from the oldest home wave, none twice, live, that fetches from the next clk; and a bundle that has not fetched
reads its clause whole, in the middle of it too: its words and class where header and words pass the checks and the word it stands at is an
instruction, else ILLCLAUSE or the fetch's own fault in every thread, with the header's address. How a word of NOP's major with other bits
set passes the class check, and TRAPCLS inside a clause, are the model's choices (log entries 27, 31). -/
def Obligations.BundlesFormAndFetch : Prop :=
  (∀ (s : State) (w : Workgroup) (pc : CodeAddr) (m : Option (CodeAddr × Nat)) (C : List Nat), s.wgs = [w] → s.clk % 4 = 0 → s.bundles = [] →
    s.ports = [] → s.halted w.ctx = false → C ≠ [] → (∀ l ∈ C, ∀ th : Thread, w.threads[l]? = some th → th.pc = pc ∧ th.mid = m ∧ s.clk < th.since + 1024) →
    (∀ l, l ∈ C ↔ ∃ th : Thread, w.threads[l]? = some th ∧ s.candidate w l th = true) → ∃ (t : State) (b : Bundle) (w' : Workgroup), exec .bundleFormation s = .next t ∧ t.bundles = [b] ∧
      b.id = s.nextId ∧ b.core = w.core ∧ b.wg = w.uid ∧ b.words = none ∧ b.formed = s.clk ∧ b.notBefore = s.clk + 1 ∧
      (b.hdr, b.idx) = m.getD (pc, 0) ∧ (∀ l, l ∈ b.tids ↔ l ∈ C ∧ ∀ k ∈ C, k % 32 = l % 32 → l ≤ k) ∧ b.tids.Nodup ∧
      t.ports = [(w.core, 2)] ∧ { t with bundles := s.bundles, wgs := s.wgs, ports := s.ports, nextId := s.nextId } = s ∧
      t.wgs = [w'] ∧ { w' with served := w.served, threads := w.threads } = w ∧ w'.served = s.clk ∧
      ∀ l (th : Thread), w.threads[l]? = some th → w'.threads[l]? = some (if l ∈ b.tids then { th with st := .live } else th)) ∧
  ∀ (s : State) (b : Bundle) (w : Workgroup), s.bundles = [b] → b.words = none → s.wg? b.wg = some w → w.redun = none → w.contain = none →
    b.tids.Nodup → (b.idx = 0 → ∀ l ∈ b.tids, ∃ th : Thread, w.threads[l]? = some th ∧ th.poison = none) → b.tids ≠ [] →
    let clause : Except (Nat × Nat) (Nat × List Word) := match s.codeWord w b.hdr.toNat with
      | .error e => .error e
      | .ok h =>
        if ¬ (h / 2^29 = 5 ∧ h % 16 ≠ 0 ∧ h.testBit 15 = false) then .error (0x02, 0)
        else match s.codeWords w (b.hdr.toNat + 4) (h % 16) with
          | .error e => .error e
          | .ok ws =>
            if clauseOk (h / 16 % 8) (h % 16) 0 false ws = true ∧ b.idx < h % 16 ∧ isInstrWord false b.idx ws = true then .ok (h, ws) else .error (0x02, 0)
    ∃ t, exec .clauseFetch s = .next t ∧
      (∀ h ws, clause = .ok (h, ws) → t.bundles = [{ b with words := some ws, cls := h / 16 % 8 }] ∧
        { t with bundles := s.bundles, tlb := s.tlb } = s) ∧
      (∀ code a, clause = .error (code, a) → ∀ l ∈ b.tids, ∀ th : Thread, w.threads[l]? = some th → th.priv = false → vector s w ≠ 0 →
        s.outstanding b.wg l = false → ∃ th', t.thread? b.wg l = some th' ∧ Entered th (BitVec.ofNat 48 (vector s w)) code
          (BitVec.ofNat 64 a) (b.hdr.setWidth 64) (BitVec.ofNat 64 (2^63 + b.idx % 16 * 2^48 + b.hdr.toNat)) s.clk th')

/-! Dies, links, keys, the host, power and other packages (R347, R360, R369 to R388). -/

namespace Sys2Proof.Claim

/-- An uncorrectable error in a bank whose record is absent or corrected takes it; over an uncorrectable one of an earlier clk it counts as
overflow. -/
def RecordsUe (s t : State) (bank unit : Nat) : Prop :=
  ∀ b : Bank, s.banks[bank]? = some b → ∃ b' : Bank, t.banks[bank]? = some b' ∧ b'.corrected = b.corrected ∧
    (b.w0.getLsbD 63 = true → b.w0.getLsbD 62 = true → b.w2.toNat ≠ s.clk % 2^64 → b' = { b with overflow := min (b.overflow + 1) (2^32 - 1) }) ∧
    (¬ (b.w0.getLsbD 63 = true ∧ b.w0.getLsbD 62 = true) → b'.overflow = b.overflow ∧ b'.w0.toNat / 2^62 = 3 ∧
      b'.w0.toNat / 2^48 % 2^12 = unit ∧ b'.w2 = BitVec.ofNat 64 s.clk ∧ t.irqstat.getLsbD 1 = true)

/-- The assay or measurement of die `d` has ended, passed or not (R371, R373, R379). -/
def AssayEnds (s : State) (d : Nat) (x : Die) (pass : Bool) (t : State) : Prop :=
  (x.measure = false → pass = true → t.dies[d]? = some { x with
      state := .live, passes := min 255 (x.passes + 1), ever := true, assayAt := none } ∧ t.irqstat.getLsbD 3 = true ∧ t.mem = s.mem) ∧
  (x.measure = false → pass = false → t.dies[d]? = some { x with
      state := .quarantined, cause := (if x.state = .assay then 1 else 4), assayAt := none } ∧ t.irqstat.getLsbD 3 = true) ∧
  (x.measure = true → pass = true → t.dies[d]? = some { x with measure := false, assayAt := none } ∧ t.irqstat = s.irqstat ∧ t.mem = s.mem) ∧
  (x.measure = true → pass = false → d < 64 → t.irqstat.getLsbD 3 = true ∧ t.dies[d]? = some { x with
      state := .quarantined, cause := 5, measure := false, assayAt := none }) ∧
  (pass = true → ∀ u l th r, s.thread? u l = some th → th.st = .blocked (.asgn d r) → t.thread? u l = some (freed th s.clk) ∧
    ∃ p ∈ t.pend, p ∉ s.pend ∧ p.due = s.clk ∧ ∀ j, p.laneWrite u (l / 32) r j = if j = l % 32 then some 0 else none)

end Sys2Proof.Claim

/-- R371, R373, R379: an assay or measurement ends within 50 ms, passed or not, which the model leaves free, or fails at 50 ms. A passed
assay makes the die LIVE with one more pass, a failed one sets it aside with cause 1, or 4 after a re-assay, each with vector 3; a failed
measurement sets a compute die aside with cause 5; a thread that waits in ASGN gets status 0 of a pass. Package reset ends with IOD0 LIVE,
the other dies in ASSAY, all else as after reset; the package's own HBM has lost what it held, the host's memory stands. That the
package's own HBM loses what it held is the model's choice (log entry 42); whether an assay passes, and when, is free (log entry 14). -/
def Obligations.AssaysAndPackageReset : Prop :=
  (∀ (s : State) (e : Instr) (early : Bool), (s.wgs.map Workgroup.uid).Nodup → (∀ p ∈ s.pend, p.id < s.nextId) →
    e = (if early then Instr.assay else .assayTimeout) →
    let due := fun x : Die => ∃ a z, x.assayAt = some (a, z) ∧
      if early then z ≤ s.clk ∧ z < a + 90000000 else a + 90000000 ≤ s.clk ∧ a + 90000000 ≤ z
    (∃ x ∈ s.dies, due x) → ∃ (t : State) (d : Nat) (x : Die) (pass : Bool), exec e s = .next t ∧ s.dies[d]? = some x ∧ due x ∧ (early = false → pass = false) ∧
      AssayEnds s d x pass t) ∧
  (∀ s : State, s.dies.length = 68 → (∀ x ∈ s.dies, x.assayAt = none) → s.resetEnded = false → ∃ t, exec .packageReset s = .next t ∧
    t.resetEnded = true ∧ t.irqstat.getLsbD 3 = true ∧ { t with dies := s.dies, irqstat := s.irqstat, resetEnded := false, fresh := s.fresh } = s ∧
    ∀ d (x : Die), s.dies[d]? = some x → ∃ y : Die, t.dies[d]? = some y ∧ y.state = (if d = 64 then .live else .assay) ∧
      y.assayAt.isSome = decide (65 ≤ d) ∧ { y with state := x.state, assayAt := x.assayAt } = x) ∧
  ∀ s : State, s.resetEnded = true → s.mem.wf = true → ∃ t, exec .packageReset s = .next t ∧
    { t with fresh := 0, nextId := 1, mem := [], poison := [], lost := [], inputs := [], resetEnded := false, dies := State.reset.dies, irqstat := 0 } = State.reset ∧
    (s.pkgid = 0 → ∀ a, t.mem.get a = if a / 2^43 = 0 ∧ isHbm a = true then Mem.get [] a else s.mem.get a)

/-- R347, R371 to R374, R376, R380, R381: a closed link trains once both its ends are in assay or better, to OPEN where both are LIVE and the
I/O dies too, else to MGMT. A flit's CRC failure is replayed and recorded as corrected, until the eighth replay fails: then the link closes, a Ralpex
port raises vector 5, a mesh link resets its compute die. A key install the receiver can take makes the next key ready, another is recorded as an
error; either way its threads go on. A dropped generation opens the direction; 2^39 flits raise vector 4, 2^39
more spend the key. That flits are counted by these inputs, and which die a port's errors are recorded in, are the model's choices (log entries
69, 43). -/
def Obligations.LinkEvents : Prop :=
  (∀ s : State, (∃ l ∈ s.links, s.linkTrains l = true) → ∃ (t : State) (l : Link), exec .linkTraining s = .next t ∧ l ∈ s.links ∧ s.linkTrains l = true ∧
    { t with links := s.links } = s ∧
    let data := if l.num < 256 then ∀ d ∈ linkEnds l.num ++ [64, 65, 66, 67], s.dieLive d = true
      else s.dieLive (ralpexDie l.num) = true ∧ s.pkgidSet = true
    ∀ (i : Nat) (k : Link), s.links[i]? = some k → ∃ k' : Link, t.links[i]? = some k' ∧ k'.num = k.num ∧ k'.d0.gen = k.d0.gen ∧ k'.d1.gen = k.d1.gen ∧
      (k.num = l.num → (data → k'.state = .open_ ∧ k'.d0.flits = 0 ∧ k'.d1.flits = 0) ∧ (¬ data → k' = { k with state := .mgmt })) ∧
      (k.num ≠ l.num → k.state ≠ .mgmt → k' = k)) ∧
  (∀ (s : State) (n : BitVec 9) (l : Link), s.link? n.toNat = some l → l.state ≠ .closed → ∃ t, exec (.flitCrcFailure n) s = .next t ∧
    let f := if s.clk ≤ l.lastFail + 1 then l.failures + 1 else 1
    let bank := if l.num < 256 then l.num / 4 else ralpexDie l.num
    (f < 9 → { t with links := s.links, banks := s.banks, errs := s.errs, fresh := s.fresh } = s ∧
      t.links = (s.links.map fun k : Link => if k.num = l.num then { k with failures := f, lastFail := s.clk, inj := false } else k) ∧
      ∀ b : Bank, s.banks[bank]? = some b → ∃ b' : Bank, t.banks[bank]? = some b' ∧ b'.corrected = min (b.corrected + 1) (2^32 - 1) ∧
        (b.w0.getLsbD 63 = true → b.w2.toNat ≠ s.clk % 2^64 → b'.w0 = b.w0)) ∧
    (9 ≤ f → (∀ k ∈ t.links, k.num = l.num → k.state = .closed) ∧ (256 ≤ l.num → t.irqstat.getLsbD 5 = true ∧ t.wgs = s.wgs) ∧
      (l.num < 256 → s.dieLive (resetEnd l.num) = true → t.irqstat.getLsbD 3 = true ∧
        ∃ y : Die, t.dies[resetEnd l.num]? = some y ∧ y.state = .reassay ∧ y.cause = 3 ∧ y.assayAt.isSome = true))) ∧
  (∀ s : State, (∃ k ∈ s.keyInsts, k.due ≤ s.clk) → ∃ (t : State) (k : KeyInst), exec .keyInstallAcknowledgement s = .next t ∧ k ∈ s.keyInsts ∧ k.due ≤ s.clk ∧
    t.keyInsts = s.keyInsts.erase k ∧ t.mem = s.mem ∧
    (∀ u j th, s.thread? u j = some th → t.thread? u j = some (if th.st = .blocked (.keyi k.id) then freed th s.clk else th)) ∧
    let d := canonDir k.link k.dir
    let ok := ∃ l, s.link? k.link = some l ∧ k.handle ∈ s.keyStore ∧ l.dirOpen d = true ∧ (l.dir d).gen + 1 = k.gen
    (ok → t.banks = s.banks ∧ t.links = s.links.map fun l => if l.num = canonLink k.link then l.updDir d fun x => { x with acked := true } else l) ∧
    (¬ ok → t.links = s.links ∧ RecordsUe s t (receiverDie k.link k.dir) 0x0A)) ∧
  ∀ (s : State) (n : BitVec 9) (b : BitVec 1), let d := canonDir n.toNat b.toNat
    (∃ t, exec (.keyGenerationDrop n b) s = .next t ∧ { t with links := s.links } = s ∧ ∀ (i : Nat) (k : Link), s.links[i]? = some k →
      ∃ k' : Link, t.links[i]? = some k' ∧ (¬ (k.num = canonLink n.toNat ∧ (k.dir d).rolling = true ∧ (k.dir d).switched = true) → k' = k) ∧
        (k.num = canonLink n.toNat → (k.dir d).rolling = true → (k.dir d).switched = true →
          k'.dir d = { k.dir d with acked := false, rolling := false, switched := false } ∧ k'.dir (1 - d) = k.dir (1 - d) ∧
          (k.state = .rolling → k'.state = if (k.dir (1 - d)).rolling then .rolling else .open_))) ∧
    ∀ l, s.link? n.toNat = some l → ∃ t, exec (.rolloverRequest n b) s = .next t ∧
      { t with links := s.links, irqstat := s.irqstat } = s ∧
      ((l.dir d).flits < 2^39 → t.irqstat = s.irqstat ||| BitVec.twoPow 64 4) ∧ (2^39 ≤ (l.dir d).flits → t.irqstat = s.irqstat) ∧
      t.links = s.links.map fun k => if k.num = l.num then k.updDir d fun x => { x with flits := min (x.flits + 2^39) (2^40 - 1) } else k

/-- R383, R384, R386: a host write of HBM or of host memory changes those bytes and no others and unpoisons their sectors, unless a
command, hearth or token owns a sector, a wave holds the channel or a link the way: then it comes again in the next clk; a host read
changes nothing. IRQSTAT clears the bits written; PKGID takes its first legal write, and the package's memory answers under the new
number; ALLOW holds at most 2360; CTXTAB changes only while no context is RUNNING; MIRPART takes its 16 bits; a write of ALLOW, MIRPART or
ROUTE that is not of the secure world changes nothing; a task-put window that is not busy takes its entry words. That a write that has to
wait comes again in the next clk, that a host's register write carries its world (log entry 43), and that a PKGID above 431 is ignored
(log entry 42) are the model's choices. -/
def Obligations.HostWrites : Prop :=
  ∀ (s : State), s.mem.wf = true →
    (∀ (pa : BitVec 52) (bs : List Byte), let a := pa.toNat
      let z := a + bs.length - 1
      exec (.hostMemoryAccess false pa bs) s = .next s ∧
      (bs ≠ [] → (∀ x ∈ [a, z], x / 2^43 = s.pkgid.toNat ∧ (x % 2^43 < 0x6000000000 ∨ 0x40000000000 ≤ x % 2^43)) →
        let waits := (∃ o ∈ s.owned, a / 128 ≤ o.1 ∧ o.1 ≤ z / 128) ∨ s.waveHolds a bs.length = true ∨ s.pathHeld 64 a = true
        (¬ waits → ∃ t, exec (.hostMemoryAccess true pa bs) s = .next t ∧ t.mem.read a bs.length = bs ∧
          (∀ b, b < a ∨ z < b → t.mem.get b = s.mem.get b) ∧ (∀ x, x ∈ t.poison ↔ x ∈ s.poison ∧ ¬ (a / 128 ≤ x ∧ x ≤ z / 128)) ∧
          { t with mem := s.mem, poison := s.poison, lost := s.lost, slices := s.slices, dcache := s.dcache, cwords := s.cwords } = s) ∧
        (waits → exec (.hostMemoryAccess true pa bs) s =
          .next { s with inputs := s.inputs ++ [⟨s.clk + 1, s.inputSecure, .hostMemoryAccess true pa bs⟩] }))) ∧
    (∀ m : BitVec 64, ∃ t, exec (.irqstatClear m) s = .next t ∧ { t with irqstat := s.irqstat } = s ∧
      ∀ i, i < 64 → t.irqstat.getLsbD i = (s.irqstat.getLsbD i && !m.getLsbD i)) ∧
    (∀ v : BitVec 16, (s.pkgidSet = true ∨ 431 < v.toNat → exec (.pkgidWrite v) s = .next s) ∧
      (s.pkgidSet = false → v.toNat ≤ 431 → (∀ c ∈ s.mem, c.1 < 2^43) → ∃ t, exec (.pkgidWrite v) s = .next t ∧ t.pkgid = v ∧ t.pkgidSet = true ∧
        (∀ a, a < 2^43 → t.mem.get (v.toNat * 2^43 + a) = s.mem.get a) ∧ t.wgs = s.wgs ∧ t.contexts = s.contexts ∧ t.dies = s.dies)) ∧
    (∀ v : BitVec 32, (s.inputSecure = true → exec (.allowWrite v) s = .next { s with allow := if v.toNat ≤ 2360 then v else 2360 }) ∧
      (s.inputSecure = false → exec (.allowWrite v) s = .next s)) ∧
    (∀ v : BitVec 64, ((∃ c ∈ s.contexts, c.state = .running) → exec (.ctxtabWrite v) s = .next s) ∧
      ((∀ c ∈ s.contexts, c.state ≠ .running) → exec (.ctxtabWrite v) s = .next { s with ctxtab := v })) ∧
    ∀ (v : BitVec 64), (s.inputSecure = true → exec (.deviceRegisterWrite 0x10 true v) s = .next { s with mirpart := v.setWidth 16 }) ∧
      (∀ (off : BitVec 32) (wide : Bool), off = 0x10 ∨ (0x1000 ≤ off.toNat ∧ off.toNat < 0x1000 + 432) →
        s.inputSecure = false → exec (.deviceRegisterWrite off wide v) s = .next s) ∧
      ∀ (n k : Nat) (x : TaskWin), s.windows[n]? = some x → n < 64 → k < 7 → x.words.length = 7 → ∃ t,
        exec (.deviceRegisterWrite (BitVec.ofNat 32 (0x20000 + 64 * n + 4 * k)) false v) s = .next t ∧ { t with windows := s.windows } = s ∧
        t.windows = s.windows.set n (if x.busy then x else { x with words := x.words.set k (lo v) })

/-- R388: the arbiter grants permits every 1,800 clk, to operations running and waiting and to nothing else of the machine. A die's demand
is the slabs of its anvil operations whose groups have not ended and a dense permit for each MMA and MMAG, waiting and running, capped by
its thermal limits. A demanded draw that fits ALLOW, a slab at 134 mW and a dense pipe at 930 mW, is granted. Otherwise each die gets
floor(ALLOW / draw × demand) of each kind, and then in ascending order one more dense and one more slab permit, where it fits and demand
exceeds grant. Hearth permits are no part of the draw. What a die's demand counts, and that periods begin at multiples of 1,800 clk, are
the model's choices (log entry 22). -/
def Obligations.PermitGrants : Prop :=
  ∀ s : State, s.dies.length = 68 → s.permitAt ≤ s.clk → ∃ t, exec .powerGrantPeriod s = .next t ∧
    { t with permitAt := s.permitAt, dies := s.dies, stackGrant := s.stackGrant } = s ∧ t.permitAt = s.permitAt + 1800 ∧
    let allow := 1000 * s.allow.toNat
    let dem := s.permitDemand
    let cost := fun p : Nat × Nat => 134 * p.1 + 930 * p.2
    let sum := fun (n : Nat) (f : Nat → Nat) => ((List.range n).map f).sum
    let draw := sum 64 fun d => cost (dem d)
    let granted := fun d => ((t.dies[d]?).map fun y : Die => (y.slabGrant, y.denseGrant)).getD (0, 0)
    let base := fun d => (allow * (dem d).1 / draw, allow * (dem d).2 / draw)
    let left := fun d => allow - sum 64 (fun e => cost (base e)) - sum d fun e => cost (granted e) - cost (base e)
    let on := fun (d : Nat) (o : MatOp) => (s.wg? o.wg).map (fun w => dieOf w.core) == some d
    (∀ (d : Nat) (x : Die), s.dies[d]? = some x →
      dem d = (min x.slabCap ((s.ops.filter fun o => on d o && o.isAmv).map fun o => aNslab o.blk - o.group).sum,
        min x.denseCap (s.ops.filter fun o => on d o && o.dense).length) ∧
      ∃ y : Die, t.dies[d]? = some y ∧ { y with slabGrant := x.slabGrant, denseGrant := x.denseGrant } = x) ∧
    (draw ≤ allow → ∀ d, d < 64 → granted d = dem d) ∧
    (allow < draw → sum 64 (fun d => cost (granted d)) ≤ allow ∧ ∀ d, d < 64 →
      let dense := if (base d).2 < (dem d).2 ∧ 930 ≤ left d then 1 else 0
      let slab := if (base d).1 < (dem d).1 ∧ 134 ≤ left d - 930 * dense then 1 else 0
      granted d = ((base d).1 + slab, (base d).2 + dense)) ∧
    ∀ k c, s.stackCap[k]? = some c → t.stackGrant[k]? = some (min c (s.hearthDemand k))

/-- R227, R212, R347, R360, R387: a thermal limit caps the grants that follow. A request to another package that is answered is performed
at its home and one that times out raises vector 5 (its flit is counted where its port is CLOSED or MGMT: R372), and an engine's write
gives up its sector with it; a mirror write that is not acknowledged in time sets the thread's failure bit. A patrol scrub corrects every
flipped word. That one event scrubs every word (log entry 20), that a thermal limit arrives as an input (log entry 22), and that another
package's bytes are those of the memory under its number and its answer is free (log entry 21) are the model's choices. -/
def Obligations.LimitsMirrorsAndOtherPackages : Prop :=
  (∀ (s : State) (u : BitVec 7) (a b : BitVec 9), ∃ t, exec (.thermalLimit u a b) s = .next t ∧
    (∀ x : Die, u.toNat < 64 → s.dies[u.toNat]? = some x →
      t = { s with dies := s.dies.set u.toNat { x with slabCap := min 256 a.toNat, denseCap := min 16 b.toNat } }) ∧
    (∀ x, 64 ≤ u.toNat → s.stackCap[u.toNat - 64]? = some x → t = { s with stackCap := s.stackCap.set (u.toNat - 64) (min 32 a.toNat) })) ∧
  (∀ (s : State) (r : RalpexReq), s.ralpex = [r] → s.mem.wf = true → s.l1 = [] →
    let sec := r.pa / 128
    let kept := fun (k : Nat) => ∃ q, s.cmds.find? (·.id == k) = some q ∧ (sec ∈ q.sectors ∨ sec ∈ q.fills)
    let owns := fun (t : State) => match r.cmd with
      | none => t.owned = s.owned
      | some k => (kept k → t.owned = s.owned) ∧ (¬ kept k → t.owned = s.owned.filter (· != (sec, Owner.cmd k)))
    (∃ t, exec .ralpexRequest s = .next t ∧
      let done := r.due ≤ s.clk ∧ s.pkgReachable r.pa = true ∧ s.pathHeld 64 r.pa = false ∧ r.due < r.deadline ∧ Config.ralpexAnswers (r.pa / 2^43) r.due = true
      (done → t.ralpex = [] ∧ t.mem.read r.pa r.bs.length = r.bs ∧
        (∀ b, b < r.pa ∨ r.pa + r.bs.length ≤ b → t.mem.get b = s.mem.get b) ∧ owns t ∧
        { t with mem := s.mem, poison := s.poison, lost := s.lost, slices := s.slices, dcache := s.dcache, cwords := s.cwords, owned := s.owned, ralpex := s.ralpex } = s) ∧
      (¬ done → t = s)) ∧
    (r.deadline ≤ s.clk → ∃ t, exec .ralpexTimeout s = .next t ∧ t.ralpex = [] ∧ t.irqstat.getLsbD 5 = true ∧ owns t ∧
      RecordsUe s t (ralpexDie (256 + s.routeByte (r.pa / 2^43) % 18)) 0x0B ∧
      t.links = s.links.map (fun l : Link => if l.num = 256 + s.routeByte (r.pa / 2^43) ∧ (l.state = .closed ∨ l.state = .mgmt) then
        { l with dropped := l.dropped + 1 } else l) ∧
      { t with links := s.links, ralpex := s.ralpex, irqstat := s.irqstat, banks := s.banks, errs := s.errs, owned := s.owned, fresh := s.fresh } = s)) ∧
  (∀ (s : State) (m : Nat × Nat × Nat × Nat) (r : List (Nat × Nat × Nat × Nat)), s.mirrors = m :: r → (∀ w, s.wg? m.1 = some w → w.ctx < 64) →
    (∃ t, exec .mirrorAcknowledgement s = .next t ∧
      t = if s.pkgReachable (s.mirpart.toNat * 2^43) && Config.mirrorAcks s.fresh then { s with mirrors := r } else s) ∧
    (m.2.2.1 ≤ s.clk → ∃ t, exec .mirrorTimeout s = .next t ∧ t.mirrors = r ∧ t.mem = s.mem ∧ RecordsUe s t (homeDie m.2.2.2) 0x0B ∧
      ∀ th, s.thread? m.1 m.2.1 = some th → t.thread? m.1 m.2.1 = some { th with mirFail := true })) ∧
  ∀ (s : State), s.scrubAt ≤ s.clk → (s.wgs.map Workgroup.uid).Nodup → ∃ t, exec .patrolScrub s = .next t ∧ t.scrubAt = s.clk + 18000000 ∧
    (∀ u w, s.wg? u = some w → t.wg? u = some { w with flips := [] }) ∧
    { t with wgs := s.wgs, scrubAt := s.scrubAt, banks := s.banks, errs := s.errs, fresh := s.fresh } = s

/-! Encodings, the step, reset and memory (R26, R32 to R36, R74, R80, R119, R361, R372, R373). -/

namespace Sys2Proof.Claim

/-- Words of the manual's sample encodings, and the instruction each stands for; the guard is p0, without the switch marker. -/
def samples : List (List Word × Instr) :=
  let g : Guard := ⟨false, 0⟩
  ([([0x1000_4FC0], .mov g 4 63), ([0x1100_40FF, 0x10], .add g 4 (.reg 3) (.imm 0x10)), ([0x0804_0000], .exit g),
   ([0x0260_0003], .brp ⟨false, 3⟩ 3), ([0x0700_0009], .meet g 9), ([0x0908_7041], .voteBallot g 7 1 1),
   ([0x0A0C_413F, 1], .shflXor g 4 (.reg 4) (.imm 1)), ([0x0504_A500], .callr g 10 20), ([0x1500_50FF, 2], .shl g 5 (.reg 3) (.imm 2)),
   ([0x1918_217F, 2], .icmp g 6 2 (.reg 5) (.imm 2)), ([0x2300_8083], .ffma g 0 8 (.reg 2) (.reg 3)),
   ([0x2904_A30E], .fdiv g 1 10 (.reg 12) (.reg 14)), ([0x3000_5102], .cvt g 0 5 (.reg 4) 2), ([0x310C_7190], .cvtr g 3 7 (.reg 6) 0x10)] : List (List Word × Instr)) ++
  ([([0x3810_5210], .ld g 4 5 8 (.scaled 16)), ([0x3C08_31BF, 0x7E], .stl g 2 3 6 (.ext 0x7E)), ([0x3E04_0183], .tdef g 1 6 3),
   ([0x4300_428B, 5], .ldtr g 4 10 11 5), ([0x4800_0FC5, 0x142], .fence g 5 0x142), ([0x4C00_5002], .arrive g 0 5 (.reg 0) 2),
   ([0x4E04_2200], .waitv g 1 2 8 (.scaled 0)), ([0x5100_5206, 0x500], .atom g 0 5 8 6 0x500), ([0x5300_0206, 0xD40], .red g 8 6 0xD40),
   ([0x5600_003F, 7], .tabort g (.imm 7)), ([0x5800_0200], .cpy g 8), ([0x5D08_5003], .cqstat g 2 5 3), ([0x6100_7080], .hsum g 0 7 (.reg 2)),
   ([0x6500_0202], .wload g 0 (.reg 8) 2)] : List (List Word × Instr)) ++
  ([([0x6900_0200], .amv g 8 0), ([0x6C00_2FC0, 4], .cralloc g 2 (.imm 4) 0), ([0x6F00_4281], .crrd g 0 4 (.reg 10) 1),
   ([0x7000_0FC0, 0x40], .lease g (.imm 0x40) 0), ([0x7200_0203], .omap g 8 3), ([0x7400_0182], .nzscan g 6 2), ([0x7700_5102], .crwr g 5 (.reg 4) 2),
   ([0x7808_1180], .migrate g 1 (.reg 6)), ([0x7904_2405], .qputw g 2 16 5), ([0x7A00_4181], .vdecl g 4 6 1), ([0x7A14_8020], .vqry g 8 0x20),
   ([0x7C00_0005], .trap g 5), ([0x7D00_2011], .mfs g 2 0x11), ([0x7D04_0148], .mts g (.reg 5) 8), ([0x7E08_4084], .errq g 4 (.reg 2) 4),
   ([0x7F0C_10C1], .keyroll g 1 (.reg 3) 1), ([0x7F14_6080], .dieq g 6 (.reg 2))] : List (List Word × Instr))

/-- The issue of a bundle's next word: `n` words from index `b.idx` of its `len` words. -/
def issueOf (b : Bundle) (len n : Nat) : Issue :=
  { bundle := b.id, core := b.core, wg := b.wg, tids := b.tids, hdr := b.hdr, idx := b.idx
    addr := b.hdr + BitVec.ofNat 48 (4 * (b.idx + 1)), next := b.hdr + BitVec.ofNat 48 (4 * (b.idx + n + 1)), len := n
    last := decide (len ≤ b.idx + n), port := if b.cls = 0 ∨ b.cls = 1 ∨ b.cls = 4 then 0 else 1 }

/-- The state in which a word's meaning acts: its threads stand past it, and its bundle too, and its port has issued; a header that
waited on M has observed what the operations wrote (R164). -/
def atWord (s : State) (b : Bundle) (w : Workgroup) (len n : Nat) (sw : Bool) : State :=
  let c := issueOf b len n
  let s1 : State := { s with cur := some c, ports := (b.core, c.port) :: s.ports }
  let s := if b.idx = 0 ∧ ((s1.peekHeader w b.hdr).getD 0).testBit 11 = true then s1.l1Observe b.core else s1
  { s with
    bundles := s.bundles.map fun x : Bundle => if x.id = b.id then { x with idx := x.idx + n } else x
    wgs := (onThreads s b.wg b.tids fun _ th => { th with
      pc := c.next, mid := if c.last then none else some (b.hdr, b.idx + n), here := ⟨c.addr, b.hdr, b.idx⟩, skipBp := false
      since := s.clk, notBefore := s.clk, drain := sw }).wgs }

/-- An outcome with all that follows at once from a next state. -/
def after (o : Host.Outcome State Fault Refusal) (f : State → State) : Host.Outcome State Fault Refusal :=
  match o with
  | .next t => .next (f t).settle
  | .fault x => .fault x
  | .refused x => .refused x

end Sys2Proof.Claim

/-- R32 to R36 and the encoding tables: the manual's sample words decode to the instructions they are given for. -/
def Obligations.SampleWordsDecode : Prop := ∀ x ∈ samples, decode x.1 = .ok (x.2, x.1.length)

/-- R32 to R36: decoding the words of a well-formed instruction gives it back, with every operand, whatever follows. -/
def Sys2Proof.Claim.DecodeAfterEncode : Prop :=
  ∀ (i : Instr) (rest : List Word), wellFormed i = true → decode (encode i ++ rest) = .ok (i, (encode i).length)

/-- R32, R36: a word, with its extension word where it takes one, stands for at most one instruction: what decodes is well-formed and is
encoded by the very words it was read from, so that no bit of them is dropped. -/
def Sys2Proof.Claim.EncodeAfterDecode : Prop :=
  ∀ (ws : List Word) (i : Instr) (n : Nat), decode ws = .ok (i, n) → wellFormed i = true ∧ encode i = ws.take n ∧ n ≤ ws.length

/-- R36, R74, R349: with no input and no event due, the bundle that issues next runs the instruction that its words decode to, once its
threads stand past it; a word that is no instruction raises ILLOP, and a register field past the launch's registers REGBOUND. The excluded instructions of
a pair and those a transaction does not admit are left aside here. -/
def Obligations.StepRunsTheDecodedInstruction : Prop :=
  ∀ (s : State) (b : Bundle) (w : Workgroup) (ws : List Word), (∀ x ∈ s.inputs, s.clk < x.due) → dueEvent s = none → s.nextIssue = some b →
    s.wg? b.wg = some w → b.words = some ws →
    let word := (ws.getD b.idx 0).toNat
    let sw := (ws.getD b.idx 0).getLsbD 31
    (∀ i n, decode (ws.drop b.idx) = .ok (i, n) → (w.redun = none ∨ redunExcluded i = false) → (∀ r ∈ regsOf i, r < w.regs) →
      (txAdmits i = true ∨ ∀ l ∈ b.tids, ∀ th : Thread, w.threads[l]? = some th → th.tx.active = false) →
      step s = after (exec i (atWord s b w ws.length n sw)) (·.endInstr i word)) ∧
    (∀ i n, decode (ws.drop b.idx) = .ok (i, n) → w.redun = none → (∃ r ∈ regsOf i, w.regs ≤ r) →
      let c := issueOf b ws.length n
      step s = after (.next ((atWord s b w ws.length n sw).raiseAll c b.tids 0x03 0)) (·.endIssue word)) ∧
    (∀ e, decode (ws.drop b.idx) = .error e →
      let c := issueOf b ws.length 1
      step s = after (.next ((atWord s b w ws.length 1 sw).raiseAll c b.tids 0x01 0)) (·.endIssue word))

/-- The order of the model's own step (log entry 1): the first input that is due, with its world, else the first event that is due, else the issue of a
word, else one clk passes: the clk and the watchdog counts advance, the ports are free again, and a thread that is ready and no candidate
grows no older. -/
def Obligations.StepTakesInputsThenEventsThenTime : Prop :=
  ∀ (s : State),
    (∀ x, s.inputs.find? (fun x => decide (x.due ≤ s.clk)) = some x → isInput x.msg = true →
      step s = after (exec x.msg { s with inputs := s.inputs.erase x, inputSecure := x.secure }) id) ∧
    ((∀ x ∈ s.inputs, s.clk < x.due) → ∀ e, dueEvent s = some e → step s = after (exec e s) id) ∧
    ((∀ x ∈ s.inputs, s.clk < x.due) → dueEvent s = none → s.nextIssue = none → ∃ t : State, step s = .next t.settle ∧
      t.clk = s.clk + 1 ∧ t.ports = [] ∧ t.issuedCtx = [] ∧ t.errs = [] ∧ t.mem = s.mem ∧ t.bundles = s.bundles ∧ t.pend = s.pend ∧ t.cmds = s.cmds ∧
      (∀ u w, s.wg? u = some w → ∃ w', t.wg? u = some w' ∧ { w' with threads := w.threads, tiles := w.tiles, ydeadline := w.ydeadline } = w ∧
        (∀ (l : Nat) (th : Thread), w.threads[l]? = some th →
          w'.threads[l]? = some (if th.st = .ready ∧ s.candidate w l th = false then { th with since := th.since + 1 } else th)) ∧
        ∀ (k : Nat) (x : Tile), w.tiles[k]? = some x →
          w'.tiles[k]? = some (if x.st = .filling ∧ x.expected = 0 then { x with st := .ready } else x)) ∧
      ∀ (n : Nat) (c : Context), s.contexts[n]? = some c → t.contexts[n]? = some { c with
        wdcount := if n ∈ s.issuedCtx then 0 else if s.wdAdvances n then c.wdcount + 1 else c.wdcount })

/-- R361, R372, R373, R384, R387: after reset every die is in RESET and every link closed, no workgroup is resident, every context is
EMPTY, the error banks are 0, PKGID is 0 and not written, MIRPART is 0xFFFF, ALLOW is 2,360 W and IRQSTAT is 0. That PKGID and IRQSTAT are
0 is the model's choice (log entry 3). -/
def Sys2Proof.Claim.ResetLeavesTheseValues : Prop :=
  let r := State.reset
  r.dies.length = 68 ∧ (∀ d ∈ r.dies, d.state = .reset) ∧ (∀ l ∈ r.links, l.state = .closed) ∧ r.wgs = [] ∧ r.launches = [] ∧
  r.contexts.length = 64 ∧ (∀ c ∈ r.contexts, c.state = .empty) ∧ r.banks = List.replicate 68 ⟨0, 0, 0, 0, 0, 0⟩ ∧ r.pkgid = 0 ∧
  r.pkgidSet = false ∧ r.mirpart = 0xFFFF ∧ r.allow = 2360 ∧ r.irqstat = 0

/-- Reset memory is in canonical form. -/
def Sys2Proof.Claim.ResetMemoryIsCanonical : Prop := State.reset.mem.wf = true

/-- Every step keeps memory in its canonical form: addresses strictly rising, no byte listed that an unlisted address reads as. -/
def Obligations.StepKeepsMemoryCanonical : Prop := ∀ s t : State, s.mem.wf = true → step s = .next t → t.mem.wf = true

/-- R119, R4: bytes written to memory are read back, every other byte reads as before, the canonical form is kept, and two canonical
memories that read the same are equal. -/
def Obligations.MemoryReadsWhatWasWritten : Prop :=
  (∀ (m : Mem) (a : Nat) (bs : List Byte), m.wf = true → (m.write a bs).wf = true ∧ (m.write a bs).read a bs.length = bs ∧
    ∀ x, x < a ∨ a + bs.length ≤ x → (m.write a bs).get x = m.get x) ∧
  ∀ m n : Mem, m.wf = true → n.wf = true → (∀ a, m.get a = n.get a) → m = n

/-! Statements of several parts. -/

/-- R27 to R29, R79, R80, R91, R93, R141: results land, with the tags they carry. -/
def Obligations.ResultsLand : Prop := Sys2Proof.Claim.ResultsAreWritten ∧ Sys2Proof.Claim.ImagesOfResults

/-- Integer, logic, shift, bit-field, move and carry instructions: their results and their frame. -/
def Obligations.IntegerAndMoveResults : Prop :=
  Claim.IntegerTwoSourceResults ∧ Claim.IntegerOneSourceAndMoveResults ∧ Claim.CarryAndBorrowThroughPredicate7

/-- Votes, shuffles, SHAPE, TAGQ, MOVX and MOVXW: results across lanes and through an index. -/
def Obligations.LaneAndIndexedMoveResults : Prop :=
  Claim.VoteResults ∧ Claim.CrossLaneResults ∧ Claim.IndexedMoveResults

/-- Floating-point arithmetic, comparison and class: results and flags where no trap is taken. -/
def Obligations.FloatingPointAndCompareResults : Prop :=
  Claim.FloatingPointResults ∧ Claim.FloatCompareAndClassResults

/-- Conversions, and rounding of what a format holds. -/
def Obligations.RoundingAndConversionResults : Prop :=
  Claim.RoundingKeepsRepresentableValues ∧ Claim.ConversionResults

/-- Encoding and decoding are each other's inverse on well-formed instructions and on the words that decode. -/
def Obligations.DecodeAndEncodeAgree : Prop :=
  Claim.DecodeAfterEncode ∧ Claim.EncodeAfterDecode

/-- TRAP, SCALL, DBRK, operand faults and FPTRAP: what is saved and where the thread goes. -/
def Obligations.SoftwareTrapsAndOperandFaults : Prop :=
  Claim.TrapEntersTheHandler ∧ Claim.ScallEntersControlLevel ∧ Claim.DbrkTakesDebugWhenEnabled ∧ Claim.OperandFaultsEnterTheHandler ∧
  Claim.EnabledFlagTakesFptrap

/-- MFS and MTS of every system register, ERET and SRET. -/
def Obligations.SystemRegistersAndReturns : Prop :=
  Claim.SystemRegisterReads ∧ Claim.SystemRegisterWrites ∧ Claim.ReturnsRestoreTheThread

/-- Privilege at program level, and the unhandled fault. -/
def Obligations.PrivilegeAndUnhandledFaults : Prop :=
  Claim.PrivilegedInstructionsFaultAtProgramLevel ∧ Claim.UnhandledFaultStopsTheContext

/-- COMMIT, MIRF, YIELD, TLBI, SIGQ, ERRQ, HMQ and DIEQ each answer a next state, and what it holds. -/
def Obligations.WaitsAndQueriesComplete : Prop :=
  Claim.WaitsBlockTheThread ∧ Claim.TlbiDropsTranslations ∧ Claim.StatusQueries

/-- ERRCLR and ERRINJ each answer a next state, and what it holds; which error record survives. -/
def Obligations.ErrorInstructions : Prop :=
  Claim.ErrclrClearsTheNamedBanks ∧ Claim.ErrorRecordSurvival ∧ Claim.ErrorInjection

/-- ASGN, QUAR, KEYI and KEYROLL in the secure world at control level. -/
def Obligations.RootInstructionsAndKeyRollover : Prop :=
  Claim.RootInstructions ∧ Claim.KeyRollover

/-- LD, LDU, LDA and LDL: the values that come, counted on L. -/
def Obligations.LoadsReadMemoryAndTheWindow : Prop :=
  Claim.GlobalLoads ∧ Claim.LocalLoads

/-- STORE_LEAVES_QUEUE, PREF and L1_COPY_EXPIRY: the stored bytes and no others change. -/
def Obligations.StoresLeaveAndL1Expires : Prop :=
  Claim.PrefetchOnlyFillsTheL1 ∧ Claim.StoresLeaveTheQueue ∧ Claim.L1CopyExpires

/-- Translation by the page tables, and the faults of an access that fails. -/
def Obligations.TranslationAndAccessFaults : Prop :=
  Claim.TranslationRules ∧ Claim.AccessFaultsEnterTheHandler

/-- TDEF, TFREE, TQRY and LSERRQ. -/
def Obligations.TileDefinitionAndQueries : Prop :=
  Claim.TileDefinition ∧ Claim.TileAndLserrQueries

/-- TLD, LDTR and TST: elements of a tile through its swizzle. -/
def Obligations.TileElementAccess : Prop :=
  Claim.TileElementLoads ∧ Claim.TileElementStores

/-- ATOM, ATOMC and RED: one atomic for each active thread, and what it does when it is performed. -/
def Obligations.AtomicsIssueAndPerform : Prop :=
  Claim.AtomicsIssue ∧ Claim.AtomicsPerform

/-- FENCE waits for what its predecessor mask names; WAITV blocks on a word and WAITV_REREAD releases it. -/
def Obligations.FencesAndWaitsOnWords : Prop :=
  Claim.FenceOrders ∧ Claim.WaitOnAWord ∧ Claim.WaitvRereadReleases

/-- BAR, BARX, ARRIVE, AWAITB, GSYNC and the events that release them. -/
def Obligations.WorkgroupAndGridBarriers : Prop :=
  Claim.WorkgroupBarriers ∧ Claim.GridArrivalAndBarrierRelease ∧ Claim.GridBarrierCompletesOrSwaps

/-- TBEGIN, TEND, TABORT, TSTAT and TOKEN_GRANT. -/
def Obligations.TransactionsAndTheToken : Prop :=
  Claim.Transactions ∧ Claim.TokenGrantOpensTheTransaction

/-- VDECL, VTILE and VQRY, and their fault in a thread that runs no task. -/
def Obligations.ViewDeclarationAndQueries : Prop :=
  Claim.ViewDeclaration ∧ Claim.ViewQueriesAndTasklessThreads

/-- SPAWN, SOLDER and VSYNC. -/
def Obligations.SpawnSolderAndVsync : Prop :=
  Claim.SpawnOffersAChild ∧ Claim.SolderAndVsync

/-- MERGE and MERGE_COMMIT: elements combined by the view's operator, and the target that takes them. -/
def Obligations.MergesCombineAndCommit : Prop :=
  Claim.MergeCombinesElements ∧ Claim.MergesRunAndCommit

/-- QPUT, QPUTW and the host's TASK_PUT, their placement, refusal and time-out. -/
def Obligations.TaskPutsAreOfferedAndAnswered : Prop :=
  Claim.TaskPutsAreOffered ∧ Claim.PutsArePlacedOrRefused

/-- TASK_REFILL, STENCIL_EVALUATION and TASK_DISPATCH. -/
def Obligations.RefillStencilAndDispatch : Prop :=
  Claim.RefillAndStencil ∧ Claim.DispatchStartsTheTask

/-- LAUNCH, LWAIT, MIGRATE, DOORBELL and the acceptance of a launch record. -/
def Obligations.LaunchesAndTheRing : Prop :=
  Claim.LaunchInstructions ∧ Claim.LaunchAcceptanceChecksTheRecord ∧ Claim.LaunchRingAndDoorbell

/-- Placement, retirement, completion and migration of workgroups. -/
def Obligations.WorkgroupLifetime : Prop :=
  Claim.PlacementStartsAWorkgroup ∧ Claim.RetirementCountsTheWorkgroup ∧ Claim.CompletionReleasesTheWaiters ∧
  Claim.MigrationMovesTheWorkgroup

/-- The host's CTXCMD and the save and restore of a context. -/
def Obligations.ContextsSaveAndResume : Prop :=
  Claim.HostContextCommands ∧ Claim.SaveAndRestore

/-- COPY_ACCEPTANCE, COPY_COMMAND_START, COPY_SEGMENT_ARRIVAL and COPY_FINISH. -/
def Obligations.CopyCommandsRun : Prop :=
  Claim.CommandsAreAcceptedStartedAndFinished ∧ Claim.CopySegmentsMoveBytes

/-- TRAP_ENTRY, WATCHDOG, BREAKPOINT and YIELD_DEADLINE_EXPIRY. -/
def Obligations.HeldThreadsAreWoken : Prop :=
  Claim.WaitingThreadsAreWoken ∧ Claim.YieldDeadlineStopsTheWorkgroup

/-- What reset leaves; its memory is in canonical form. -/
def Obligations.ResetState : Prop :=
  Claim.ResetLeavesTheseValues ∧ Claim.ResetMemoryIsCanonical
end

