-- ==== Sys2Proof/Laws/Encoding.lean ====
section
/-! SUPPORT. The fields of an instruction word that the encoder puts together (R32): each is read back, whatever the others
hold. -/

namespace Sys2Proof

theorem headBits_lt (g : Guard) (op : Nat) (h : op < 128) : headBits g op + 2^21 ≤ 2^32 := by
  have := g.pd.isLt
  unfold headBits
  split <;> omega

theorem headBits_low (g : Guard) (op : Nat) : headBits g op % 2^21 = 0 := by
  unfold headBits
  split <;> omega

/-- A number below 2^21 beside the head bits: major, guard and switch marker, and the number itself. -/
theorem head_fields (g : Guard) (op x : Nat) (h : op < 128) (hx : x < 2^21) :
    majorOf (headBits g op + x) = op ∧ (headBits g op + x) % 2^21 = x ∧ (headBits g op + x) / 2^21 % 8 = g.pd.toNat ∧
    (headBits g op + x) / 2^31 = (if g.sw then 1 else 0) ∧ headBits g op + x < 2^32 := by
  have := g.pd.isLt
  unfold headBits majorOf
  split <;> simp_all <;> omega

theorem wordA_rest_lt (fn d a b : Nat) (hf : fn < 8) (hd : d < 64) (ha : a < 64) (hb : b < 64) :
    fn * 2^18 + d * 2^12 + a * 64 + b < 2^21 := by omega

theorem wordA_eq (g : Guard) (op fn d a b : Nat) : wordA g op fn d a b = headBits g op + (fn * 2^18 + d * 2^12 + a * 64 + b) := by
  unfold wordA; omega

/-- Format A, M and E: every field is read back. -/
theorem wordA_fields (g : Guard) (op fn d a b : Nat) (h : op < 128) (hf : fn < 8) (hd : d < 64) (ha : a < 64) (hb : b < 64) :
    majorOf (wordA g op fn d a b) = op ∧ wordA g op fn d a b / 2^18 % 8 = fn ∧ wordA g op fn d a b / 2^12 % 64 = d ∧
    wordA g op fn d a b / 64 % 64 = a ∧ wordA g op fn d a b % 64 = b ∧ wordA g op fn d a b / 2^21 % 8 = g.pd.toNat ∧
    wordA g op fn d a b / 2^31 = (if g.sw then 1 else 0) ∧ wordA g op fn d a b < 2^32 := by
  have hr := wordA_rest_lt fn d a b hf hd ha hb
  have hh := head_fields g op _ h hr
  have h0 := headBits_low g op
  rw [wordA_eq]
  refine ⟨hh.1, ?_, ?_, ?_, ?_, hh.2.2.1, hh.2.2.2.1, hh.2.2.2.2⟩ <;> omega

/-- Format C: the 21-bit offset is read back. -/
theorem wordC_fields (g : Guard) (op : Nat) (o : BitVec 21) (h : op < 128) :
    majorOf (wordC g op o) = op ∧ wordC g op o % 2^21 = o.toNat ∧ wordC g op o / 2^21 % 8 = g.pd.toNat ∧
    wordC g op o / 2^31 = (if g.sw then 1 else 0) ∧ wordC g op o < 2^32 := head_fields g op o.toNat h o.isLt

/-- A source field gives back its source where that is legal and the extension word is the source's. -/
theorem srcOf_srcBits (a : Src) (x : Word) (h : srcOk a = true) (hx : ∀ y, a = .imm y → y = x) : srcOf (srcBits a) x = a := by
  cases a with
  | reg c =>
    have : c.toNat ≠ 63 := by
      intro hc
      simp only [srcOk, regOk, bne_iff_ne, ne_eq] at h
      exact h (BitVec.eq_of_toNat_eq hc)
    simp [srcOf, srcBits, this]
  | imm y => simp [srcOf, srcBits, hx y rfl]

/-- An offset field gives back its offset. -/
theorem offOf_offBits (o : Off) (x : Word) (h : offOk o = true) (hx : ∀ y, o = .ext y → y = x) : offOf (offBits o) x = o := by
  cases o with
  | scaled c =>
    have : c.toNat ≠ 63 := by
      intro hc
      simp only [offOk, bne_iff_ne, ne_eq] at h
      exact h (BitVec.eq_of_toNat_eq hc)
    simp [offOf, offBits, this]
  | ext y => simp [offOf, offBits, hx y rfl]

theorem srcBits_lt (a : Src) : srcBits a < 64 := by
  cases a with
  | reg c => exact c.isLt
  | imm _ => simp [srcBits]

theorem offBits_lt (o : Off) : offBits o < 64 := by
  cases o with
  | scaled c => exact c.isLt
  | ext _ => simp [offBits]

end Sys2Proof
end

