-- ==== Sys2Proof/Laws/Mem.lean ====
section
/-! SUPPORT. The canonical form of memory: every memory operation keeps it, and a byte written is the byte read. -/

namespace Sys2Proof.Machine

theorem Mem.wfFrom_le {lo lo' : Nat} (h : lo ≤ lo') : ∀ {m : Mem}, Mem.wfFrom lo' m = true → Mem.wfFrom lo m = true
  | [], _ => rfl
  | (k, v) :: r, hm => by
    simp only [Mem.wfFrom, Bool.and_eq_true, decide_eq_true_eq] at hm ⊢
    exact ⟨⟨by omega, hm.1.2⟩, hm.2⟩

/-- An address below every listed one reads 0. -/
theorem Mem.get_below {lo a : Nat} (h : a < lo) : ∀ {m : Mem}, Mem.wfFrom lo m = true → m.get a = 0
  | [], _ => rfl
  | (k, v) :: r, hm => by
    simp only [Mem.wfFrom, Bool.and_eq_true, decide_eq_true_eq] at hm
    simp only [Mem.get]
    rw [if_neg (by omega), if_pos (by omega)]

theorem Mem.set_wfFrom {lo a : Nat} (b : Byte) (h : lo ≤ a) : ∀ {m : Mem}, Mem.wfFrom lo m = true → Mem.wfFrom lo (m.set a b) = true
  | [], _ => by
    by_cases hb : b = 0
    · simp [Mem.set, hb, Mem.wfFrom]
    · simp only [Mem.set, if_neg hb, Mem.wfFrom, Bool.and_eq_true, decide_eq_true_eq]
      exact ⟨⟨h, by simpa using hb⟩, trivial⟩
  | (k, v) :: r, hm => by
    have hm' := hm
    simp only [Mem.wfFrom, Bool.and_eq_true, decide_eq_true_eq] at hm
    obtain ⟨⟨h1, h2⟩, h3⟩ := hm
    unfold Mem.set
    by_cases hlt : a < k
    · rw [if_pos hlt]
      by_cases hb : b = 0
      · rw [if_pos hb]; exact hm'
      · rw [if_neg hb]
        simp only [Mem.wfFrom, Bool.and_eq_true, decide_eq_true_eq]
        exact ⟨⟨h, by simpa using hb⟩, ⟨by omega, h2⟩, h3⟩
    · rw [if_neg hlt]
      by_cases he : a = k
      · rw [if_pos he]
        by_cases hb : b = 0
        · rw [if_pos hb]; exact Mem.wfFrom_le (by omega) h3
        · rw [if_neg hb]
          simp only [Mem.wfFrom, Bool.and_eq_true, decide_eq_true_eq]
          exact ⟨⟨h1, by simpa using hb⟩, h3⟩
      · rw [if_neg he]
        simp only [Mem.wfFrom, Bool.and_eq_true, decide_eq_true_eq]
        exact ⟨⟨h1, h2⟩, Mem.set_wfFrom b (by omega) h3⟩

theorem Mem.set_wf {m : Mem} (a : Nat) (b : Byte) (h : m.wf = true) : (m.set a b).wf = true := Mem.set_wfFrom b (Nat.zero_le a) h

theorem Mem.write_wf (bs : List Byte) : ∀ {m : Mem} (a : Nat), m.wf = true → (m.write a bs).wf = true := by
  induction bs with
  | nil => intro m a h; exact h
  | cons b bs ih => intro m a h; exact ih (a + 1) (Mem.set_wf a b h)

theorem Mem.writeCells_wf (cs : List Host.Cell) : ∀ {m : Mem}, m.wf = true → (m.writeCells cs).wf = true := by
  induction cs with
  | nil => intro m h; exact h
  | cons c cs ih => intro m h; exact ih (Mem.set_wf c.1 c.2 h)

theorem Mem.clear_wf {m : Mem} (a n : Nat) (h : m.wf = true) : (m.clear a n).wf = true := Mem.write_wf _ a h

theorem cellsAt_filter_wfFrom (bs : List Byte) : ∀ a : Nat, Mem.wfFrom a ((cellsAt a bs).filter (·.2 != 0)) = true := by
  induction bs with
  | nil => intro a; rfl
  | cons b bs ih =>
    intro a
    unfold cellsAt
    by_cases hb : b = 0
    · simp only [hb, List.filter, bne_self_eq_false]
      exact Mem.wfFrom_le (Nat.le_succ a) (ih (a + 1))
    · have : (b != 0) = true := by simpa using hb
      simp only [List.filter, this, Mem.wfFrom, Bool.and_eq_true, decide_eq_true_eq, Nat.le_refl, and_self, true_and]
      exact ih (a + 1)

theorem Mem.ofBytes_wf (bs : List Byte) : (Mem.ofBytes bs).wf = true := cellsAt_filter_wfFrom bs 0

/-- A canonical list ends below `hi`. -/
def Mem.endsBy (hi : Nat) (m : Mem) : Prop := ∀ c ∈ m, c.1 < hi

theorem Mem.append_wfFrom {lo hi : Nat} : ∀ {m n : Mem}, lo ≤ hi → Mem.wfFrom lo m = true → m.endsBy hi → Mem.wfFrom hi n = true →
    Mem.wfFrom lo (m ++ n) = true
  | [], n, hl, _, _, hn => Mem.wfFrom_le hl hn
  | (k, v) :: r, n, hl, hm, he, hn => by
    simp only [Mem.wfFrom, Bool.and_eq_true, decide_eq_true_eq, List.cons_append] at hm ⊢
    have hk : k < hi := he (k, v) (by simp)
    exact ⟨hm.1, Mem.append_wfFrom (by omega) hm.2 (fun c hc => he c (by simp [hc])) hn⟩

theorem Mem.takeWhile_wfFrom {lo a : Nat} : ∀ {m : Mem}, Mem.wfFrom lo m = true →
    Mem.wfFrom lo (m.takeWhile fun c => decide (c.1 < a)) = true ∧ Mem.endsBy a (m.takeWhile fun c => decide (c.1 < a))
  | [], _ => ⟨rfl, by intro c hc; simp at hc⟩
  | (k, v) :: r, hm => by
    simp only [Mem.wfFrom, Bool.and_eq_true, decide_eq_true_eq] at hm
    have ih := Mem.takeWhile_wfFrom (a := a) hm.2
    by_cases hk : k < a
    · simp only [List.takeWhile, hk, decide_true, Mem.wfFrom, Bool.and_eq_true, decide_eq_true_eq]
      refine ⟨⟨hm.1, ih.1⟩, ?_⟩
      intro c hc
      simp only [List.mem_cons] at hc
      rcases hc with rfl | hc
      · exact hk
      · exact ih.2 c hc
    · simp only [List.takeWhile, hk, decide_false]
      exact ⟨rfl, by intro c hc; simp at hc⟩

theorem Mem.dropWhile_wfFrom {lo a : Nat} : ∀ {m : Mem}, Mem.wfFrom lo m = true →
    Mem.wfFrom a (m.dropWhile fun c => decide (c.1 < a)) = true
  | [], _ => rfl
  | (k, v) :: r, hm => by
    have hm' := hm
    simp only [Mem.wfFrom, Bool.and_eq_true, decide_eq_true_eq] at hm
    by_cases hk : k < a
    · simp only [List.dropWhile, hk, decide_true]
      exact Mem.dropWhile_wfFrom hm.2
    · simp only [List.dropWhile, hk, decide_false, Mem.wfFrom, Bool.and_eq_true, decide_eq_true_eq]
      exact ⟨⟨by omega, hm.1.2⟩, hm.2⟩

theorem cellsAt_endsBy (bs : List Byte) : ∀ a : Nat, Mem.endsBy (a + bs.length) ((cellsAt a bs).filter (·.2 != 0)) := by
  have h : ∀ (bs : List Byte) (a : Nat), ∀ c ∈ cellsAt a bs, c.1 < a + bs.length := by
    intro bs
    induction bs with
    | nil => intro a c hc; simp [cellsAt] at hc
    | cons b bs ih =>
      intro a c hc
      simp only [cellsAt, List.mem_cons, List.length_cons] at hc ⊢
      rcases hc with rfl | hc
      · simp
      · have := ih (a + 1) c hc; omega
  intro a c hc
  exact h bs a c (List.mem_filter.1 hc).1

theorem Mem.splice_wf {m : Mem} (a : Nat) (bs : List Byte) (h : m.wf = true) : (m.splice a bs).wf = true := by
  have h1 := Mem.takeWhile_wfFrom (a := a) h
  have h2 := cellsAt_filter_wfFrom bs a
  have h3 := Mem.dropWhile_wfFrom (a := a + bs.length) h
  unfold Mem.splice
  rw [List.append_assoc]
  exact Mem.append_wfFrom (Nat.zero_le a) h1.1 h1.2
    (Mem.append_wfFrom (Nat.le_add_right a _) h2 (cellsAt_endsBy bs a) h3)

/-- One byte written is read back, and no other byte changes. -/
theorem Mem.get_set (b : Byte) (a x : Nat) : ∀ {lo : Nat} {m : Mem}, Mem.wfFrom lo m = true →
    (m.set a b).get x = if x = a then b else m.get x
  | _, [], _ => by
    by_cases hb : b = 0 <;> by_cases hx : x = a <;> simp_all [Mem.set, Mem.get]
    intro h; exact absurd h.symm hx
  | lo, (k, v) :: r, hm => by
    have hm' := hm
    simp only [Mem.wfFrom, Bool.and_eq_true, decide_eq_true_eq] at hm
    have below : ∀ y, y < k + 1 → Mem.get r y = 0 := fun y hy => Mem.get_below hy hm.2
    unfold Mem.set
    by_cases hlt : a < k
    · by_cases hb : b = 0
      · simp only [if_pos hlt, if_pos hb]
        by_cases hx : x = a
        · subst hx; simp only [Mem.get, if_pos]; rw [if_neg (by omega), if_pos hlt]; exact hb.symm
        · simp only [hx, if_false]
      · simp only [if_pos hlt, if_neg hb]
        by_cases hx : x = a
        · subst hx; simp [Mem.get]
        · simp only [hx, if_false]
          rw [Mem.get.eq_2, if_neg (by omega)]
          by_cases hxa : x < a
          · rw [if_pos hxa, Mem.get.eq_2, if_neg (by omega), if_pos (by omega)]
          · rw [if_neg hxa]
    · by_cases he : a = k
      · by_cases hb : b = 0
        · simp only [if_neg hlt, if_pos he, if_pos hb]
          by_cases hx : x = a
          · simp only [hx, if_true]; rw [below a (by omega), hb]
          · simp only [hx, if_false]
            rw [Mem.get.eq_2, if_neg (by omega)]
            by_cases hxk : x < k
            · rw [if_pos hxk, below x (by omega)]
            · rw [if_neg hxk]
        · simp only [if_neg hlt, if_pos he, if_neg hb]
          by_cases hx : x = a
          · subst hx; simp [Mem.get, he]
          · simp only [hx, if_false]
            have hk : ¬ k = x := by omega
            rw [Mem.get.eq_2, Mem.get.eq_2, if_neg hk, if_neg hk]
      · simp only [if_neg hlt, if_neg he]
        rw [Mem.get.eq_2, Mem.get.eq_2, Mem.get_set b a x hm.2]
        by_cases hx : x = a
        · subst hx; rw [if_neg (by omega), if_neg (by omega), if_pos rfl]; simp
        · simp only [hx, if_false]

end Sys2Proof.Machine
end

