-- ==== Sys2Proof/Laws/Ops.lean ====
section
/-! SUPPORT. What the shared operations over the state do: the frame of a meaning, one workgroup or thread updated, results in
flight, faults; and that each keeps memory in its canonical form. -/

namespace Sys2Proof.Machine

/-- A meaning acts in the state whose free counter has advanced. -/
theorem State.issue_next {s : State} {c : Issue} (h : s.cur = some c) (f : Issue → State → State) :
    s.issue f = .next (f c s.tickFree) := by
  simp only [State.issue, h]

theorem List.find?_map_keep {α : Type} (p : α → Bool) (f : α → α) (h : ∀ x, p (f x) = p x) :
    ∀ l : List α, (l.map f).find? p = (l.find? p).map f
  | [] => rfl
  | x :: l => by
    simp only [List.map, List.find?, h x]
    cases p x with
    | true => rfl
    | false => exact List.find?_map_keep p f h l

/-- Looking a workgroup up after one has been updated, by an update that keeps its name. -/
theorem State.wg?_updWg (s : State) (u v : Nat) (f : Workgroup → Workgroup) (hf : ∀ w, (f w).uid = w.uid) :
    (s.updWg u f).wg? v = if v = u then (s.wg? v).map f else s.wg? v := by
  simp only [State.wg?, State.updWg]
  have key := List.find?_map_keep (fun w : Workgroup => w.uid == v) (fun w => if w.uid = u then f w else w)
    (fun w => by split <;> simp [hf]) s.wgs
  rw [key]
  by_cases hv : v = u
  · subst hv
    simp only [if_true]
    cases hw : s.wgs.find? fun w => w.uid == v with
    | none => rfl
    | some w =>
      have : w.uid = v := by simpa using List.find?_some hw
      simp [this]
  · simp only [hv, if_false]
    cases hw : s.wgs.find? fun w => w.uid == v with
    | none => rfl
    | some w =>
      have : w.uid = v := by simpa using List.find?_some hw
      have : w.uid ≠ u := by omega
      simp [this]

@[simp] theorem Workgroup.updThread_uid (w : Workgroup) (t : Nat) (f : Thread → Thread) : (w.updThread t f).uid = w.uid := rfl

/-- A thread after one thread of its workgroup has been updated. -/
theorem State.thread?_updThread (s : State) (u t v k : Nat) (f : Thread → Thread) :
    (s.updThread u t f).thread? v k = if v = u ∧ k = t then (s.thread? v k).map f else s.thread? v k := by
  simp only [State.thread?, State.updThread]
  rw [State.wg?_updWg s u v (·.updThread t f) (fun _ => rfl)]
  by_cases hv : v = u
  · subst hv
    simp only [if_true, true_and]
    cases s.wg? v with
    | none => simp
    | some w =>
      simp only [Option.map_some, Option.bind_some, Workgroup.updThread, List.getElem?_modify]
      by_cases hk : k = t
      · subst hk; simp
      · have : t ≠ k := fun h => hk h.symm
        simp only [hk, this, if_false]
        simp
  · simp [hv]

/-- A result put in flight. -/
@[simp] theorem State.addPend_pend (s : State) (k : Nat) (p : Pend) : (s.addPend k p).pend =
    s.pend ++ [{ p with id := s.nextId, seq := if p.seq = 0 then s.nextId else p.seq, due := s.clk + k }] := rfl

/-! Memory keeps its form. -/

theorem foldl_keeps {α β : Type} (P : α → Prop) (f : α → β → α) (h : ∀ a b, P a → P (f a b)) : ∀ (l : List β) (a : α), P a → P (l.foldl f a)
  | [], _, ha => ha
  | b :: l, a, ha => foldl_keeps P f h l (f a b) (h a b ha)

theorem ite_keeps {α : Type} (P : α → Prop) {b : Prop} [Decidable b] {x y : α} (hx : P x) (hy : P y) : P (if b then x else y) := by
  split <;> assumption

theorem State.pkgWrite_wf {s : State} (pa : Nat) (bs : List Byte) (h : s.mem.wf = true) : (s.pkgWrite pa bs).mem.wf = true :=
  Mem.write_wf bs pa h

theorem State.writeStatus_wf {s : State} (n : Nat) (h : s.mem.wf = true) : (s.writeStatus n).mem.wf = true := Mem.write_wf _ _ h

theorem State.setCtxState_wf {s : State} (n : Nat) (x : CtxState) (h : s.mem.wf = true) : (s.setCtxState n x).mem.wf = true :=
  State.writeStatus_wf n h

theorem State.recordErr_mem (s : State) (b : Nat) (e : ErrInfo) : (s.recordErr b e).mem = s.mem := by
  unfold State.recordErr; dsimp only; split <;> rfl

@[simp] theorem State.leaveBundle_mem (s : State) (u t : Nat) : (s.leaveBundle u t).mem = s.mem := rfl
@[simp] theorem State.block_mem (s : State) (u t : Nat) (w : Wait) (k : Option Nat) : (s.block u t w k).mem = s.mem := rfl
@[simp] theorem State.park_mem (s : State) (u t : Nat) (p : Park) : (s.park u t p).mem = s.mem := rfl
@[simp] theorem State.release_mem (s : State) (u t : Nat) : (s.release u t).mem = s.mem := rfl
@[simp] theorem State.reissue_mem (s : State) (c : Issue) : (s.reissue c).mem = s.mem := rfl
@[simp] theorem State.countUp_mem (s : State) (u : Nat) (ts : List Nat) (k : Ctr) : (s.countUp u ts k).mem = s.mem := rfl
@[simp] theorem State.settleFell_mem (s : State) (u t : Nat) (k : Ctr) : (s.settleFell u t k).mem = s.mem := rfl

theorem State.countDown_mem (s : State) (u : Nat) (ts : List Nat) (k : Ctr) (n : Nat) : (s.countDown u ts k n).mem = s.mem :=
  foldl_keeps (fun x : State => x.mem = s.mem)
    (fun s t => (s.updThread u t fun th =>
      if n < th.born then th else { th with fell := th.fell ++ [(k, n)] }).settleFell u t k) (fun _ _ h => h) ts s rfl

theorem State.stopContext_wf {s : State} (u t code : Nat) (h : s.mem.wf = true) : (s.stopContext u t code).mem.wf = true := by
  unfold State.stopContext
  split
  · exact h
  · split
    · exact h
    · exact State.setCtxState_wf _ _ h

theorem State.trapEnter_wf {s : State} (u t : Nat) (r : TrapRec) (h : s.mem.wf = true) : (s.trapEnter u t r).mem.wf = true := by
  unfold State.trapEnter
  split
  · exact ite_keeps (fun x : State => x.mem.wf = true) (State.stopContext_wf u t _ h) h
  · exact h

theorem State.deliver_wf {s : State} (u t : Nat) (r : TrapRec) (h : s.mem.wf = true) : (s.deliver u t r).mem.wf = true := by
  unfold State.deliver
  dsimp only
  split
  · exact h
  · exact State.trapEnter_wf u t r h

theorem State.raise_wf {s : State} (c : Issue) (t code addr : Nat) (h : s.mem.wf = true) : (s.raise c t code addr).mem.wf = true :=
  State.deliver_wf _ _ _ h

theorem State.raiseAll_wf {s : State} (c : Issue) (ts : List Nat) (code addr : Nat) (h : s.mem.wf = true) :
    (s.raiseAll c ts code addr).mem.wf = true :=
  foldl_keeps (fun x : State => x.mem.wf = true) _ (fun _ _ hx => State.raise_wf c _ code addr hx) ts s h

theorem State.raiseAt_wf {s : State} (u t code addr : Nat) (h : s.mem.wf = true) : (s.raiseAt u t code addr).mem.wf = true := by
  unfold State.raiseAt
  split
  · exact h
  · exact State.deliver_wf _ _ _ h

/-- Reset memory has the form. -/
theorem State.reset_mem_wf : State.reset.mem.wf = true := rfl

end Sys2Proof.Machine
end

