-- ==== Sys2Proof/Tests/Slice0.lean ====
section
/-! SUPPORT. Checks of the author's own: ill-formed terms that WellFormed refuses, words of the manual's encoding tables
decoded, single steps with results worked out by hand from the rules, and for every statement states and operands that
meet its hypotheses together. -/

namespace Sys2Proof.Tests

open Sys2Proof.Machine Sys2Proof.Claim

/-! A small machine: one workgroup of one thread, in a bundle whose second word of three issues. -/

def g0 : Guard := ⟨false, 0⟩

/-- The issue of the word at 0x1004, first of a clause of one word. -/
def iss : Issue :=
  { bundle := 3, core := 0, wg := 2, tids := [0], hdr := 0x1000, idx := 0, addr := 0x1004, next := 0x1008, len := 1, last := true, port := 0 }

def thr : Thread := { Thread.start 0x1008 0 with mid := none, here := ⟨0x1004, 0x1000, 0⟩, st := .live }

/-- Registers by number: those given, and 0 in the others. -/
def wave (rs : List (Nat × Word)) : List RegImg := (List.range 64).map fun r => .u ((rs.lookup r).getD 0)

def wgrp : Workgroup := { probeWorkgroup with threads := [thr], waves := [wave []] }

/-- Page tables at 0x10000: six pages of 1 GiB, the first uncached, the second cached, the third with no rights, the fourth
secure, the fifth on the IO range, the sixth mirrored, the
seventh unpopulated, the ninth a hearth page. The links from die 0 to the I/O dies of stacks 4 to 7 are open. -/
def tables : Mem :=
  [(0x10000, 0x01), (0x10001, 0x10), (0x10002, 0x01),
   (0x11000, 0x1F), (0x11008, 0x3F), (0x1100B, 0x40), (0x11010, 0x03), (0x11013, 0x80), (0x11018, 0x1F), (0x11019, 0x02), (0x1101B, 0xC0),
   (0x11020, 0x1F), (0x11024, 0x70), (0x11028, 0x1F), (0x11029, 0x01), (0x1102B, 0x40), (0x1102C, 0x01),
   (0x11030, 0x1F), (0x11034, 0x60), (0x11040, 0x9F), (0x11044, 0x02)]

def ctxt : Context :=
  { Context.empty with state := .running, desc := { Desc.zero with ptroot := 0x10000, trapvec := 0x2000, trapvecs := 0x2800, scallvec := 0x3000 } }

def base : State :=
  { State.reset with
    clk := 100, cur := some iss, nextId := 10, mem := tables, wgs := [wgrp], launches := [probeLaunch], contexts := [ctxt], resetEnded := true
    dies := List.replicate 68 { Die.reset with state := .live, passes := 1, ever := true }
    links := [{ Link.reset 2 with state := .open_ }, { Link.reset 3 with state := .open_ }]
    bundles := [{ id := 3, core := 0, wg := 2, tids := [0], hdr := 0x1000, words := some [0x1100_40FF, 0x10], idx := 1, cls := 0, formed := 0,
                  notBefore := 0, rest := [], crwr := none, tlbi := none }] }

/-- `base` with another workgroup, another thread, other registers, another launch record or context. -/
def bw (f : Workgroup → Workgroup) : State := { base with wgs := [f wgrp] }
def bt (f : Thread → Thread) : State := bw fun w => { w with threads := [f thr] }
def br (rs : List (Nat × Word)) : State := bw fun w => { w with waves := [wave rs] }
def bl (f : LaunchRec → LaunchRec) : State := { base with launches := [{ probeLaunch with lr := f probeRecord }] }
def bc (f : Context → Context) : State := { base with contexts := [f ctxt] }

/-- An atomic at an address, with a result or without. -/
def atomOn (pa f : Nat) (ca : Bool) (r : Option Nat) : AtomOp :=
  { id := 5, due := 100, wg := 2, tidx := 0, va := pa, pa := pa, fields := BitVec.ofNat 32 f, isC := false, result := r, opB := 1, opC := 0, ca := ca,
    mi := false, fwd := false }

/-- At control level. -/
def ctl (th : Thread) : Thread := { th with priv := true }

theorem ex_some {α : Type} {o : Option α} {p : α → Prop} [DecidablePred p] (h : o.any (fun a => decide (p a)) = true) :
    ∃ a, o = some a ∧ p a := by
  cases o with
  | none => simp at h
  | some a => exact ⟨a, rfl, by simpa using h⟩

theorem all_ex {α : Type} {f : Nat → Option α} {p : Nat → α → Prop} [∀ l, DecidablePred (p l)] {ls : List Nat}
    (h : ls.all (fun l => (f l).any fun a => decide (p l a)) = true) : ∀ l ∈ ls, ∃ a, f l = some a ∧ p l a := by
  intro l hl
  exact ex_some (List.all_eq_true.1 h l hl)

theorem all_and_ex {α : Type} {q : Nat → Prop} {f : Nat → Option α} {p : Nat → α → Prop} [DecidablePred q] [∀ l, DecidablePred (p l)]
    {ls : List Nat} (h : ls.all (fun l => decide (q l) && (f l).any fun a => decide (p l a)) = true) :
    ∀ l ∈ ls, q l ∧ ∃ a, f l = some a ∧ p l a := by
  intro l hl
  have := List.all_eq_true.1 h l hl
  simp only [Bool.and_eq_true, decide_eq_true_eq] at this
  exact ⟨this.1, ex_some this.2⟩

theorem canTrap_of {s : State} {c : Issue} {w : Workgroup} {vec : Nat} {ls : List Nat} (h1 : s.wg? c.wg = some w) (h2 : c.tids.Nodup)
    (h3 : vec ≠ 0)
    (h4 : ls.all (fun l => decide (s.outstanding c.wg l = false) && (w.threads[l]?).any fun th => decide (th.priv = false)) = true) :
    CanTrap s c w vec ls := ⟨h1, h2, h3, all_and_ex h4⟩

theorem ok_of {ε α : Type} {x : Except ε α} {v : α} (h : x.toOption = some v) : x = .ok v := by
  cases x with
  | error e => simp [Except.toOption] at h
  | ok a => simpa [Except.toOption] using h

/-- The error an answer holds. -/
def errOf {ε α : Type} : Except ε α → Option ε
  | .error e => some e
  | .ok _ => none

theorem error_of {ε α : Type} {x : Except ε α} {v : ε} (h : errOf x = some v) : x = .error v := by
  cases x with
  | error e => simpa [errOf] using h
  | ok a => simp [errOf] at h

theorem goesR {s : State} {w : Workgroup} {ts : List Nat} {n : Nat} {rd : Nat → Nat} {ea : Nat → Word64} {lf : Nat → Leaf} (h0 : ts ≠ [])
    (h : ts.all (fun l => decide (s.fate w l (rd l) .read (ea l) n = .go (lf l)) && (w.threads[l]?).any fun th => decide (th.tx.active = false ∧
      th.ctr.l < 63)) = true) : Goes s w ts .read n rd ea lf := ⟨h0, all_and_ex h⟩

theorem goesW {s : State} {w : Workgroup} {ts : List Nat} {n : Nat} {rd : Nat → Nat} {ea : Nat → Word64} {lf : Nat → Leaf} (h0 : ts ≠ [])
    (h : ts.all (fun l => decide (s.fate w l (rd l) .write (ea l) n = .go (lf l)) && (w.threads[l]?).any fun th => decide (th.tx.active = false ∧
      th.ctr.s < 63 ∧ th.sq.length < 8)) = true) : Goes s w ts .write n rd ea lf := ⟨h0, all_and_ex h⟩

/-- A fact of every active thread, where only thread 0 is active. -/
theorem only0 {P : Nat → Prop} {s : State} {c : Issue} {g : Guard} (h : act s c g = [0]) (h0 : P 0) : ∀ l ∈ act s c g, P l := by
  intro l hl
  rw [h, List.mem_singleton] at hl
  exact hl ▸ h0

theorem quiet_of {s : State} {u l : Nat} (h : (s.thread? u l).all (fun th => decide (th.sq = [])) = true) (h1 : s.atoms = []) (h2 : s.channels = [])
    (h3 : s.cmds = []) (h4 : s.ops = []) (h5 : s.ralpex = []) (h6 : s.mirrors = []) (h7 : s.releasing u l = false) : Quiet s u l := by
  refine ⟨fun th e => by rw [e] at h; simpa using h, ?_, ?_, ?_, ?_, ?_, ?_, ?_⟩ <;> simp [h1, h2, h3, h4, h5, h6, h7]

theorem ex_ok {ε α : Type} {x : Except ε α} (h : x.toOption.isSome = true) : ∃ v, x = .ok v := by
  cases x with
  | error e => simp [Except.toOption] at h
  | ok a => exact ⟨a, rfl⟩

/-! Witnesses: arithmetic, floating point and conversion. -/

theorem witness_IntegerResults : base.cur = some iss ∧ act base iss g0 = [0] := by decide +kernel

theorem witness_PredicateResults : base.cur = some iss ∧ wellFormed (.plop g0 1 2 3 0x8007) = true := by decide +kernel

theorem witness_CrossLaneResults : base.cur = some iss ∧ (iss.tids.map (· % 32)).Nodup := by decide +kernel

theorem witness_IndexedMoveResults : (base.cur = some iss ∧ base.wg? iss.wg = some wgrp) ∧
    (∀ l ∈ act base iss g0, (val base iss (.imm 0) l).toNat < wgrp.regs ∧ (val base iss (.imm 0) l).toNat ≠ 63) ∧
    ∀ l ∈ act base iss g0, (val base iss (.imm 62) l).toNat < wgrp.regs ∧ (val base iss (.imm 62) l).toNat ≠ 63 := by
  decide +kernel

/-- With no flag enabled no thread traps. -/
theorem witness_FloatingPointResults : base.cur = some iss ∧ act base iss g0 ≠ [] ∧ ∀ f : Nat → FpRes, NoTrap base iss (act base iss g0) f := by
  refine ⟨rfl, by decide +kernel, fun f l hl => ?_⟩
  have h0 : (base.fpctl iss.wg l).toNat / 2^8 % 32 = 0 := by
    have : act base iss g0 = [0] := by decide +kernel
    rw [this, List.mem_singleton] at hl
    subst hl
    decide +kernel
  rw [h0, Nat.zero_and]

/-- 0, the least and the greatest finite value. -/
theorem witness_RoundingKeepsRepresentableValues :
    (e2m1 ∈ [f64, f32, f16, bf16, e4m3, e5m2, e2m3, e3m2, e2m1] ∧ 0xF < 2^e2m1.w ∧ ∃ neg m e, e2m1.decode 0xF = .num neg m e false) ∧
    (0 < 2^f64.w ∧ ∃ neg m e, f64.decode 0 = .num neg m e false) ∧ (1 < 2^f32.w ∧ ∃ neg m e, f32.decode 1 = .num neg m e false) ∧
    0x7F7FFFFF < 2^f32.w ∧ ∃ neg m e, f32.decode 0x7F7FFFFF = .num neg m e false :=
  ⟨⟨by decide, by decide, _, _, _, rfl⟩, ⟨by decide, _, _, _, rfl⟩, ⟨by decide, _, _, _, rfl⟩, by decide, _, _, _, rfl⟩

/-- Slot 0 holds E4M3 in blocks of 32, E2M1 in blocks of 16, and a rounding field at and past its last value. -/
theorem witness_ConversionResults :
    let a := bl fun x => { x with fmt := [0x0005_3010] }
    let b := bl fun x => { x with fmt := [0x0044_3023] }
    let d := bl fun x => { x with fmt := [0x0050_0000] }
    a.cur = some iss ∧ act a iss g0 ≠ [] ∧ blockSlotOk (slotOf a iss 0) = true ∧ blockSlotOk (slotOf b iss 0) = true ∧
    slotRound (slotOf base iss 0) = 0 ∧ slotRound (slotOf b iss 0) = 4 ∧ slotRound (slotOf d iss 0) = 5 := by decide +kernel

/-! Witnesses: control flow, traps, system registers, errors and the root. -/

theorem witness_ControlFlowResults :
    let s := br [(4, 0xFFFFFFFC), (5, 0xFFFF)]
    s.cur = some iss ∧ act s iss g0 = [0] ∧ (iss.addr + (val s iss (.imm 0xFFFFF000) 0).signExtend 48).toNat = 4 ∧
    ((reg s iss 5 0 ++ reg s iss 4 0 : Word64).setWidth 48).toNat % 4 = 0 ∧ ((s.thread? iss.wg 0).map Thread.link) = some 0 := by decide +kernel

theorem witness_CanTrap : base.cur = some iss ∧ act base iss g0 = [0] ∧ CanTrap base iss wgrp (vector base wgrp) (act base iss g0) :=
  ⟨rfl, by decide +kernel, canTrap_of rfl (by decide) (by decide) (by decide +kernel)⟩

theorem witness_ScallEntersControlLevel : base.cur = some iss ∧ base.wg? iss.wg = some wgrp ∧ iss.tids.Nodup ∧
    (base.ctx wgrp.ctx).desc.scallvec ≠ 0 ∧ ∀ l ∈ act base iss g0, ∃ th : Thread, wgrp.threads[l]? = some th ∧ th.priv = false :=
  ⟨rfl, rfl, by decide, by decide, all_ex (by decide +kernel)⟩

theorem witness_DbrkTakesDebugWhenEnabled :
    let s := bc fun x => { x with dbgctl := 8 }
    (s.cur = some iss ∧ s.wg? iss.wg = some wgrp ∧ (s.ctx wgrp.ctx).dbgctl.getLsbD 3 = true ∧ (s.ctx wgrp.ctx).dbgctl.getLsbD 0 = false ∧
      CanTrap s iss wgrp (vector s wgrp) (act s iss g0)) ∧ (base.ctx wgrp.ctx).dbgctl.getLsbD 3 = false :=
  ⟨⟨rfl, rfl, by decide, by decide, canTrap_of rfl (by decide) (by decide) (by decide +kernel)⟩, by decide⟩

/-- A branch by 2 and a pair that holds 2 are no multiples of 4; 63 and 64 are no register indices; slot 0 rounds by 5. -/
theorem witness_OperandFaultsEnterTheHandler :
    let s := bw fun w => { w with waves := [wave [(4, 2)]], threads := [{ thr with link := 2 }] }
    let w := { wgrp with waves := [wave [(4, 2)]], threads := [{ thr with link := 2 }] }
    let b := bl fun x => { x with fmt := [0x0050_0000] }
    (s.cur = some iss ∧ CanTrap s iss w (vector s w) [0]) ∧
    (act s iss g0).filter (fun l => decide ((iss.addr + (val s iss (.imm 2) l).signExtend 48).toNat % 4 ≠ 0)) = [0] ∧
    (act s iss g0).filter (fun l => decide (((reg s iss 5 l ++ reg s iss 4 l : Word64).setWidth 48).toNat % 4 ≠ 0)) = [0] ∧
    (s.thread? iss.wg 0).map Thread.link = some 2 ∧ w.regs ≤ (val s iss (.imm 64) 0).toNat ∧ (val s iss (.imm 63) 0).toNat = 63 ∧
    slotRound (slotOf b iss 0) = 5 ∧ blockSlotOk (slotOf b iss 0) = false ∧ CanTrap b iss wgrp (vector b wgrp) (act b iss g0) :=
  ⟨⟨rfl, canTrap_of rfl (by decide) (by decide) (by decide +kernel)⟩, by decide +kernel, by decide +kernel, rfl, by decide, by decide,
    by decide, by decide, canTrap_of rfl (by decide) (by decide) (by decide +kernel)⟩

/-- Infinity minus infinity is invalid, and the flag is enabled. -/
theorem witness_EnabledFlagTakesFptrap :
    let s := bt fun th => { th with fpctl := 0x1F00 }
    let w := { wgrp with threads := [{ thr with fpctl := 0x1F00 }] }
    s.cur = some iss ∧ (fadd1 (fpEnv (s.fpctl iss.wg 0) 0) 0x7F800000 0xFF800000).2 = 1 ∧ (s.fpctl iss.wg 0).toNat / 2^8 % 32 &&& 1 ≠ 0 ∧
    CanTrap s iss w (vector s w) [0] :=
  ⟨rfl, by decide +kernel, by decide, canTrap_of rfl (by decide) (by decide) (by decide +kernel)⟩

theorem witness_SystemRegisterReads :
    let s := bt ctl
    let w := { wgrp with threads := [ctl thr] }
    s.cur = some iss ∧ s.wg? iss.wg = some w ∧ w.redun = none ∧ (∀ p ∈ s.pend, p.sys = []) ∧
    ∀ l ∈ act s iss g0, ∃ th : Thread, w.threads[l]? = some th ∧ th.priv = true :=
  ⟨rfl, rfl, rfl, by decide, all_ex (by decide +kernel)⟩

/-- A result of MTS TRAPADDR that lands; below, MTS DBGCTL with halt 1 and 0. -/
def mtsLands : Pend :=
  { id := 9, seq := 9, due := 100, wg := 2, tids := [0], ctr := none, load := false, regs := [], preds := [], flags := [],
    sys := [(0, 0x11, 7)], poison := [], late := none, makes := [], deps := none }

theorem witness_SystemRegisterWrites :
    let s := { base with pend := [mtsLands] }
    let d := fun (v : Word64) => { base with pend := [{ mtsLands with sys := [(0, 0x20, v)] }] }
    ((d 0x1B).nextLanding false = some { mtsLands with sys := [(0, 0x20, 0x1B)] } ∧ Nat.testBit 0x1B 1 = true ∧
      (d 0x19).nextLanding false = some { mtsLands with sys := [(0, 0x20, 0x19)] } ∧ Nat.testBit 0x19 1 = false ∧ wgrp.ctx < (d 0x19).contexts.length) ∧
    s.nextLanding false = some mtsLands ∧ mtsLands.regs = [] ∧ mtsLands.preds = [] ∧ mtsLands.flags = [] ∧ mtsLands.poison = [] ∧
    mtsLands.late = none ∧ mtsLands.makes = [] ∧ mtsLands.ctr = none ∧ s.wg? mtsLands.wg = some wgrp ∧ wgrp.threads[0]? = some thr ∧
    mtsLands.sys = [(0, 0x11, 7)] := ⟨⟨rfl, by decide, rfl, by decide, by decide⟩, rfl, rfl, rfl, rfl, rfl, rfl, rfl, rfl, rfl, rfl, rfl⟩

/-- TRAPCLS names a clause word, and names none. -/
theorem witness_ReturnsRestoreTheThread :
    let th : Thread := { ctl thr with trap := { TrapRegs.zero with cause := 0x12, cls := 0x8003_0000_0000_1000 } }
    let s := bt fun _ => th
    let w := { wgrp with threads := [th] }
    (s.cur = some iss ∧ s.wg? iss.wg = some w ∧ iss.tids.Nodup ∧
      ∀ l ∈ act s iss g0, ∃ th : Thread, w.threads[l]? = some th ∧ th.priv = true ∧ th.wd = none ∧ th.trap.cause.toNat % 256 ≠ 0x10) ∧
    th.trap.cls.getLsbD 63 = true ∧ (ctl thr).trap.cls.getLsbD 63 = false :=
  ⟨⟨rfl, rfl, by decide, all_ex (by decide +kernel)⟩, by decide, by decide⟩

theorem witness_UnhandledFaultStopsTheContext :
    let s := bt ctl
    let w := { wgrp with threads := [ctl thr] }
    s.cur = some iss ∧ s.wg? iss.wg = some w ∧ w.secure = false ∧ w.ctx < s.contexts.length ∧ (s.ctx w.ctx).state = .running ∧
    s.mem.wf = true ∧ act s iss g0 = [0] ∧ iss.tids.Nodup ∧
    ∀ k ∈ act s iss g0, s.outstanding iss.wg k = false ∧ ∃ th : Thread, w.threads[k]? = some th ∧ th.priv = true :=
  ⟨rfl, rfl, rfl, by decide, rfl, by decide +kernel, by decide +kernel, by decide, all_and_ex (by decide +kernel)⟩

/-- The leading copy of a pair. -/
def lead : Redun :=
  { trailing := false, screen := false, partner := 4, point := 5, matched := 0, sigs := [], checkpoints := [], rollbacks := 0, everRolled := false,
    everFaulted := false, bad := [], screenHit := false, inject := false, reexec := false, final := false, buf := [], fwd := [], atoms := [],
    issued := [], segs := [], rel := [], injAt := [] }

/-- COMMIT in a copy and in none; YIELD in a launch with the YIELD flag, with and without a request pending; and one without it. -/
theorem witness_WaitsBlockTheThread :
    let y := bl fun x => { x with flags := 0x20 }
    let w2 := { wgrp with ydeadline := 2^63 + 5 }
    let y2 := { y with wgs := [w2] }
    let r := bw fun w => { w with redun := some lead }
    (base.cur = some iss ∧ base.wg? iss.wg = some wgrp ∧ wgrp.redun = none) ∧
    (r.wg? iss.wg = some { wgrp with redun := some lead }) ∧ ((y.lrOf wgrp).yields = true ∧ wgrp.ydeadline.testBit 63 = false) ∧
    ((y2.lrOf w2).yields = true ∧ w2.ydeadline.testBit 63 = true) ∧ (base.lrOf wgrp).yields = false ∧
    CanTrap base iss wgrp (vector base wgrp) (act base iss g0) :=
  ⟨⟨rfl, rfl, rfl⟩, rfl, by decide +kernel, by decide +kernel, by decide +kernel, canTrap_of rfl (by decide) (by decide) (by decide +kernel)⟩

/-- No TLBI waits, and one does since number 3 and since number 9; no access is under way, and an atomic numbered 5 is. -/
theorem witness_TlbiDropsTranslations :
    let s := { bt ctl with tlb := [⟨0, 0, 0, 2^30, 0x1F⟩] }
    let w := { wgrp with threads := [ctl thr] }
    let ok := fun (s : State) => (s.bundle? iss.bundle).bind (·.tlbi) = none ∧ (st0 s).groupReleased iss.wg (act s iss g0) = true ∧
      ∀ l ∈ act s iss g0, (st0 s).remoteDone iss.wg l = true
    let s1 := (st0 s).l1Release iss.core
    let a : State := { s with atoms := [atomOn 0x4100 0 false none] }
    let a1 := (st0 a).l1Release iss.core
    let m := a.updBundle 3 fun b => { b with tlbi := some 9 }
    let n := a.updBundle 3 fun b => { b with tlbi := some 3 }
    (s.cur = some iss ∧ s.wg? iss.wg = some w ∧ act s iss g0 ≠ [] ∧ ∀ l ∈ act s iss g0, ∃ th : Thread, w.threads[l]? = some th ∧ th.priv = true) ∧
    (ok s ∧ s1.tlbiWaits w.ctx none s1.nextId = false ∧ s1.tlbiWaits w.ctx (some 0) s1.nextId = false) ∧
    (ok a ∧ a1.tlbiWaits w.ctx none a1.nextId = true ∧ a1.tlbiWaits w.ctx (some 0) a1.nextId = true ∧ (a1.bundle? iss.bundle).isSome = true) ∧
    ((m.bundle? iss.bundle).bind (·.tlbi) = some 9 ∧ (st0 m).tlbiWaits w.ctx none 9 = true) ∧
    ((n.bundle? iss.bundle).bind (·.tlbi) = some 3 ∧ (st0 n).tlbiWaits w.ctx none 3 = false) :=
  ⟨⟨rfl, rfl, by decide +kernel, all_ex (by decide +kernel)⟩, by decide +kernel, by decide +kernel, by decide +kernel, by decide +kernel⟩

/-- SLEEP's own hypotheses: program level and control level alike. -/
theorem witness_SleepBlocksAndReturns_issue : base.cur = some iss ∧ base.wg? iss.wg = some wgrp ∧ act base iss g0 = [0] := by decide +kernel

/-- The root: secure world, control level; register 4 and 5 name an address or a number. -/
def rootWg (rs : List (Nat × Word)) : Workgroup := { wgrp with secure := true, threads := [ctl thr], waves := [wave rs] }
def rootAt (rs : List (Nat × Word)) : State := { base with wgs := [rootWg rs] }

theorem root_of (rs : List (Nat × Word)) : Root (rootAt rs) iss (rootWg rs) [0] :=
  ⟨rfl, rfl, by decide, all_ex rfl⟩

theorem witness_StatusQueries :
    let s := rootAt [(4, 63)]
    s.cur = some iss ∧ act s iss g0 = [0] ∧ Root s iss (rootWg [(4, 63)]) [0] ∧ (val s iss (.reg 4) 0).toNat = 63 ∧ (rootWg []).redun = none :=
  ⟨rfl, by decide +kernel, root_of _, by decide +kernel, rfl⟩

theorem witness_ErrclrClearsTheNamedBanks :
    let s := bt ctl
    let w := { wgrp with threads := [ctl thr] }
    s.cur = some iss ∧ s.wg? iss.wg = some w ∧ (∀ l ∈ act s iss g0, ∃ th : Thread, w.threads[l]? = some th ∧ th.priv = true) ∧
    (act s iss g0).map (fun l => (val s iss (.imm 67) l).toNat % 128) = [67] ∧ 67 < s.banks.length :=
  ⟨rfl, rfl, all_ex (by decide +kernel), by decide +kernel, by decide⟩

/-- An uncorrectable error in an empty bank, behind an uncorrectable one and behind a corrected one; the counts at their ends. -/
theorem witness_ErrorRecordSurvival :
    let b : Bank := { Bank.zero with w0 := 0xC000_0000_0000_0000, overflow := 2^32 - 1 }
    let k : Bank := { Bank.zero with w0 := 0x8000_0000_0000_0000, corrected := 2^32 - 1 }
    (b.w0.getLsbD 63 = true ∧ b.w0.getLsbD 62 = true) ∧ (k.w0.getLsbD 63 = true ∧ k.w0.getLsbD 62 = false) ∧
    Bank.zero.w0.getLsbD 63 = false := by decide

/-- The last byte of the window, an address of HBM; a link of two other dies, and one of the issuing die. -/
theorem witness_ErrorInjection :
    let rs := [(4, 0xFFFF)]
    let s := rootAt rs
    let s0 := { s with fresh := s.fresh + 1 }
    s.cur = some iss ∧ s.wg? iss.wg = some (rootWg rs) ∧ act s iss g0 ≠ [] ∧
    (∀ l ∈ act s iss g0, ∃ th : Thread, (rootWg rs).threads[l]? = some th ∧ th.priv = true) ∧ (rootWg rs).lsbytes ≤ 2^20 ∧
    (reg s iss 5 0 ++ reg s iss 4 0 : Word64).toNat = (rootWg rs).lsbytes - 1 ∧
    (∃ lf, s0.access (rootWg rs) .write 0xFFFF .any = .ok lf ∧ isHbm lf.pa = true) ∧
    (0xFFFF % 256 / 4 = 63 ∧ neighbour 63 3 = 62) ∧ (2 / 4 = dieOf (rootWg rs).core) :=
  ⟨rfl, rfl, by decide +kernel, all_ex (by decide +kernel), by decide, by decide +kernel, ⟨⟨0xFFFF, 0x1F, 2^30⟩, rfl, by decide⟩, by decide, by decide⟩

/-- Dies 63 and 68 (there is none), the own die, a quarantined die, one that a QUAR reset has reset, a live one; and a sound KEYI block in
the window. -/
theorem witness_RootInstructions :
    let s := rootAt [(5, 0)]
    let q : State := { s with dies := s.dies.set 9 { Die.reset with state := .quarantined, cause := 2 } }
    let r : State := { s with dies := s.dies.set 9 { Die.reset with state := .quarantined, cause := 4, byQuar := true } }
    let k : State := { base with wgs := [{ rootWg [(4, 0x4100), (5, 0)] with window := [] }] }
    (s.cur = some iss ∧ act s iss g0 = [0] ∧ Root s iss (rootWg [(5, 0)]) [0]) ∧ s.dies[68]? = none ∧
    (∃ x : Die, s.dies[63]? = some x ∧ x.state = .live ∧ x.measure = false ∧ 63 ≠ dieOf (rootWg []).core) ∧
    (∃ x : Die, q.dies[9]? = some x ∧ ¬ (x.state = .quarantined ∧ x.cause = 4 ∧ x.byQuar = true) ∧ x.state ≠ .live) ∧
    (∃ x : Die, r.dies[9]? = some x ∧ x.state = .quarantined ∧ x.cause = 4 ∧ x.byQuar = true) ∧
    (∃ b, laneBlock { k with fresh := k.fresh + 1 } (rootWg [(4, 0x4100), (5, 0)]) 0 0x4100 = .ok (b, none) ∧
      laneWaits { k with fresh := k.fresh + 1 } (rootWg [(4, 0x4100), (5, 0)]) 0 0x4100 = false ∧ keyiFields b = none) ∧
    s.link? 511 = none ∧ (s.link? 2).isSome = true :=
  ⟨⟨rfl, by decide +kernel, root_of _⟩, rfl, ⟨_, rfl, rfl, rfl, by decide⟩, ⟨_, rfl, by decide, by decide⟩,
    ⟨_, rfl, rfl, rfl, rfl⟩, ⟨List.replicate 64 0, ok_of (by decide +kernel), by decide +kernel, by decide +kernel⟩, by decide +kernel, by decide +kernel⟩

theorem witness_KeyRollover :
    let l : Link := { Link.reset 0 with state := .open_, d0 := { LinkDir.reset with acked := true } }
    let r := (l.roll 0 0).2
    (l.dirOpen 0 = true ∧ (l.dir 0).acked = true) ∧ ((r.dir 0).rolling = true ∧ (r.dir 0).switched = false) ∧
    ¬ ((Link.reset 0).dirOpen 0 = true ∧ ((Link.reset 0).dir 0).acked = true) ∧
    ¬ (((Link.reset 0).dir 0).rolling = true ∧ ((Link.reset 0).dir 0).switched = false) := by decide

/-! Witnesses: memory and tiles. -/

/-- The pair of registers 4 and 5 holds an address of HBM, the pair of 6 and 7 one of the cached page. -/
def mrs : List (Nat × Word) := [(4, 0x4100), (6, 0x4000_4100), (8, 0x8000_4100), (10, 0xFFF0), (12, 0x4101), (14, 1)]
def mw : Workgroup := { wgrp with waves := [wave mrs] }
def ms : State := br mrs

theorem plain_ms : Plain ms iss mw := ⟨rfl, rfl, rfl, rfl, by decide⟩

/-- A scaled offset of 63 elements, an extension offset, a cached page; scopes up to 2 and from 3 on. -/
theorem witness_GlobalLoads : Plain ms iss mw ∧
    Goes (st0 ms) mw (act ms iss g0) .read 16 id (gea ms iss 4 (.scaled 63) 16) (fun _ => ⟨0x44F0, 0x1F, 2^30⟩) ∧
    Goes (st0 ms) mw (act ms iss g0) .read 1 (fun l => elect ((act ms iss g0).filter (· / 32 == l / 32)))
      (fun l => gea ms iss 6 (.ext 0xFFFFFFFF) 1 (elect ((act ms iss g0).filter (· / 32 == l / 32))))
      (fun _ => ⟨0x4000_40FF, 0x4000003F, 2^30⟩) ∧
    Goes (st0 ms) mw (act ms iss g0) .read 4 id (gea ms iss 4 (.scaled 0) 4) (fun _ => ⟨0x4100, 0x1F, 2^30⟩) ∧
    (2 < 3 ∧ Goes ((st0 ms).l1Acquire iss.core) mw (act ms iss g0) .read 4 id (gea ms iss 4 (.scaled 0) 4) (fun _ => ⟨0x4100, 0x1F, 2^30⟩)) ∧
    (∀ th ∈ mw.threads, th.sq = []) ∧ ∀ f : Nat → Leaf, (∀ l, f l = ⟨0x4100, 0x1F, 2^30⟩) → Sound (reads (st0 ms) mw [0] (fun _ => 0) f) mw [0] 4 f :=
  ⟨plain_ms, goesR (by decide +kernel) (by decide +kernel), goesR (by decide +kernel) (by decide +kernel),
    goesR (by decide +kernel) (by decide +kernel), ⟨by decide, goesR (by decide +kernel) (by decide +kernel)⟩, by decide +kernel,
    fun f h l hl => by
      rw [show f = fun _ => ⟨0x4100, 0x1F, 2^30⟩ from funext h]
      have h : l = 0 := by simpa using hl
      subst h
      decide +kernel⟩

/-- The last 16 bytes of the window, and the bytes past it. -/
theorem witness_LocalLoads :
    (ms.cur = some iss ∧ ms.wg? iss.wg = some mw ∧ iss.tids.Nodup ∧ mw.poison = [] ∧ mw.flips = [] ∧ mw.ctx < ms.contexts.length ∧
      act ms iss g0 ≠ []) ∧
    (∀ l ∈ act ms iss g0, lea_ ms iss 10 (.scaled 0) 16 l % 16 = 0 ∧ ∃ th : Thread, mw.threads[l]? = some th ∧ th.ctr.l < 63) ∧
    (∀ l ∈ act ms iss g0, lea_ ms iss 10 (.scaled 1) 16 l % 16 = 0 ∧ ∃ th : Thread, mw.threads[l]? = some th ∧ th.ctr.l < 63) ∧
    lea_ ms iss 10 (.scaled 1) 16 0 = mw.lsbytes :=
  ⟨⟨rfl, rfl, by decide, rfl, rfl, by decide, by decide +kernel⟩, all_and_ex (by decide +kernel), all_and_ex (by decide +kernel),
    by decide +kernel⟩

/-- With seven entries in the store queue and a counter at 62 one more goes in. -/
theorem witness_StoresEnterTheQueue :
    let th : Thread := { thr with sq := List.replicate 7 ⟨200, 1, .window []⟩, ctr := { thr.ctr with s := 62 } }
    let w := { mw with threads := [th] }
    let s := { ms with wgs := [w] }
    Plain s iss w ∧ Goes (st0 s) w (act s iss g0) .write 16 id (gea s iss 4 (.scaled 63) 16) (fun _ => ⟨0x44F0, 0x1F, 2^30⟩) ∧
    Goes (st0 s) w (act s iss g0) .write 4 id (gea s iss 6 (.scaled 0) 4) (fun _ => ⟨0x4000_4100, 0x4000003F, 2^30⟩) ∧
    (∀ l ∈ act s iss g0, lea_ s iss 10 (.scaled 0) 16 l % 16 = 0 ∧ ∃ th : Thread, w.threads[l]? = some th ∧ th.ctr.s < 63 ∧ th.sq.length < 8) ∧
    ∀ l ∈ act s iss g0, (st0 s).access w .read (gea s iss 4 (.ext 0) 128 l) .any = .ok ⟨0x4100, 0x1F, 2^30⟩ ∧
      ∃ th : Thread, w.threads[l]? = some th ∧ th.sq.length < 8 :=
  ⟨⟨rfl, rfl, rfl, rfl, by decide⟩, goesW (by decide +kernel) (by decide +kernel), goesW (by decide +kernel) (by decide +kernel),
    all_and_ex (by decide +kernel), fun l hl => by
      have h : l = 0 := by simpa using (show l ∈ [0] from hl)
      subst h
      exact ⟨ok_of (by decide +kernel), _, rfl, by decide⟩⟩

/-- One entry at the head of the store queue. -/
def leaving (a : SqAct) : Workgroup := { wgrp with threads := [{ thr with sq := [⟨100, 9, a⟩], ctr := { thr.ctr with s := 1 } }] }
def leavingAt (a : SqAct) : State := { base with wgs := [leaving a] }

/-- A local store at the end of the window, a global store of each page kind, an STRL at RECT, and CCTL. -/
theorem witness_StoresLeaveTheQueue :
    let h := fun (a : SqAct) => (leavingAt a).nextStore = some (leaving a, 0, ⟨100, 9, a⟩) ∧ (leavingAt a).wg? (leaving a).uid = some (leaving a) ∧
      (∃ th : Thread, (leaving a).threads[0]? = some th) ∧ (leavingAt a).mem.wf = true ∧ (leaving a).window.wf = true
    h (.window [(0xFFFE, [1, 2, 3, 4])]) ∧
    (h (.memory 0x4100 0x4100 false false [1, 2, 3, 4]) ∧ isIo 0x4100 = false ∧ (leavingAt (.memory 0x4100 0x4100 false false [1, 2, 3, 4])).remote 0x4100 = false ∧
      (leavingAt (.memory 0x4100 0x4100 false false [1, 2, 3, 4])).routed 0 (homeDie 0x4100) = true ∧
      (leavingAt (.memory 0x4100 0x4100 false false [1, 2, 3, 4])).l1Find 0 (sectorOf 0x4100) = none) ∧
    (h (.memory 0x417C 0x417C true false [1, 2, 3, 4]) ∧ 0x417C % 128 + 4 ≤ 128 ∧ (leavingAt (.memory 0x417C 0x417C true false [1, 2, 3, 4])).l1 = [] ∧
      (leavingAt (.memory 0x417C 0x417C true false [1, 2, 3, 4])).underway 0 = []) ∧
    (h (.release 3 0x4100 0x4100 false false [1, 2, 3, 4]) ∧ (leavingAt (.release 3 0x4100 0x4100 false false [1, 2, 3, 4])).remote 0x4100 = false ∧
      (leavingAt (.release 3 0x4100 0x4100 false false [1, 2, 3, 4])).routed 0 (homeDie 0x4100) = true) ∧ h (.cctl 0 0x4100) ∧ thr.born ≤ 9 :=
  ⟨⟨rfl, rfl, ⟨_, rfl⟩, by decide +kernel, by decide +kernel⟩,
    ⟨⟨rfl, rfl, ⟨_, rfl⟩, by decide +kernel, by decide +kernel⟩, by decide, by decide, by decide +kernel, rfl⟩,
    ⟨⟨rfl, rfl, ⟨_, rfl⟩, by decide +kernel, by decide +kernel⟩, by decide, rfl, by decide +kernel⟩,
    ⟨⟨rfl, rfl, ⟨_, rfl⟩, by decide +kernel, by decide +kernel⟩, by decide, by decide +kernel⟩, ⟨rfl, rfl, ⟨_, rfl⟩, by decide +kernel, by decide +kernel⟩,
    by decide⟩

theorem witness_L1CopyExpires :
    let x : L1Copy := ⟨0, 0x4100, List.replicate 128 7, [0, 127], 100, 50, false⟩
    let s := { base with l1 := [x] }
    s.l1.find? (fun k => decide (k.expire ≤ s.clk)) = some x ∧ s.l1Find x.core (x.pa / 128) = some x ∧ x.pa % 128 = 0 ∧ s.mem.wf = true := by
  decide +kernel

/-- Past the address space, an unmapped page, an unpopulated one, one without the right, a secure one, and a plain one. -/
theorem witness_TranslationRules :
    let leaf := fun va => walk base.mem (Config.groupPick base.fresh va) va 4 (base.ctx 0).desc.ptroot
    base.tlb = [] ∧ leaf (7 * 2^30) = none ∧ (leaf (6 * 2^30) = some (0x6000_0000_1F, 2^30) ∧ populated (ptePa 0x6000_0000_1F) = false) ∧
    (leaf (2 * 2^30) = some (0x80000003, 2^30) ∧ populated 0x80000000 = true ∧ Nat.testBit 0x80000003 2 = false) ∧
    (leaf (3 * 2^30) = some (0xC000021F, 2^30) ∧ Nat.testBit 0xC000021F 2 = true ∧ Nat.testBit 0xC000021F 9 = true) ∧
    leaf (2^30 - 1) = some (0x1F, 2^30) ∧ populated (2^30 - 1) = true := by
  decide +kernel

/-- A read and a write of a page without rights, and misaligned accesses of memory and of the window. -/
theorem witness_AccessFaultsEnterTheHandler :
    (Plain ms iss mw ∧ CanTrap ms iss mw (vector ms mw) (act ms iss g0)) ∧
    (∀ l ∈ act ms iss g0, (st0 ms).access mw .read (gea ms iss 8 (.scaled 0) 4 l) (.sized 4) = .error 5 ∧
      ∃ th : Thread, mw.threads[l]? = some th ∧ th.tx.active = false) ∧
    (∀ l ∈ act ms iss g0, (st0 ms).access mw .write (gea ms iss 12 (.scaled 0) 2 l) (.sized 2) = .error 0x0A ∧
      ∃ th : Thread, mw.threads[l]? = some th ∧ th.tx.active = false) ∧
    (∀ l ∈ act ms iss g0, lea_ ms iss 14 (.scaled 0) 2 l % 2 ≠ 0) ∧ mw.flips = [] :=
  ⟨⟨plain_ms, canTrap_of rfl (by decide) (by decide) (by decide +kernel)⟩,
    fun l hl => by
      have h : l = 0 := by simpa using (show l ∈ [0] from hl)
      subst h
      exact ⟨error_of (by decide +kernel), _, rfl, rfl⟩,
    fun l hl => by
      have h : l = 0 := by simpa using (show l ∈ [0] from hl)
      subst h
      exact ⟨error_of (by decide +kernel), _, rfl, rfl⟩, by decide +kernel, rfl⟩

/-- A descriptor of 2 rows of 16 bytes at the end of the window, 4-byte elements. -/
def desc0 : Word64 := 0x0000_2000_0010_FFD0

def tw (t : Tile) (rs : List (Nat × Word)) : Workgroup := { wgrp with tiles := t :: List.replicate 7 .free, waves := [wave rs] }
def ts (t : Tile) (rs : List (Nat × Word)) : State := { base with wgs := [tw t rs] }
def tile0 (st : TileState) : Tile := ⟨st, desc0, 32, 32, 0, (0, 0, 0), none, false, 0, 0⟩

theorem plain_ts (t : Tile) (rs : List (Nat × Word)) : Plain (ts t rs) iss (tw t rs) := ⟨rfl, rfl, rfl, rfl, by decide⟩
theorem canTrap_ts (t : Tile) (rs : List (Nat × Word)) : CanTrap (ts t rs) iss (tw t rs) (vector (ts t rs) (tw t rs)) [0] :=
  canTrap_of rfl (by decide) (by show (0x2000 : Nat) ≠ 0; decide) rfl

/-- The greatest sound base; a base past it; a FREE, a READY and a DRAINING tile; a tile there is not. -/
theorem witness_TileDefinition :
    let rs : List (Nat × Word) := [(4, 0x0010_FFD0), (5, 0x2000)]
    let w := tw .free rs
    let sl := w.slabs.zipIdx
    (Plain (ts .free rs) iss w ∧ act (ts .free rs) iss g0 = [0]) ∧
    ((∃ x : Tile, w.tiles[0]? = some x ∧ x.st = .free) ∧ 0x0000_2000_0010_FFD0 < 2^48 ∧ 0xFFD0 % 16 = 0 ∧ 16 % 4 = 0 ∧ 0xFFD0 + 32 + 4 ≤ w.lsbytes ∧
      ∀ y ∈ sl, y.1.anvil = false) ∧ w.window.wf = true ∧ ¬ (0xFFE0 + 32 + 4 ≤ w.lsbytes) ∧
    (∃ x : Tile, (tw (tile0 .ready) rs).tiles[0]? = some x ∧ (x.st ≠ .free ∧ x.bound = false ∧ x.view = none) ∧ x.st ≠ .filling ∧
      x.st ≠ .draining ∧ x.readers = 0) ∧
    (∃ x : Tile, (tw (tile0 .draining) rs).tiles[0]? = some x ∧ (x.st ≠ .free ∧ x.bound = false ∧ x.view = none) ∧ x.st = .draining) ∧
    w.tiles[8]? = none ∧ CanTrap (ts .free rs) iss w (vector (ts .free rs) w) [0] :=
  ⟨⟨plain_ts _ _, by decide +kernel⟩, ⟨⟨_, rfl, rfl⟩, by decide, by decide, by decide, by decide, by decide⟩, by decide +kernel, by decide,
    ⟨_, rfl, by decide, by decide, by decide, rfl⟩, ⟨_, rfl, by decide, rfl⟩, rfl, canTrap_ts _ _⟩

theorem witness_TileAndLserrQueries :
    Plain (ts (tile0 .ready) []) iss (tw (tile0 .ready) []) ∧ act (ts (tile0 .ready) []) iss g0 ≠ [] ∧
    (∃ x : Tile, (tw (tile0 .ready) []).tiles[0]? = some x ∧ x.view = none ∧ x.st ≠ .free) ∧ (∃ x : Tile, (tw .free []).tiles[0]? = some x ∧ x.st = .free) ∧
    (tw .free []).tiles[63]? = none ∧ CanTrap (ts .free []) iss (tw .free []) (vector (ts .free []) (tw .free [])) [0] :=
  ⟨plain_ts _ _, by decide +kernel, ⟨_, rfl, rfl, by decide⟩, ⟨_, rfl, rfl⟩, rfl, canTrap_ts _ _⟩

/-- The access of a lane goes on. -/
def elemGoes (x : ElemFate) : Bool := match x with
  | .go .. => true
  | _ => false

/-- The last element of the last row, with slot 0 naming FP32 and the raw forms; LDTR at column 3 of row 1; tiles in the other states. -/
theorem witness_TileElementLoads :
    let rs := [(4, (1 : Word)), (5, 3)]
    let w := tw (tile0 .ready) rs
    let s := ts (tile0 .ready) rs
    let f := { s with launches := [{ probeLaunch with lr := { probeRecord with fmt := [0x01] } }] }
    let row := fun l => (reg s iss 4 l).toNat
    let col := fun l => (reg s iss 5 l).toNat
    (Plain s iss w ∧ w.poison = [] ∧ w.flips = [] ∧ w.ctx < s.contexts.length ∧ act s iss g0 ≠ [] ∧
      ∀ l ∈ act s iss g0, ∃ th : Thread, w.threads[l]? = some th ∧ th.ctr.l < 63) ∧
    InTile w 0 (tile0 .ready) [0] row col ∧ InTile w 0 (tile0 .ready) [0] (fun l => row l + l % 32) col ∧
    (elemGoes ((st0 s).tileLane w 0 0 8 (row 0) (col 0) .read false (slotOf s iss 0)) = true ∧
      elemGoes ((st0 s).elemFate w 0 0 .read (fun y => decide (row 0 < descRows y.desc) && decide (col 0 < descPitch y.desc / descSize y.desc) &&
        col 0 * descSize y.desc % 4 == 0) (row 0) (fun y => col 0 * descSize y.desc) (fun _ => 4) (fun _ => [])) = true) ∧
    (tileElemOk 4 (slotElem (slotOf f iss 0)) = true ∧ slotRoundOk (slotOf f iss 0) = true ∧ slotResOk (slotOf f iss 0) = true) ∧
    ((tw (tile0 .empty) rs).tiles[0]? = some (tile0 .empty) ∧ (tile0 .empty).st ≠ .free ∧ (tile0 .empty).st ≠ .ready) ∧
    ((tw .free rs).tiles[0]? = some .free ∧ CanTrap (ts .free rs) iss (tw .free rs) (vector (ts .free rs) (tw .free rs)) [0]) :=
  ⟨⟨plain_ts _ _, rfl, rfl, by decide, by decide +kernel, all_ex (by decide +kernel)⟩, ⟨rfl, rfl, rfl, by decide +kernel⟩,
    ⟨rfl, rfl, rfl, by decide +kernel⟩, by decide +kernel, by decide +kernel, ⟨rfl, by decide, by decide⟩, rfl, canTrap_ts _ _⟩

/-- As the loads, with an overflow counter at its end. -/
theorem witness_TileElementStores :
    let rs := [(4, (1 : Word)), (5, 3)]
    let t := { tile0 .ready with ovf := 0xFFFF }
    let w := tw t rs
    let s := ts t rs
    let f := { s with launches := [{ probeLaunch with lr := { probeRecord with fmt := [0x01] } }] }
    (Plain s iss w ∧ InTile w 0 t [0] (fun l => (reg s iss 4 l).toNat) (fun l => (reg s iss 5 l).toNat) ∧
      ∀ l ∈ act s iss g0, ∃ th : Thread, w.threads[l]? = some th ∧ th.ctr.s < 63 ∧ th.sq.length < 8) ∧
    elemGoes ((st0 s).tileLane w 0 0 8 1 3 .write false (slotOf s iss 0)) = true ∧
    tileElemOk 4 (slotElem (slotOf f iss 0)) = true ∧ slotRoundOk (slotOf f iss 0) = true ∧ slotResOk (slotOf f iss 0) = true ∧ t.ovf ≤ 0xFFFF :=
  ⟨⟨plain_ts _ _, ⟨rfl, rfl, rfl, by decide +kernel⟩, all_ex (by decide +kernel)⟩, by decide +kernel, by decide +kernel, by decide +kernel, by decide +kernel, by decide⟩

/-! Witnesses: atomics, ordering, barriers, transactions, exits and views. -/

theorem witness_AtomicsIssue : Plain ms iss mw ∧ ∀ l ∈ act ms iss g0,
    (st0 ms).atomLane mw (reg ms iss 5 l ++ reg ms iss 4 l : Word64) 0x20 = .ok ⟨0x4100, 0x1F, 2^30⟩ ∧
      ∃ th : Thread, mw.threads[l]? = some th ∧ th.ctr.l < 63 ∧ th.ctr.a < 63 :=
  ⟨plain_ms, only0 (by decide +kernel) ⟨ok_of (by decide +kernel), _, rfl, by decide, by decide⟩⟩

/-- An atomic on the uncached page, and one at the home slice of the cached page. -/
theorem witness_AtomicsPerform :
    let h := fun (a : AtomOp) (s : State) => s.atoms.find? s.atomReady = some a ∧ s.wg? a.wg = some wgrp ∧ wgrp.redun = none ∧
      (3 ≤ a.fields.toNat / 256 % 8 ∨ a.ca = false) ∧ a.mi = false ∧ s.remote a.pa = false ∧ isIo a.pa = false ∧ s.poisoned a.pa 8 = false ∧
      s.routed (dieOf wgrp.core) (homeDie a.pa) = true ∧ s.l1Find wgrp.core (sectorOf a.pa) = none ∧ s.mem.wf = true ∧ s.underway wgrp.core = [] ∧
      s.cwords = []
    h (atomOn 0x4100 0 false (some 8)) { base with atoms := [atomOn 0x4100 0 false (some 8)] } ∧
    h (atomOn 0x4100 0x320 true none) { base with atoms := [atomOn 0x4100 0x320 true none] } ∧ thr.fell = [] ∧ thr.born ≤ 5 :=
  ⟨⟨rfl, rfl, rfl, .inr rfl, rfl, by decide, by decide, by decide +kernel, by decide +kernel, rfl, by decide +kernel, by decide +kernel, rfl⟩,
    ⟨rfl, rfl, rfl, .inl (by decide), rfl, by decide, by decide, by decide +kernel, by decide +kernel, rfl, by decide +kernel, by decide +kernel, rfl⟩, rfl, by decide⟩

/-- An empty set; threads with nothing outstanding; a store in the queue; an atomic in flight. -/
theorem witness_FenceOrders :
    let q := bt fun th => { th with sq := [⟨200, 5, .window []⟩] }
    let a := { base with atoms := [atomOn 0x4100 0 false none] }
    (base.cur = some iss ∧ act base iss g0 ≠ [] ∧ ∀ l ∈ act base iss g0, Quiet base iss.wg l) ∧
    ((0x0102 % 256 ≠ 0 ∧ 0x0102 / 256 % 256 ≠ 0) ∧ Nat.testBit 0x02 1 = true ∧ ∃ th, q.thread? iss.wg 0 = some th ∧ th.sq ≠ []) ∧
    (Nat.testBit 0x40 6 = true ∧ ∃ x ∈ a.atoms, x.wg = iss.wg ∧ x.tidx = 0 ∧ x.result = none) :=
  ⟨⟨rfl, by decide +kernel, only0 (by decide +kernel) (quiet_of (by decide +kernel) rfl rfl rfl rfl rfl rfl rfl)⟩,
    ⟨by decide, by decide, _, rfl, by decide⟩, by decide, by decide⟩

/-- The word of memory is 0: equal to register 0, below register 14. -/
theorem witness_WaitOnAWord :
    (Plain ms iss mw ∧ ms.l1 = [] ∧ ∀ l ∈ act ms iss g0, (st0 ms).access mw .read (gea ms iss 4 (.scaled 0) 4 l) (.sized 4) = .ok ⟨0x4100, 0x1F, 2^30⟩ ∧
      isIo 0x4100 = false ∧ (∃ th : Thread, mw.threads[l]? = some th ∧ th.sq = []) ∧ (∀ a ∈ ms.atoms, ¬ (a.wg = iss.wg ∧ a.tidx = l)) ∧
      ms.ownedBy (dieOf mw.core) 0x4100 4 none = false ∧ ms.sentTo mw.core 0x4100 4 = false ∧
      (st0 ms).readPoisoned mw.core 0x4100 4 false = false) ∧
    (BitVec.ofNat 32 (ms.mem.readNat 0x4100 4) : Word) = reg ms iss 0 0 ∧ (BitVec.ofNat 32 (ms.mem.readNat 0x4100 4) : Word) ≠ reg ms iss 14 0 :=
  ⟨⟨plain_ms, rfl, only0 (by decide +kernel) ⟨ok_of (by decide +kernel), by decide, ⟨_, rfl, rfl⟩, by decide, by decide +kernel, by decide +kernel, by decide +kernel⟩⟩,
    by decide +kernel, by decide +kernel⟩

theorem witness_WaitvRereadReleases :
    let th : Thread := { thr with st := .blocked (.waitv 0 0x4100 0 false) }
    let w := { wgrp with threads := [th] }
    let s := { base with wgs := [w] }
    w.redun = none ∧ s.wgs = [w] ∧ w.threads[0]? = some th ∧ (∀ j (y : Thread), j < 0 → w.threads[j]? = some y → s.rereadFate w j y = none) ∧
    s.rereadFate w 0 th = some (0x4100, .met 0) :=
  ⟨rfl, rfl, rfl, fun j y h => absurd h (Nat.not_lt_zero j), by decide +kernel⟩

/-- Two threads of which one arrives: first at a free barrier, then as the last; and counts at both ends and past them. -/
theorem witness_WorkgroupBarriers :
    let bar := fun (b : Barrier) => { wgrp with barriers := b :: List.replicate 15 ⟨0, 0, 0⟩, threads := [thr, { thr with st := .blocked (.bar 0 255) }] }
    let s := fun (b : Barrier) => { base with wgs := [bar b] }
    let h := fun (b : Barrier) => Plain (s b) iss (bar b) ∧ act (s b) iss g0 = [0] ∧ (bar b).threads[0]? = some thr ∧ thr.sq = [] ∧
      (s b).atoms = [] ∧ (bar b).barriers[(0 : BitVec 4).toNat]? = some b ∧ thr.st = .live
    h ⟨0, 0, 0⟩ ∧ h ⟨2, 1, 255⟩ ∧
    (0 + 1 < 2 - (((bar ⟨0, 0, 0⟩).threads.filter fun t => !t.unexited).length)) ∧
    ((2 : Nat) ≠ 0 ∧ 2 - (((bar ⟨2, 1, 255⟩).threads.filter fun t => !t.unexited).length) ≤ 1 + 1) ∧
    ((val (s ⟨0, 0, 0⟩) iss (.imm 1) 0).toNat = 1 ∧ (val (s ⟨0, 0, 0⟩) iss (.imm 2) 0).toNat = (bar ⟨0, 0, 0⟩).threads.length ∧
      (val (s ⟨0, 0, 0⟩) iss (.imm 3) 0).toNat = (bar ⟨0, 0, 0⟩).threads.length + 1 ∧ (val (s ⟨0, 0, 0⟩) iss (.imm 0) 0).toNat = 0) ∧
    ((val (s ⟨2, 1, 255⟩) iss (.imm 0x1FF) 0).toNat % 256 = 255 ∧ (val (s ⟨2, 1, 255⟩) iss (.imm 256) 0).toNat % 256 ≠ 255) ∧
    CanTrap (s ⟨0, 0, 0⟩) iss (bar ⟨0, 0, 0⟩) (vector (s ⟨0, 0, 0⟩) (bar ⟨0, 0, 0⟩)) [0] :=
  ⟨⟨⟨rfl, rfl, rfl, rfl, by decide⟩, by decide +kernel, rfl, rfl, rfl, rfl, rfl⟩, ⟨⟨rfl, rfl, rfl, rfl, by decide⟩, by decide +kernel, rfl, rfl, rfl, rfl, rfl⟩,
    by decide +kernel, by decide +kernel, by decide +kernel, by decide +kernel, canTrap_of rfl (by decide) (by decide) (by decide +kernel)⟩

theorem witness_GridArrivalAndBarrierRelease :
    let s := bl fun x => { x with flags := 1 }
    let w := { wgrp with threads := [{ thr with st := .blocked (.bar 0 0), wake := some 100 }] }
    let b := { base with wgs := [w] }
    (s.cur = some iss ∧ s.wg? iss.wg = some wgrp ∧ (s.lrOf wgrp).coop = true ∧ (∀ l ∈ act s iss g0, Quiet s iss.wg l) ∧ act s iss g0 ≠ []) ∧
    ((base.lrOf wgrp).coop = false ∧ CanTrap base iss wgrp (vector base wgrp) (act base iss g0)) ∧
    b.wgs.find? (fun w => b.wgRuns w && w.threads.any (barrierDue b)) = some w :=
  ⟨⟨rfl, rfl, by decide +kernel, only0 (by decide +kernel) (quiet_of (by decide +kernel) rfl rfl rfl rfl rfl rfl rfl), by decide +kernel⟩,
    ⟨by decide +kernel, canTrap_of rfl (by decide) (by decide) (by decide +kernel)⟩, rfl⟩

/-- A transaction with a read set of one sector, which memory still holds or holds no longer; with 7 and with 8 aborts. -/
theorem witness_Transactions :
    let tx := fun (b : Byte) (n : Nat) => { Tx.none with active := true, aborts := n, reads := [(0x82, List.replicate 128 b)] }
    let th := fun (b : Byte) (n : Nat) => { thr with tx := tx b n }
    let w := fun (t : Thread) => { wgrp with threads := [t] }
    let s := fun (t : Thread) => { base with wgs := [w t] }
    let h := fun (t : Thread) => Plain (s t) iss (w t) ∧ act (s t) iss g0 = [0] ∧ (w t).threads[0]? = some t ∧ (s t).l1 = [] ∧ (s t).owned = []
    (h { thr with tx := { Tx.none with aborts := 7 } } ∧ thr.sq = [] ∧ 7 < 8) ∧ (h { thr with tx := { Tx.none with aborts := 8 } } ∧ 8 ≤ 8) ∧
    (h (th 0 15) ∧ (tx 0 15).msecs = [] ∧ ∀ r ∈ (tx 0 15).reads, (s (th 0 15)).pkgRead (128 * r.1) r.2.length = r.2) ∧
    (h (th 1 0) ∧ ¬ ∀ r ∈ (tx 1 0).reads, (s (th 1 0)).pkgRead (128 * r.1) r.2.length = r.2) ∧
    (h thr ∧ thr.tx.active = false ∧ CanTrap (s thr) iss (w thr) (vector (s thr) (w thr)) [0]) :=
  ⟨⟨⟨⟨rfl, rfl, rfl, rfl, by decide⟩, by decide +kernel, rfl, rfl, rfl⟩, rfl, by decide⟩,
    ⟨⟨⟨rfl, rfl, rfl, rfl, by decide⟩, by decide +kernel, rfl, rfl, rfl⟩, by decide⟩,
    ⟨⟨⟨rfl, rfl, rfl, rfl, by decide⟩, by decide +kernel, rfl, rfl, rfl⟩, rfl, by decide +kernel⟩,
    ⟨⟨⟨rfl, rfl, rfl, rfl, by decide⟩, by decide +kernel, rfl, rfl, rfl⟩, by decide +kernel⟩,
    ⟨⟨rfl, rfl, rfl, rfl, by decide⟩, by decide +kernel, rfl, rfl, rfl⟩, rfl, canTrap_of rfl (by decide) (by decide) (by decide +kernel)⟩

theorem witness_TokenGrantOpensTheTransaction :
    let x : Launch := { probeLaunch with tokenQueue := [(2, 0)] }
    let th : Thread := { thr with st := .blocked .token }
    let w := { wgrp with threads := [th] }
    let s := { base with launches := [x], wgs := [w] }
    s.launches = [x] ∧ x.tokenHolder = none ∧ x.tokenQueue = (2, 0) :: [] ∧ s.wg? 2 = some w ∧ s.wgRuns w = true ∧
    w.threads[0]? = some th ∧ th.st = .blocked .token := ⟨rfl, rfl, rfl, rfl, by decide +kernel, rfl, rfl⟩

theorem witness_ExitEndsThreads :
    let th : Thread := { thr with tx := { Tx.none with active := true, aborts := 15 } }
    let w := { wgrp with threads := [th] }
    let s := { base with wgs := [w] }
    (Plain base iss wgrp ∧ ViewsSound base wgrp ∧ wgrp.views = [] ∧ ∀ l ∈ act base iss g0, ∃ th : Thread, wgrp.threads[l]? = some th ∧ th.tx.active = false) ∧
    Plain s iss w ∧ act s iss g0 = [0] ∧ w.threads[0]? = some th ∧ th.tx.active = true ∧ CanTrap s iss w (vector s w) (act s iss g0) :=
  ⟨⟨⟨rfl, rfl, rfl, rfl, by decide⟩, ⟨by decide +kernel, rfl, rfl, fun p h => by cases h⟩, rfl, all_ex (by decide +kernel)⟩, ⟨rfl, rfl, rfl, rfl, by decide⟩,
    by decide +kernel, rfl, rfl, canTrap_of rfl (by decide) (by decide) (by decide +kernel)⟩

/-- A thread that runs a task and owns one view, which is a child or a root with a count of its open family. -/
def task0 : TaskEntry := ⟨[0x1000, 0, 0, 0, 0, 0, 0], 1, 0, false⟩
def view0 (e : Nat) (root : Bool) (n : Nat) : View :=
  ⟨e, 0, e, root, 0, desc0, if root then .tile 0 else .local_ 0 [], .live, none, 0, n, false, 0⟩
def vthr (es : List Nat) : Thread := { thr with task := some task0, vs := (List.range 8).map fun i => if i ∈ es then some i else none }
def vw (vs : List View) : Workgroup :=
  { wgrp with threads := [vthr (vs.map View.entry)], views := vs, tiles := { tile0 .ready with bound := vs.any View.root } :: List.replicate 7 .free }
def vst (vs : List View) : State := { base with wgs := [vw vs] }

theorem taskThread_vst (vs : List View) : TaskThread (vst vs) iss (vw vs) g0 0 (vthr (vs.map View.entry)) :=
  ⟨⟨rfl, rfl, rfl, rfl, by decide⟩, rfl, rfl, rfl⟩

/-- One place left in the view table; a bound slot naming a child view; an entry that is made as its result lands. -/
theorem witness_ViewDeclaration :
    let vs := [view0 0 false 0, view0 1 false 0, view0 2 false 0]
    let th := vthr (vs.map View.entry)
    (TaskThread (vst vs) iss (vw vs) g0 0 th ∧ th.ctr.v < 63 ∧ NoMakes (vst vs)) ∧
    ((vw vs).tiles[0]? = some (tile0 .ready) ∧ (tile0 .ready).bound = false ∧ 2^(desc0.toNat / 2^44 % 4) = 4 ∧ th.vs.getD 7 none = none ∧
      (vw vs).views.length < (vw vs).nviews ∧ (vw vs).views.length + 1 = (vw vs).nviews) ∧
    (vw vs).tiles[1]? = some .free ∧ th.vs.getD 2 none = some 2 ∧ (vw vs).views.find? (·.entry == 2) = some (view0 2 false 0) ∧
    ∀ m ∈ [Make.root 0 0 7 desc0, .bind 1 2], let p := { mtsLands with sys := [], ctr := some .v, makes := [(0, m)] }
      let s := { vst vs with pend := [p] }
      s.nextLanding false = some p ∧ s.wg? p.wg = some (vw vs) ∧ (vw vs).threads[0]? = some th ∧ (vw vs).views.length < 128 ∧ 1 < (vw vs).tiles.length :=
  ⟨⟨taskThread_vst _, by decide, fun p h => by cases h⟩, ⟨rfl, rfl, by decide, rfl, by decide, by decide⟩, rfl, rfl, rfl, fun m h => by
    simp only [List.mem_cons, List.not_mem_nil, or_false] at h
    obtain h | h := h <;> subst h <;> exact ⟨rfl, rfl, rfl, by decide, by decide⟩⟩

theorem witness_ViewQueriesAndTasklessThreads :
    (TaskThread (vst [view0 0 true 0]) iss (vw [view0 0 true 0]) g0 0 (vthr [0]) ∧ (vthr [0]).ctr.v < 63) ∧
    Plain base iss wgrp ∧ (∀ l ∈ act base iss g0, ∃ th : Thread, wgrp.threads[l]? = some th ∧ th.task = none) ∧
    CanTrap base iss wgrp (vector base wgrp) (act base iss g0) :=
  ⟨⟨taskThread_vst _, by decide⟩, ⟨rfl, rfl, rfl, rfl, by decide⟩, all_ex (by decide +kernel), canTrap_of rfl (by decide) (by decide) (by decide +kernel)⟩

/-- Queue 1 on and in the launch's mask; a mask of no view and of one; a spill area with room for a record and a page, and with none. -/
def sp (vs : List View) (size : Nat) (mask : Word) : State :=
  { vst vs with
    wgs := [{ vw vs with waves := [wave [(11, mask)]] }]
    launches := [{ probeLaunch with lr := { probeRecord with qmask := 2 } }]
    contexts := [{ ctxt with tqs := [.off, { TaskQueue.off with enabled := true }], desc := { ctxt.desc with vspill := 0x5000, vspillsz := size } }] }

theorem witness_SpawnOffersAChild :
    let vs := [view0 0 true 0]
    let w := fun (m : Word) => { vw vs with waves := [wave [(11, m)]] }
    let views := fun (s : State) (m : Word) => ((List.range 8).filter fun i => (reg s iss 11 0).getLsbD i).map fun i =>
      ((vthr [0]).vs.getD i none).bind fun n => (w m).views.find? (·.entry == n)
    let h := fun (s : State) (m : Word) => TaskThread s iss (w m) g0 0 (vthr [0]) ∧ Quiet s iss.wg 0 ∧ (vthr [0]).ctr.v < 63 ∧ s.l1 = [] ∧
      (w m).ctx < s.contexts.length ∧ (s.tqEnabled (w m).ctx 1 && (s.lrOf (w m)).qmask.getLsbD 1) = true
    (h (sp vs 0 0) 0 ∧ (List.range 8).filter (fun i => (reg (sp vs 0 0) iss 11 0).getLsbD i) = []) ∧
    (h (sp vs 0x1FFF 1) 1 ∧ views (sp vs 0x1FFF 1) 1 = [some (view0 0 true 0)] ∧
      ((sp vs 0x1FFF 1).ctx 0).newRecord = 1 ∧ ((sp vs 0x1FFF 1).ctx 0).reserve 1 [64, 4096] = none) ∧
    (h (sp vs 0x2000 1) 1 ∧ ((sp vs 0x2000 1).ctx 0).newRecord = 1 ∧ ∃ k, ((sp vs 0x2000 1).ctx 0).reserve 1 [64, 4096] = some k ∧
      (st0 (sp vs 0x2000 1)).devTranslate (w 1).ctx .write (k.desc.vspill + k.recordOff 1) = .ok ⟨0x5000, 0x1F, 2^30⟩) ∧
    ((vst vs).ctx 0).reserve 1 [64] = none ∧ ((vst vs).tqEnabled 0 1 && ((vst vs).lrOf (vw vs)).qmask.getLsbD 1) = false ∧ CanTrap (vst vs) iss (vw vs) (vector (vst vs) (vw vs)) [0] :=
  ⟨⟨⟨⟨⟨rfl, rfl, rfl, rfl, by decide⟩, rfl, rfl, rfl⟩, quiet_of (by decide +kernel) rfl rfl rfl rfl rfl rfl rfl, by decide, rfl, by decide, by decide +kernel⟩,
      by decide +kernel⟩,
    ⟨⟨⟨⟨rfl, rfl, rfl, rfl, by decide⟩, rfl, rfl, rfl⟩, quiet_of (by decide +kernel) rfl rfl rfl rfl rfl rfl rfl, by decide, rfl, by decide, by decide +kernel⟩,
      by decide +kernel, by decide +kernel, by decide +kernel⟩,
    ⟨⟨⟨⟨rfl, rfl, rfl, rfl, by decide⟩, rfl, rfl, rfl⟩, quiet_of (by decide +kernel) rfl rfl rfl rfl rfl rfl rfl, by decide, rfl, by decide, by decide +kernel⟩,
      by decide +kernel, _, rfl, ok_of (by decide +kernel)⟩,
    by decide +kernel, by decide +kernel, canTrap_of rfl (by decide) (by decide) (by decide +kernel)⟩

/-- A root view, with a child that has not merged and with none. -/
theorem witness_SolderAndVsync :
    let h := fun (n : Nat) => let vs := [view0 0 true n]
      TaskThread (vst vs) iss (vw vs) g0 0 (vthr [0]) ∧ Quiet (vst vs) iss.wg 0 ∧ (vst vs).puts = [] ∧ (vst vs).l1 = [] ∧ ViewsSound (vst vs) (vw vs) ∧
        (∀ x ∈ (vw vs).viewTiles 0, x.st ≠ .filling ∧ x.st ≠ .draining) ∧ (vw vs).viewsOf 0 = vs
    h 1 ∧ h 0 :=
  ⟨⟨taskThread_vst _, quiet_of (by decide +kernel) rfl rfl rfl rfl rfl rfl rfl, rfl, rfl, ⟨by decide +kernel, rfl, rfl, fun p h => by cases h⟩, by decide +kernel, by decide +kernel⟩,
    taskThread_vst _, quiet_of (by decide +kernel) rfl rfl rfl rfl rfl rfl rfl, rfl, rfl, ⟨by decide +kernel, rfl, rfl, fun p h => by cases h⟩, by decide +kernel, by decide +kernel⟩

/-- A plain tile of 2 rows of 16 bytes, and a swizzled one of 1 row of 128. -/
theorem witness_MergeCombinesElements :
    let d : Word64 := 0x0000_6007_0000_0000
    (9 ≤ 9 ∧ (List.replicate 36 (0 : Byte)).length = descBytes desc0 + 4 ∧ descSwz desc0 = 0) ∧ (descPitch desc0 / 4 = 4 ∧ descRows desc0 = 2) ∧
    descSwz d = 1 ∧ descPitch d = 128 ∧ descRows d = 1 ∧ (List.replicate 132 (0 : Byte)).length = descBytes d + 4 := by
  decide +kernel

/-- A child's merge into another blank and into its root's tile, ready to run and ready to commit. -/
theorem witness_MergesRunAndCommit :
    let a := { view0 0 false 0 with index := 1, st := .soldering }
    let b := { view0 1 false 0 with st := .soldering }
    let w := { vw [a, b] with threads := [{ vthr [0] with st := .blocked .solder }] }
    let m : MergeJob := ⟨7, (2, 0), (2, 0), (2, 1), none, none, 0⟩
    let k : MergeJob := { m with shadow := some (List.replicate 36 0), due := 100 }
    let s := { base with wgs := [w], merges := [m] }
    let t := { base with wgs := [w], merges := [k] }
    let c := view0 1 true 0
    let v := { vw [a, c] with threads := [{ vthr [0] with st := .blocked .solder }] }
    let s1 := { base with wgs := [v], merges := [m] }
    let t1 := { base with wgs := [v], merges := [k] }
    (v.view? m.src.2 = some a ∧ v.view? m.tgt.2 = some c ∧ c.root = true ∧ c.store = .tile 0 ∧ v.poison = [] ∧ v.window.wf = true ∧
      s1.mergeStarts m = true ∧ (mergeBytes c.op c.desc ((List.range 36).map fun i => v.winByte (descBase c.desc + i)) (Mem.read [] 0 36)).2 = false ∧
      t1.l1 = [] ∧ t1.mergeCommits k = true ∧ k.shadow = some (List.replicate 36 0)) ∧
    (s.wg? m.carrier.1 = some w ∧ w.view? m.src.2 = some a ∧ w.view? m.tgt.2 = some b ∧ b.root = false ∧ b.store = .local_ 0 []) ∧
    (s.mergeStarts m = true ∧ a.store = .local_ 0 [] ∧ roundUp (descBytes b.desc + 4) 4096 ≤ s.lsFree w.core ∧
      (mergeBytes b.op b.desc (Mem.read [] 0 36) (Mem.read [] 0 36)).2 = false) ∧
    (t.l1 = [] ∧ t.mergeCommits k = true ∧ a.index ≠ 0 ∧ b.st ≠ .live ∧ (w.views.map View.entry).Nodup ∧ m.src ≠ m.tgt) :=
  ⟨⟨rfl, rfl, rfl, rfl, rfl, by decide +kernel, by decide +kernel, by decide +kernel, rfl, by decide +kernel, rfl⟩,
    ⟨rfl, rfl, rfl, rfl, rfl⟩, ⟨by decide +kernel, rfl, by decide +kernel, by decide +kernel⟩, rfl, by decide +kernel, by decide, by decide,
    by decide +kernel, by decide⟩

/-! Witnesses: task queues and tasks. -/

/-- Context 0 with one queue that is on, number 63 or 0. -/
def tqOn : TaskQueue := { TaskQueue.off with enabled := true, ondie := 2 }
def q63 : State := bc fun x => { x with tqs := List.replicate 63 .off ++ [tqOn] }
def q0 (q : TaskQueue) (w : Workgroup) : State := { bc (fun x => { x with tqs := [q] }) with wgs := [w] }

theorem witness_TaskPutsAreOffered :
    let th : Thread := { thr with ctr := { thr.ctr with v := 62 } }
    let w := fun (b : Word) => { wgrp with threads := [th], waves := [wave [(11, b)]] }
    let s := fun (b : Word) => { q63 with wgs := [w b] }
    let h := fun (b : Word) => Plain (s b) iss (w b) ∧ act (s b) iss g0 = [0] ∧ (w b).threads[0]? = some th ∧ Quiet (s b) iss.wg 0 ∧ th.ctr.v < 63 ∧
      (s b).l1 = [] ∧ (s b).tqEnabled (w b).ctx 63 = true
    (h 0 ∧ (reg (s 0) iss 11 0).toNat = 0) ∧ (h 0xFFFFFFFF ∧ (reg (s 0xFFFFFFFF) iss 11 0).toNat ≠ 0) ∧ base.tqEnabled 0 63 = false ∧
    CanTrap base iss wgrp (vector base wgrp) [0] :=
  ⟨⟨⟨⟨rfl, rfl, rfl, rfl, by decide⟩, by decide +kernel, rfl, quiet_of (by decide +kernel) rfl rfl rfl rfl rfl rfl rfl, by decide, rfl, by decide +kernel⟩,
      by decide +kernel⟩,
    ⟨⟨⟨rfl, rfl, rfl, rfl, by decide⟩, by decide +kernel, rfl, quiet_of (by decide +kernel) rfl rfl rfl rfl rfl rfl rfl, by decide, rfl, by decide +kernel⟩,
      by decide +kernel⟩, by decide +kernel, canTrap_of rfl (by decide) (by decide) (by decide +kernel)⟩

/-- A thread with a task of queue 0, which has no scoreboard, or one on the uncached page. -/
theorem witness_TaskStateInstructions :
    let e : TaskEntry := ⟨[0x1000, 0x03FF03FF, 0, 0, 0, 0, 0], 0, 0, false⟩
    let th : Thread := { thr with task := some e }
    let w := { wgrp with threads := [th] }
    let s := fun (sb : Nat) => q0 { tqOn with sbaddr := sb } w
    let x : SqEntry := ⟨100, 9, .retire 0 0x24FFF false 7⟩
    let r := q0 { tqOn with sbaddr := 0x5000 } { wgrp with threads := [{ th with sq := [x] }] }
    let h := fun (sb : Nat) => Plain (s sb) iss w ∧ act (s sb) iss g0 = [0] ∧ w.threads[0]? = some th ∧ th.task = some e ∧
      tqOf (s sb) w.ctx e.queue = some { tqOn with sbaddr := sb } ∧ th.sq.length < 8 ∧ (e.words.getD 1 0).getLsbD 31 = false
    h 0 ∧ (h 0x5000 ∧ (st0 (s 0x5000)).access w .atomic (BitVec.ofNat 64 (0x5000 + (1023 * 1024 + 1023) / 8)) .any = .ok ⟨0x24FFF, 0x1F, 2^30⟩ ∧
      (Leaf.mk 0x24FFF 0x1F (2^30)).m = false) ∧
    (r.nextStore = some ({ wgrp with threads := [{ th with sq := [x] }] }, 0, x) ∧ r.l1 = [] ∧ r.poisoned 0x24FFF 1 = false ∧ r.mem.wf = true ∧
      0 < r.contexts.length) ∧
    (thr.task = none ∧ thr.ctr.v < 63) ∧ ((s 0).tqEnabled 0 0 = true ∧ (s 0).tqEnabled 0 63 = false) ∧
    CanTrap base iss wgrp (vector base wgrp) [0] :=
  ⟨⟨⟨rfl, rfl, rfl, rfl, by decide⟩, by decide +kernel, rfl, rfl, rfl, by decide, by decide⟩,
    ⟨⟨⟨rfl, rfl, rfl, rfl, by decide⟩, by decide +kernel, rfl, rfl, rfl, by decide, by decide⟩, ok_of (by decide +kernel), by decide⟩,
    ⟨by decide +kernel, rfl, by decide +kernel, by decide +kernel, by decide⟩,
    ⟨rfl, by decide⟩, by decide +kernel, canTrap_of rfl (by decide) (by decide) (by decide +kernel)⟩

/-- A put that has arrived, at a queue with room, a full one, and rings with one place left and not mapped, and with no bound or one that
has ended. -/
def put0 (till : Option Nat) : Put := ⟨7, 7, 0, 0, task0, 2, 0, 1, 100, till, [], false, false⟩

theorem witness_PutsArePlacedOrRefused :
    let w := { wgrp with threads := [{ thr with st := .blocked (.qputw 7) }] }
    let s := fun (q : TaskQueue) => { q0 q wgrp with puts := [put0 none] }
    let t := { q0 tqOn w with puts := [put0 (some 100)] }
    let full := { tqOn with ring := 0x5000, ondie := 0, rtail := 16 }
    let h := fun (q : TaskQueue) => (s q).puts.find? (s q).putReady = some (put0 none) ∧ (put0 none).host = false ∧ (put0 none).isSpawn = false ∧
      (put0 none).till = none ∧ tqOf (s q) 0 0 = some q ∧ ((s q).ctx 0).state = .running ∧ (s q).putLost (put0 none) = false
    let ring := { full with rtail := 15 }
    let off := { ring with ring := 7 * 2^30 }
    (h ring ∧ ring.rhead ≠ ring.rtail ∧ (ring.rtail - ring.rhead).toNat < 2^ring.size ∧ ring.err = 0 ∧ ring.ring % 32 = 0 ∧
      (put0 none).entry.words.length = 7 ∧ (s ring).translate none 0 ((s ring).devWorld 0) .write (0x5000 + 32 * 15) = .ok ⟨0x51E0, 0x1F, 2^30⟩) ∧
    (h off ∧ (s off).translate none 0 ((s off).devWorld 0) .write (7 * 2^30 + 32 * 15) = .error 4) ∧
    (h tqOn ∧ tqOn.rhead = tqOn.rtail ∧ (s tqOn).dieRoom tqOn = true) ∧
    (let q := { tqOn with home := 48 }
     let p := { put0 none with host := true }
     let x := { s q with puts := [p], links := [{ Link.reset 224 with state := .open_ }, { Link.reset (4 * 48) with state := .open_ }] }
     x.puts.find? x.putReady = some p ∧ p.isSpawn = false ∧ p.till = none ∧ tqOf x 0 0 = some q ∧ (x.ctx 0).state = .running ∧ x.putLost p = false ∧
       x.routeOf 64 48 = some [224, 4 * 56 + 2] ∧ q.rhead = q.rtail ∧ x.dieRoom q = true) ∧
    (h full ∧ (s full).dieRoom full = false ∧ 2^full.size ≤ (full.rtail - full.rhead).toNat) ∧
    (t.puts = [put0 (some 100)] ∧ 100 ≤ t.clk ∧ (put0 (some 100)).due ≤ t.clk ∧ (t.thread? 2 0).map Thread.st = some (.blocked (.qputw (put0 (some 100)).id)) ∧ (t.ctx 0).state = .running) ∧
    (∃ x : TaskWin, (s tqOn).windows[(0 : BitVec 6).toNat]? = some x ∧ x.busy = false) ∧ (∃ x : TaskWin, (s tqOn).windows[(63 : BitVec 6).toNat]? = some x ∧ x.busy = false) ∧
    (s tqOn).tqEnabled 0 0 = true ∧ (s tqOn).tqEnabled 63 0 = false :=
  ⟨⟨⟨by rfl, rfl, rfl, rfl, rfl, rfl, by decide +kernel⟩, by decide, by decide, rfl, by decide, rfl, ok_of (by decide +kernel)⟩,
    ⟨⟨by rfl, rfl, rfl, rfl, rfl, rfl, by decide +kernel⟩, error_of (by decide +kernel)⟩,
    ⟨⟨by rfl, rfl, rfl, rfl, rfl, rfl, by decide +kernel⟩, rfl, by decide +kernel⟩, by decide +kernel,
    ⟨⟨by rfl, rfl, rfl, rfl, rfl, rfl, by decide +kernel⟩, by decide +kernel, by decide +kernel⟩,
    ⟨rfl, by decide, by decide, rfl, rfl⟩, ⟨_, rfl, rfl⟩, ⟨_, rfl, rfl⟩, by decide +kernel, by decide +kernel⟩

/-- An entry in a ring on the uncached page, and a ring that is not mapped; a task at (3, 3) that waits for the tile before it. -/
theorem witness_RefillAndStencil :
    let q := { tqOn with ring := 0x5000, rtail := 1 }
    let u := { q with ring := 7 * 2^30 }
    let x : QTask := ⟨⟨[0, 0x0003_0003, 0, 0, 0, 0, 0], 0, 0, false⟩, false, 0, false⟩
    let e := { tqOn with sbaddr := 0x5000, stencil := BitVec.twoPow 64 35, die := [x], evalDue := true }
    let s := fun (q : TaskQueue) => q0 q wgrp
    ((s q).firstQueue (s q).refillable = some (0, 0) ∧ tqOf (s q) 0 0 = some q ∧
      (s q).devRead 0 ((s q).devWorld 0) 0x5000 32 = .ok (List.replicate 32 0, none)) ∧
    ((s u).firstQueue (s u).refillable = some (0, 0) ∧ (s u).devRead 0 ((s u).devWorld 0) (7 * 2^30) 32 = .error (4, 7 * 2^30)) ∧
    ((s e).firstQueue (s e).evalReady = some (0, 0) ∧ tqOf (s e) 0 0 = some e ∧ e.die = [x] ∧ x.released = false ∧ x.stuck = false ∧
      stencilTiles e.stencil 3 3 = [3 * 1024 + 2] ∧ (s e).devRead 0 ((s e).devWorld 0) (0x5000 + (3 * 1024 + 2) / 8) 1 = .ok ([0], none)) :=
  ⟨⟨by decide +kernel, rfl, ok_of (by decide +kernel)⟩, ⟨by decide +kernel, error_of (by decide +kernel)⟩,
    by decide +kernel, rfl, rfl, rfl, rfl, by decide +kernel, ok_of (by decide +kernel)⟩

/-- A task with no record, and a child whose record, number 1 at the start of the spill area, names one view in slot 2. -/
theorem witness_DispatchStartsTheTask :
    let y : QTask := ⟨task0, true, 16, false⟩
    let q := { tqOn with die := [y], claim := some 1 }
    let th : Thread := { thr with st := .idle }
    let w := { wgrp with threads := [th] }
    let x : Launch := { probeLaunch with lr := { probeRecord with qmask := 1, w := 1, h := 1 } }
    let s := { q0 q w with launches := [x], bundles := [] }
    let y1 : QTask := ⟨{ task0 with spawn := 1 }, true, 16, false⟩
    let es : List (Nat × Nat × Nat × Nat) := [(2, 0, 5, 0)]
    let p := view0 5 false 0
    let w1 := { w with views := [p] }
    let s1 := { s with
      mem := tables.write 0x5000 (recordBytes es), wgs := [w1]
      contexts := [{ ctxt with tqs := [{ q with die := [y1] }], records := [(1, es)], spill := [(0, 64, 1), (4096, 4096, 1)], desc := { ctxt.desc with vspill := 0x5000 } }] }
    (s1.nextTask x = some (⟨0, 0, false⟩, 0, w1) ∧ s1.slotsOf w1 = [0] ∧ s1.tickFree.recordBad 0 1 = none ∧ (s1.ctx 0).records.lookup 1 = some es ∧
      ((s1.ctx 0).spill.filter fun z => z.2.2 == 1 && z.2.1 != 64).map (·.1) = [4096] ∧ s1.wgOfG x.id 0 = some w1 ∧ w1.view? 5 = some p ∧
      roundUp (descBytes p.desc + 4) 4096 ≤ s1.lsFree w1.core ∧ w1.views.length < 128) ∧
    s.launches = [x] ∧ s.nextTask x = some (⟨0, 0, false⟩, 0, w) ∧ s.wg? w.uid = some w ∧ tqOf s x.ctx 0 = some q ∧ q.die = [y] ∧ y.entry.spawn = 0 ∧
    s.slotsOf w = [0] ∧ w.threads[0]? = some th ∧ w.redun = none ∧ s.l1 = [] ∧ x.ctx < s.contexts.length :=
  ⟨⟨by rfl, by decide +kernel, by decide +kernel, by decide +kernel, by decide +kernel, rfl, rfl, by decide +kernel, by decide⟩,
    rfl, by rfl, rfl, rfl, rfl, rfl, by decide +kernel, rfl, rfl, rfl, by decide⟩

/-! Witnesses: launches, workgroups and contexts. -/

/-- A launch record with a field of 0 where one must not be, a sound one, and one with its code elsewhere. -/
def recordBytes_ (code : Nat) : List Byte :=
  ((((((((Mem.write [] 0 (toBytes 8 code)).write 8 (toBytes 4 0x40)).write 0x0C [8]).write 0x12 [1, 1, 1]).write 0x16 [32]).write 0x20 [1]).write
    0x24 [1]).write 0x70 [1]).read 0 256

/-- A code object at 0x4200 whose header names a hash, with one clause of one word. -/
def codeMem (hash : Nat) : Mem :=
  tables ++ [] |>.write 0x4200 (toBytes 4 0x51484F43 ++ toBytes 4 1 ++ toBytes 8 hash ++ toBytes 4 0x40 ++ toBytes 4 8) |>.write 0x4240 (toBytes 4 0xA0000001)

theorem witness_LaunchInstructions :
    let x : Launch := { probeLaunch with id := 1 }
    let w := fun (a : Word) => { wgrp with waves := [wave [(4, a)]] }
    let s := fun (a : Word) => { base with wgs := [w a], contexts := [{ ctxt with handles := [(0xFFFFFF, 1), (1, 2)] }], launches := [x, { x with id := 2, complete := true }] }
    let h := fun (a : Word) => Plain (s a) iss (w a) ∧ act (s a) iss g0 = [0] ∧ (w a).threads[0]? = some thr ∧ (s a).l1 = [] ∧
      Quiet (s a) iss.wg 0 ∧ thr.ctr.v < 63 ∧ (reg (s a) iss 5 0 ++ reg (s a) iss 4 0 : Word64).toNat = a.toNat ∧
      (st0 (s a)).blockWaits (w a) 0 a.toNat 256 = false
    (h 0x4140 ∧ (st0 (s 0x4140)).blockRead (w 0x4140) 0 0x4140 256 = .ok (List.replicate 256 0, none)) ∧
    (h 0x4150 ∧ (st0 (s 0x4150)).blockRead (w 0x4150) 0 0x4150 256 = .ok (List.replicate 256 0, none) ∧ 0x4150 % 64 ≠ 0 ∧
      CanTrap (s 0x4150) iss (w 0x4150) (vector (s 0x4150) (w 0x4150)) [0]) ∧
    (((s 0x4140).ctx 0).handles.lookup 0 = none ∧ (((s 0x4140).ctx 0).handles.lookup 1).bind (s 0x4140).launch? = some { x with id := 2, complete := true } ∧
      (((s 0x4140).ctx 0).handles.lookup 0xFFFFFF).bind (s 0x4140).launch? = some x ∧ x.complete = false) :=
  ⟨⟨⟨⟨rfl, rfl, rfl, rfl, by decide⟩, by decide +kernel, rfl, rfl, quiet_of (by decide +kernel) rfl rfl rfl rfl rfl rfl rfl, by decide, by decide +kernel, by decide +kernel⟩,
      ok_of (by decide +kernel)⟩,
    ⟨⟨⟨rfl, rfl, rfl, rfl, by decide⟩, by decide +kernel, rfl, rfl, quiet_of (by decide +kernel) rfl rfl rfl rfl rfl rfl rfl, by decide, by decide +kernel, by decide +kernel⟩,
      ok_of (by decide +kernel), by decide, canTrap_of rfl (by decide) (by decide) (by decide +kernel)⟩, by decide +kernel, rfl, rfl, rfl⟩

theorem witness_LaunchAcceptanceChecksTheRecord :
    let req := fun (b : List Byte) => (⟨7, 0, 2, 0, 8, b, false, false, 100⟩ : LaunchReq)
    let s := fun (b : List Byte) (hash : Nat) => { base with mem := codeMem hash, launchReqs := [req b] }
    let zero : List Byte := List.replicate 256 0
    ((s zero 0).launchReqs = [req zero] ∧ (req zero).due ≤ (s zero 0).clk ∧ (req zero).host = false) ∧
    (parseLaunch zero).fieldsOk = false ∧
    ((parseLaunch (recordBytes_ 0x4300)).fieldsOk = true ∧ (s (recordBytes_ 0x4300) 0).objHeader 0 false 0x4300 = none) ∧
    ((parseLaunch (recordBytes_ 0x4200)).fieldsOk = true ∧ (∃ h, (s (recordBytes_ 0x4200) 5).objHeader 0 false 0x4200 = some h ∧
      field h 8 8 ≠ 0x6D3A91C40B27E85F)) ∧
    (s (recordBytes_ 0x4200) 0x6D3A91C40B27E85F).launchStatus (req (recordBytes_ 0x4200)) (parseLaunch (recordBytes_ 0x4200)) = 0 := by
  refine ⟨⟨rfl, by decide, rfl⟩, by decide +kernel, by decide +kernel, ⟨by decide +kernel, ex_some (by decide +kernel)⟩, by decide +kernel⟩

/-- A launch of one workgroup on core 0. -/
def smallRec : LaunchRec := { probeRecord with regs := 8, lsbytes := 0, slabs := 0, tiles := 1, views := 0, w := 1, h := 1, wgpc := 2 }
def smallLaunch : Launch := { probeLaunch with lr := smallRec, next := 0 }
/-- A workgroup with no window. -/
def smallWg (th : Thread) : Workgroup :=
  { wgrp with regs := 8, threads := [th], waves := [List.replicate 8 (.u 0)], lsbytes := 0, slabs := [], tiles := [.free], nviews := 0 }

theorem witness_PlacementStartsAWorkgroup :
    let s := { base with wgs := [], bundles := [], launches := [smallLaunch] }
    (sortLaunches s.launches).find? (fun l => (s.place l).isSome) = some smallLaunch ∧ smallLaunch.pending = some (0, 0, none) ∧
    s.coreFor smallLaunch 0 none = some 0 ∧ smallRec.paired 0 0 = false ∧ smallRec.qmask = 0 ∧ s.l1 = [] :=
  ⟨by rfl, rfl, by decide +kernel, by decide +kernel, rfl, rfl⟩

/-- A workgroup that is not contained, and one that holds a store. -/
theorem witness_RetirementCountsTheWorkgroup :
    let w := smallWg { thr with st := .exited }
    let s := fun (w : Workgroup) => { base with wgs := [w], launches := [{ smallLaunch with next := 1 }] }
    let v := { w with contain := some ⟨true, [⟨0, 0, .store (.memory 0x4100 0x4100 false false [1])⟩]⟩ }
    ((s w).wgs.find? (s w).retires = some w ∧ (s w).wg? w.uid = some w ∧ w.redun = none ∧ w.contained = false) ∧
    ((s v).wgs.find? (s v).retires = some v ∧ (s v).wg? v.uid = some v ∧ v.redun = none ∧ v.contained = true) :=
  ⟨⟨by rfl, rfl, rfl, rfl⟩, by rfl, rfl, rfl, rfl⟩

/-- A launch with a completion word and a queue; its handle is waited for. -/
theorem witness_CompletionReleasesTheWaiters :
    let l : Launch := { smallLaunch with next := 1, retired := 1, lr := { smallRec with done := 0x4100 } }
    let s := { base with
      launches := [l], wgs := [smallWg { thr with st := .blocked (.lwait 1 8) }], contexts := [{ ctxt with tqs := [{ tqOn with claim := some 1 }] }] }
    (s.launches.find? s.completes = some l ∧ s.l1 = [] ∧ l.lr.hasStatus = false ∧ (s.wgs.map Workgroup.uid).Nodup ∧
      ∀ w ∈ s.wgs, w.launch = l.id → w.contained = false) ∧
    (∃ x, tqOf s 0 0 = some x ∧ 0 < s.contexts.length ∧ x.claim = some l.id) ∧
    (l.lr.done ≠ 0 ∧ l.lr.done % 8 = 0 ∧ s.translate none l.ctx l.lr.secure .write l.lr.done = .ok ⟨0x4100, 0x1F, 2^30⟩) ∧ smallRec.done = 0 :=
  ⟨⟨by rfl, rfl, by decide, by decide, by decide⟩, ⟨_, rfl, by decide, rfl⟩, ⟨by decide, by decide, ok_of (by decide +kernel)⟩, rfl⟩

/-- Three threads, of which the first has exited, in a rectangle of two cores: a move to the free one, to a full one, and to the core itself. -/
theorem witness_MigrationMovesTheWorkgroup :
    let th := fun (x : Word) => { thr with st := .blocked (.migrate x 1) }
    let w := fun (x : Word) => { smallWg thr with threads := [{ thr with st := .exited }, th x, { thr with st := .blocked (.migrate 7 2) }] }
    let s := fun (x : Word) (n : Nat) => { base with
      wgs := w x :: (List.range n).map fun i => { smallWg thr with uid := 10 + i, core := 1, slot := i }
      launches := [{ smallLaunch with next := 1, lr := { smallRec with w := 2 } }] }
    let h := fun (x : Word) (n : Nat) => (s x n).wgs.find? (s x n).migrates = some (w x) ∧ (s x n).wg? 2 = some (w x) ∧ (s x n).l1 = [] ∧ (w x).threads[1]? = some (th x) ∧
      (th x).st = .blocked (.migrate x 1) ∧ (∀ t ∈ (w x).threads.take 1, t.st = .exited) ∧ (w x).ctx < (s x n).contexts.length
    let m : Migration := ⟨2, 1, 100⟩
    (h 1 0 ∧ (s 1 0).migrateBad (w 1) 1 0 = false ∧ (s 1 0).roomOn 1 ((w 1).needAt 1) = true) ∧
    (h 1 16 ∧ (s 1 16).migrateBad (w 1) 1 0 = false ∧ (s 1 16).roomOn 1 ((w 1).needAt 1) = false) ∧
    (h 0 0 ∧ (s 0 0).migrateBad (w 0) 0 0 = true ∧ (∀ t ∈ (w 0).threads, t.priv = false) ∧ (∀ l, l < 3 → (s 0 0).outstanding 2 l = false) ∧
      vector (s 0 0) (w 0) ≠ 0) ∧
    ({ s 1 0 with migrations := [m] }.migrations.find? (fun m => decide (m.due ≤ (s 1 0).clk)) = some m ∧ (s 1 0).wg? m.wg = some (w 1)) :=
  ⟨⟨⟨by rfl, rfl, rfl, rfl, rfl, by decide, by decide⟩, by decide +kernel, by decide +kernel⟩,
    ⟨⟨by rfl, rfl, rfl, rfl, rfl, by decide, by decide⟩, by decide +kernel, by decide +kernel⟩,
    ⟨⟨by rfl, rfl, rfl, rfl, rfl, by decide, by decide⟩, by decide +kernel, by decide, by decide +kernel, by decide +kernel⟩, rfl, rfl⟩

theorem witness_GridBarrierCompletesOrSwaps :
    let w := smallWg { thr with st := .blocked .gsync }
    let l : Launch := { smallLaunch with next := 1, lr := { smallRec with flags := 1 } }
    let k : Launch := { l with lr := { l.lr with gridx := 2 } }
    let s := { base with wgs := [w], launches := [l] }
    let t := { base with wgs := [w], launches := [k], contexts := [{ ctxt with desc := { ctxt.desc with savesize := 2^40 } }] }
    (s.launches.find? s.gridArrived = some l ∧ s.l1 = [] ∧ ∀ w ∈ s.wgs, ∀ th ∈ w.threads, th.wd = none) ∧
    (t.launches = [k] ∧ t.swapVictim k = some [w] ∧ t.wg? w.uid = some w ∧ k.ctx < t.contexts.length ∧ w.ctx = k.ctx ∧ w.yielded = false) :=
  ⟨⟨by rfl, rfl, by decide +kernel⟩, rfl, by decide +kernel, rfl, by decide, rfl, rfl⟩

/-- A ring with one record, which is read and then accepted, and doorbells at both ends of its size. -/
theorem witness_LaunchRingAndDoorbell :
    let s := bc fun x => { x with ring := { LaunchRing.absent with present := true, headerPa := 0x4100, pages := [0x5000], tail := 1 } }
    let r := (s.ctx 0).ring
    ((List.range 64).find? s.ringReady = some 0 ∧ 0 < s.contexts.length ∧ s.poisoned 0x5000 256 = false) ∧
    (let q : LaunchReq := ⟨7, 0, 0, 0, 0, recordBytes_ 0x4200, false, true, 100⟩
     let t := { s with mem := codeMem 0x6D3A91C40B27E85F, launchReqs := [q] }
     q.due ≤ t.clk ∧ q.host = true ∧ q.ctx < t.contexts.length ∧ t.launchStatus q (parseLaunch q.raw) = 0) ∧
    ((0 : BitVec 6).toNat < s.contexts.length ∧ r.present = true ∧ ((4 : Word) - r.head).toNat ≤ 2^r.size ∧ 2^r.size < ((5 : Word) - r.head).toNat) ∧
    (base.ctx 0).ring.present = false := by decide +kernel

/-- The issuing thread at control level in the secure world; contexts in each state. -/
theorem witness_ContextSwitchInstruction :
    let w := { wgrp with secure := true, threads := [ctl thr] }
    let s := { base with
      wgs := [w], contexts := [ctxt, { ctxt with desc := { Desc.zero with savesize := 4096 } }, { Context.empty with state := .saving }, .empty]
      ctxtab := 0x5000, mem := tables.write (0x5000 + 256 * 3 + 0x65) [1] }
    (Plain s iss w ∧ act s iss g0 = [0] ∧ w.threads[0]? = some (ctl thr) ∧ (ctl thr).priv = true ∧ w.secure = true) ∧
    ((val s iss (.imm 0x40) 0).toNat % 64 = w.ctx ∧ (s.ctx 2).state = .saving ∧ ((s.ctx 3).state = .empty ∧ (s.ctx 3).resident = false)) ∧
    ((s.ctx 1).state = .running ∧ (s.ctx 1).saving = none ∧ s.saveSize 1 (s.allWgs 1) ≤ (s.ctx 1).desc.savesize ∧ 1 < s.contexts.length) ∧
    (let f := { s with contexts := [ctxt, ctxt, { ctxt with saving := some ⟨false, false⟩ }] }
     (f.ctx 1).state = .running ∧ (f.ctx 1).saving = none ∧ f.asks 1 = false ∧ (f.ctx 1).desc.savesize < f.saveSize 1 (f.allWgs 1) ∧ (f.ctx 2).saving.isSome = true ∧
       (s.ctx 3).saving = none) ∧
    ((s.ctx 63).state ≠ .saving ∧ (s.ctx 3).state ≠ .running ∧ s.ctxtab ≠ 0 ∧ (∀ i, i < 4 → s.dieLive (64 + i) = true) ∧
      s.descOk 3 (s.mem.read (s.ctxtab.toNat + 256 * 3) 256) = true ∧ 3 < s.contexts.length) :=
  ⟨⟨⟨rfl, rfl, rfl, rfl, by decide⟩, by decide +kernel, rfl, rfl, rfl⟩, by decide +kernel, by decide +kernel, by decide +kernel, by decide +kernel⟩

theorem witness_HostContextCommands :
    let s := { base with
      ctxtab := 0x5000, mem := tables.write (0x5000 + 256 + 0x65) [1], wgs := []
      contexts := [{ ctxt with desc := { Desc.zero with savesize := 4096 } }, .empty, { Context.empty with desc := { Desc.zero with cflags := 2 } }] }
    ({ base with hostCmd := true }.hostCmd = true ∧ base.hostCmd = false ∧ base.ctxtab = 0 ∧ s.ctxtab ≠ 0) ∧
    (¬ ((false = true) ∨ ∀ k, s.secureCtx 2 k = false) ∧ s.secureCtx 2 0 = true) ∧
    ((s.ctx 0).state = .running ∧ (s.ctx 0).saving = none ∧ s.saveSize 0 (s.allWgs 0) ≤ (s.ctx 0).desc.savesize) ∧
    ((s.ctx 1).state ≠ .saving ∧ (s.ctx 1).state ≠ .running ∧ (s.ctx 1).resident = false ∧ (∀ i, i < 4 → s.dieLive (64 + i) = true) ∧
      s.descOk 1 (s.mem.read (s.ctxtab.toNat + 256 * 1) 256) = true) := by
  refine ⟨by decide +kernel, ⟨fun h => ?_, by decide +kernel⟩, by decide +kernel, by decide +kernel⟩
  rcases h with h | h
  · cases h
  · exact absurd (h 0) (by decide +kernel)

theorem witness_SaveAndRestore :
    let w := smallWg { thr with st := .ready }
    let c := { ctxt with state := .saving, saving := some ⟨false, true⟩, desc := { ctxt.desc with savesize := 2^40 } }
    let s := { base with wgs := [w], contexts := [c], launches := [{ smallLaunch with next := 1 }] }
    let t := { base with wgs := [], contexts := [{ ctxt with saved := [w] }], launches := [{ smallLaunch with next := 1 }] }
    ((List.range 64).find? (fun n => s.saveRefused n || s.saveReady n) = some 0 ∧ s.saveReady 0 = true ∧ (s.ctx 0).saving = some ⟨false, true⟩ ∧ 0 < s.contexts.length ∧
      s.saveSize 0 (s.allWgs 0) ≤ (s.ctx 0).desc.savesize ∧ (s.wgs.map Workgroup.uid).Nodup ∧ s.cmds = []) ∧
    ((∀ k, k < 0 → t.dispatches k = false ∨ (t.ctx k).saved = []) ∧ t.dispatches 0 = true ∧ (t.ctx 0).saved = [w] ∧
      t.restorable w = some [(w, 0)] ∧ w.ctx = 0 ∧ w.views = []) :=
  ⟨by decide +kernel, fun k h => absurd h (Nat.not_lt_zero k), by decide +kernel, rfl, by rfl, rfl, rfl⟩

/-! Witnesses: copy queues and hearths. -/

/-- A block of 64 bytes at 0x4140 whose address stands in registers 4 and 5; copy queue 0 is on. -/
def blkMem (b : List Byte) : Mem := tables.write 0x4140 b
def cqOn : CopyQueue := { CopyQueue.off with enabled := true, pages := [0x5000] }
def pad64 (b : List Byte) : List Byte := (b ++ List.replicate 64 0).take 64
def bwg (ts : List Tile) : Workgroup := { wgrp with tiles := ts, waves := [wave [(4, 0x4140)]] }
def bst (ts : List Tile) (b : List Byte) : State :=
  { base with mem := blkMem b, wgs := [bwg ts], contexts := [{ ctxt with cqs := [cqOn] }], launches := [{ probeLaunch with lr := { probeRecord with fmt := [1] } }] }

theorem blockAt_of {ts : List Tile} {b : List Byte} (h : act (bst ts b) iss g0 = [0])
    (h1 : (laneBlock (st0 (bst ts b)) (bwg ts) 0 (reg (bst ts b) iss 5 0 ++ reg (bst ts b) iss 4 0 : Word64).toNat).toOption = some (b, none))
    (h2 : laneWaits (st0 (bst ts b)) (bwg ts) 0 (reg (bst ts b) iss 5 0 ++ reg (bst ts b) iss 4 0 : Word64).toNat = false) :
    BlockAt (bst ts b) iss (bwg ts) g0 4 0 thr b := ⟨⟨rfl, rfl, rfl, rfl, by decide⟩, h, rfl, by decide, rfl, fun o h => (by cases h), ok_of h1, h2⟩

def goes (x : LaneCmd) : Bool := match x with
  | .go .. => true
  | _ => false

theorem goes_of {x : LaneCmd} (h : goes x = true) : ∃ idx pages dsl ssl rwg, x = .go idx pages dsl ssl rwg := by
  cases x <;> simp [goes] at h
  exact ⟨_, _, _, _, _, rfl⟩

/-- Two rows of 16 bytes between 0x5000 and tile 0, or from tile 0 to tile 1. -/
def copyBlk (ga gs : Nat) (tile dir rt : Byte) : List Byte :=
  pad64 (toBytes 8 ga ++ toBytes 4 gs ++ toBytes 4 16 ++ toBytes 2 2 ++ [tile, dir] ++ List.replicate 37 0 ++ [rt])

theorem witness_CopyCommandsAreSubmitted :
    let t := fun (x y : TileState) => tile0 x :: tile0 y :: List.replicate 6 .free
    let fate := fun (ts : List Tile) (k : CmdKind) (b : List Byte) => copyLane (st0 (bst ts b)) (bwg ts) iss 0 k b []
    let into := copyBlk 0x5000 16 0 0 0
    let out := copyBlk 0x5000 16 0 1 0
    let two := copyBlk 0 0 0 2 1
    let far := copyBlk 0x5000 16 64 0 0
    (BlockAt (bst (t .empty .empty) into) iss (bwg (t .empty .empty)) g0 4 0 thr into ∧ (∃ i p d s r, fate (t .empty .empty) .cpy into = .go i p d s r) ∧
      (∃ i p d s r, fate (t .empty .empty) .cpyx into = .go i p d s r) ∧ ∀ k, listWaits (st0 (bst (t .empty .empty) into)) (bwg (t .empty .empty)) 0 k into = false) ∧
    (BlockAt (bst (t .ready .empty) out) iss (bwg (t .ready .empty)) g0 4 0 thr out ∧ (∃ i p d s r, fate (t .ready .empty) .cpy out = .go i p d s r) ∧
      emptiesTile .cpy out = true) ∧
    (BlockAt (bst (t .ready .empty) two) iss (bwg (t .ready .empty)) g0 4 0 thr two ∧ (∃ i p d s r, fate (t .ready .empty) .cpy two = .go i p d s r) ∧
      twoTiles .cpy two = true ∧ ((bst (t .ready .empty) two).wgs.map Workgroup.uid).Nodup) ∧
    (∃ x : Tile, (bwg (t .ready .empty)).tiles[0]? = some x ∧ x.view = none) ∧
    (fate (t .empty .empty) .cpy far = .fault 8 0x12 ∧ CanTrap (bst (t .empty .empty) far) iss (bwg (t .empty .empty)) (vector (bst (t .empty .empty) far) (bwg (t .empty .empty))) [0]) ∧
    fate (t .draining .empty) .cpy into = .park (.fill 0) := by
  refine ⟨⟨blockAt_of (by decide +kernel) (by decide +kernel) (by decide +kernel), goes_of (by decide +kernel), goes_of (by decide +kernel),
      fun k => by cases k <;> decide +kernel⟩,
    ⟨blockAt_of (by decide +kernel) (by decide +kernel) (by decide +kernel), goes_of (by decide +kernel), by decide +kernel⟩,
    ⟨blockAt_of (by decide +kernel) (by decide +kernel) (by decide +kernel), goes_of (by decide +kernel), by decide +kernel, by decide +kernel⟩, ⟨_, rfl, rfl⟩,
    ⟨by decide +kernel, canTrap_of rfl (by decide) (by decide) (by decide +kernel)⟩, by decide +kernel⟩

/-- CPYG of two rows through a list of indices, and CPYS. -/
theorem witness_GatherAndScatter :
    let b := pad64 (toBytes 8 0x5000 ++ toBytes 4 16 ++ toBytes 4 16 ++ toBytes 2 2 ++ List.replicate 22 0 ++ toBytes 8 0x6000)
    let t := fun (x : TileState) => tile0 x :: List.replicate 7 .free
    ((∃ i p d s r, copyLane (st0 (bst (t .empty) b)) (bwg (t .empty)) iss 0 .cpyg b [] = .go i p d s r) ∧
      listWaits (st0 (bst (t .empty) b)) (bwg (t .empty)) 0 .cpyg b = false) ∧
    ∃ i p d s r, copyLane (st0 (bst (t .ready) b)) (bwg (t .ready)) iss 0 .cpys b [] = .go i p d s r :=
  ⟨⟨goes_of (by decide +kernel), by decide +kernel⟩, goes_of (by decide +kernel)⟩

/-- An HLUTW and an HLUT of channel 31 of stack 7, whose page is the hearth page; a stack there is not. -/
def hlutwBlk (st : Byte) : List Byte := pad64 (toBytes 8 0x2_0000_0000 ++ [st, 31, 0x22, 0x40])
def hlutBlk : List Byte := pad64 (toBytes 8 0x2_0000_0000 ++ [7, 31, 56, 8, 0, 0x22])

theorem witness_HearthCommandsAndQueues :
    let ts := List.replicate 8 Tile.free
    let s := bst ts (hlutwBlk 7)
    let h := { bst ts hlutBlk with channels := [{ Channel.reset 255 with wcode := 0x22 }] }
    (BlockAt s iss (bwg ts) g0 4 0 thr (hlutwBlk 7) ∧ (∃ i p d s' r, hearthLane (st0 s) (bwg ts) .hlutw (hlutwBlk 7) = .go i p d s' r)) ∧
    (∃ i p d s' r, hearthLane (st0 h) (bwg ts) .hlut hlutBlk = .go i p d s' r) ∧
    (hearthLane (st0 (bst ts (hlutwBlk 8))) (bwg ts) .hlutw (hlutwBlk 8) = .fault 8 8 ∧ CanTrap s iss (bwg ts) (vector s (bwg ts)) [0]) ∧
    ((((s.ctx 0).cqs[0]?).map CopyQueue.enabled = some true) ∧ ¬ ((((s.ctx 0).cqs[15]?).map CopyQueue.enabled) = some true) ∧ thr.ctr.c < 63 ∧
      ∀ q ∈ s.cmds, ¬ (q.wg = iss.wg ∧ q.tidx = 0 ∧ q.queue = 0 ∧ q.accepted = false)) := by
  refine ⟨⟨blockAt_of (by decide +kernel) (by decide +kernel) (by decide +kernel), goes_of (by decide +kernel)⟩, goes_of (by decide +kernel),
    ⟨by decide +kernel, canTrap_of rfl (by decide) (by decide) (by decide +kernel)⟩, by decide +kernel⟩

/-- A command of the thread of the base state. -/
def cmd0 (k : CmdKind) (b : List Byte) (acc st : Bool) : Cmd :=
  { id := 5, ctx := 0, queue := 0, kind := k, wg := 2, tidx := 0, tids := [0], block := b, xlate := [(5, 0x5000)], idx := [255], rwg := 0, accepted := acc,
    num := 0, started := st, seg := 0, due := 100, ans := [], arg := (8, 1), die := 0, sat := (0, 0), sectors := [], fills := [], held := [],
    out := [], cw := false }
def cst (q : Cmd) (ts : List Tile) (f : State → State) : State := f { bst ts [] with cmds := [q] }

theorem witness_CommandsAreAcceptedStartedAndFinished :
    let into := copyBlk 0x5000 16 0 0 0
    let ts := tile0 .filling :: List.replicate 7 Tile.free
    let a := cmd0 .cpy into false false
    let b := cmd0 .cpy into true false
    let h := cmd0 .hlutw (hlutwBlk 7) true false
    let d := { cmd0 .cpy (into.set 0x16 1 |>.set 0x18 0x40 |>.set 0x19 0x50) true true with seg := 32 }
    ((cst a ts id).cmds.find? (cst a ts id).acceptable = some a ∧ (cst a ts id).cq? 0 0 = some cqOn ∧ a.kind ≠ .hsum ∧ a.tids = [0] ∧
      (bwg ts).contained = false ∧ NoneBefore (cst a ts id) 2 0 .c 5) ∧
    bestOf (cst b ts id).startBefore ((cst b ts id).cmds.filter fun c => !c.started && (cst b ts id).atHead c && (cst b ts id).startReady c) = some b ∧
    (let s := cst h ts fun s => { s with stackGrant := List.replicate 8 1 }
     bestOf s.startBefore (s.cmds.filter fun c => !c.started && s.atHead c && s.startReady c) = some h) ∧
    ((cst d ts id).cmds.find? (fun c => c.kind != .hsum && (cst d ts id).finishes c c.total) = some d ∧ isCopy d.kind = true ∧ d.cw = false ∧
      bCwe d.block = true ∧ d.pa (bCwaddr d.block) = some (0x5040, false) ∧ bCwaddr d.block % 8 = 0 ∧ (cst d ts id).remote 0x5040 = false ∧
      (cst d ts id).routed d.die (homeDie 0x5040) = true) := by
  refine ⟨⟨by decide +kernel, rfl, by decide, rfl, rfl, ⟨?_, ?_, ?_, ?_⟩⟩, by decide +kernel, by decide +kernel, by decide +kernel⟩
  · intro p h; cases h
  · intro q h; simp [cst, bst, cmd0] at h; subst h; decide
  · intro a h; cases h
  · intro th h; cases h; rfl

/-- A segment into a tile, one out of it, one out of accumulators, and one whose source is poisoned. -/
theorem witness_CopySegmentsMoveBytes :
    let into := copyBlk 0x5000 16 0 0 0
    let out := copyBlk 0x5000 128 0 1 0
    let f := tile0 .filling :: List.replicate 7 Tile.free
    let d := tile0 .draining :: List.replicate 7 Tile.free
    let a := cmd0 .cpy into true true
    let b := { cmd0 .cpy out true true with sectors := [0x5000 / 128, 0x5080 / 128] }
    let k := cmd0 .cpy (into.set 0x16 4) true true
    let held := fun (s : State) (c : Cmd) (w : Workgroup) (x : Tile) => s.hold c (c.segRuns s w x 0)
    let p := fun (s : State) => { s with poison := [0x5000 / 128] }
    ((cst a f id).cmds.find? (cst a f id).segReady = some a ∧ (cst a f id).wg? 2 = some (bwg f) ∧ (bwg f).tiles[bTile a.block]? = some (tile0 .filling) ∧
      (tile0 .filling).view = none ∧ (bwg f).redun = none ∧ (bwg f).contain = none ∧ (bwg f).window.wf = true ∧
      fillsTile a.kind into = true ∧ a.held = [] ∧ (cst a f id).segBytes (held (cst a f id) a (bwg f) (tile0 .filling)) (bwg f) (tile0 .filling) 0 = .ok (List.replicate 16 0, 0) ∧
      (∀ i, i < 16 → (bwg f).lsBad (tileAddr desc0 0 i) = none) ∧ (cst a f id).engRead (held (cst a f id) a (bwg f) (tile0 .filling)) 0x5000 16 = .ok (List.replicate 16 0)) ∧
    ((cst b d id).cmds.find? (cst b d id).segReady = some b ∧ emptiesTile b.kind out = true ∧
      (cst b d id).segBytes (held (cst b d id) b (bwg d) (tile0 .draining)) (bwg d) (tile0 .draining) 0 = .ok (List.replicate 16 0, 0) ∧ b.segDest 0 = some (0x5000, 16) ∧
      (∀ i ∈ b.segOffs (tile0 .draining) 0, (bwg d).lsBad (descBase desc0 + i) = none) ∧ b.out = [] ∧ b.pastSectors 0 = [0x5000 / 128] ∧
      b.pa 0x5000 = some (0x5000, false) ∧ 0x5000 % 128 + 16 ≤ 128 ∧ (cst b d id).remote 0x5000 = false ∧
      (cst b d id).routed b.die (homeDie 0x5000) = true) ∧
    (bDir k.block = 0 ∧ bSrcacc k.block = true ∧ k.held = [] ∧ (cst k f id).cmds.find? (cst k f id).segReady = some k ∧ k.seg < k.rowBytes) ∧
    (cst a f p).cmds.find? (cst a f p).segReady = some a ∧ (cst a f p).segBytes (held (cst a f p) a (bwg f) (tile0 .filling)) (bwg f) (tile0 .filling) 0 = .error (.mem 0x5000) := by
  refine ⟨⟨by decide +kernel, rfl, by decide +kernel, rfl, rfl, rfl, by decide +kernel, by decide +kernel, rfl, ok_of (by decide +kernel), by decide +kernel,
    ok_of (by decide +kernel)⟩, ⟨by decide +kernel, by decide +kernel, ok_of (by decide +kernel), by decide +kernel⟩, by decide +kernel, by decide +kernel,
    error_of (by decide +kernel)⟩

/-- Channel 255 with a reduction in its queue, a wave of each kind at its first step, and a channel whose refreshes are postponed. -/
theorem witness_HearthUpdatesAndWaves :
    let ts := List.replicate 8 Tile.free
    let q := cmd0 .hsum [] true false
    let pa := 7 * 2^12 + 31 * 2^7
    let r := { atomOn pa 0x800 false none with due := 100 }
    let h : Channel := { Channel.reset 255 with queue := [r] }
    let w := fun (k : CmdKind) (b : List Byte) => { cmd0 k b true true with xlate := [(0, 0x2_0000_0000)] }
    let c : Channel := { Channel.reset 255 with wave := some (5, 0), refresh := 7 }
    let wst := fun (k : CmdKind) (b : List Byte) => cst (w k b) ts fun s => { s with channels := [c] }
    ((cst q ts id).cmds.find? (fun c => c.kind == .hsum && (cst q ts id).atHead c) = some q ∧ (cst q ts id).wg? 2 = some (bwg ts)) ∧
    ({ base with atoms := [r] }.atoms.find? { base with atoms := [r] }.redAcceptable = some r ∧ channelOf r.pa = 255 ∧
      base.routed (dieOf wgrp.core) (homeDie r.pa) = true ∧
      NoneBefore { base with atoms := [r] } 2 0 .a r.id) ∧
    (let s := { base with channels := [h] }
     s.channels.find? (Channel.applicable s.clk) = some h ∧ s.remote r.pa = false ∧ r.mi = false ∧ isIo r.pa = false ∧ r.isC = false ∧
       s.mem.wf = true ∧ s.poisoned r.pa 8 = false) ∧
    ((wst .hlutw (hlutwBlk 7)).cmds.find? (fun q => (((wst .hlutw (hlutwBlk 7)).waveDue q).map fun h => decide (h.refresh < 8)).getD false) =
      some (w .hlutw (hlutwBlk 7)) ∧ (w .hlutw (hlutwBlk 7)).seg = 0) ∧
    ((wst .hlut hlutBlk).cmds.find? (fun q => (((wst .hlut hlutBlk).waveDue q).map fun h => decide (h.refresh < 8)).getD false) = some (w .hlut hlutBlk) ∧
      hChk hlutBlk = false ∧ ∃ ws, (wst .hlut hlutBlk).stepRows 0x2_0000_0000 7 31 56 = .ok ws) ∧
    (let b := hlutBlk.set 0x0C 2
     let y : Cmd := { w .hlut b with seg := 1 }
     let s := cst y ts fun s => { s with channels := [{ c with sums := List.replicate 64 [] }] }
     s.cmds.find? (fun q => ((s.waveDue q).map fun h => decide (h.refresh < 8)).getD false) = some y ∧ hChk b = true ∧ y.seg % 2 = 1 ∧
       ∃ cs, s.stepRows 0x2_0000_0000 7 31 (hRow b + hSteps b) = .ok cs) ∧
    (let s := { base with channels := [{ Channel.reset 255 with refresh := 1 }] }
     s.channels.find? s.refreshes = some { Channel.reset 255 with refresh := 1 }) := by
  refine ⟨⟨by decide +kernel, rfl⟩, ⟨by decide +kernel, by decide +kernel, by decide +kernel, ⟨?_, ?_, ?_, ?_⟩⟩, by decide +kernel, by decide +kernel,
    ⟨by decide +kernel, by decide +kernel, ex_ok (by decide +kernel)⟩, ⟨by decide +kernel, by decide +kernel, by decide, ex_ok (by decide +kernel)⟩, by decide +kernel⟩
  · intro p h; cases h
  · intro q h; cases h
  · intro a h; simp at h; subst h; decide
  · intro th h; cases h; rfl


/-! Witnesses: anvils, the crucible and the dense pipe. -/

/-- A tile of two rows of 32 bytes: a row of 32 weights' partners and its scale. -/
def tile1 (st : TileState) : Tile := ⟨st, 0x0000_0001_0010_8000, 64, 64, 0, (0, 0, 0), none, false, 0, 0⟩

/-- An anvil-mode slab, every bank held, engines 0 and 2 leased; format slot 1 is an anvil format, slot 0 FP32. -/
def dwg (ts : List Tile) : Workgroup :=
  { bwg ts with slabs := [⟨true, [], [], []⟩], cr := List.replicate 16 ⟨true, [], 0, []⟩, leases := [.held 2 2, .none, .held 1 1] }
def dst (w : Workgroup) (b : List Byte) : State :=
  { bst [] b with
    wgs := [w], engines := [⟨0, 0, some 2, 0⟩, ⟨0, 2, some 2, 0⟩]
    launches := [{ probeLaunch with lr := { probeRecord with fmt := [1, 0x0005_3022] } }]
    dies := base.dies.set 0 { Die.reset with state := .live, passes := 1, ever := true, slabGrant := 1, denseGrant := 1 } }

theorem plain_dst {w : Workgroup} {b : List Byte} (h : (w.uid, w.redun, w.contain) = (2, none, none)) : Plain (dst w b) iss w := by
  simp only [Prod.mk.injEq] at h
  exact ⟨rfl, by simp [State.wg?, dst, iss, h.1], h.2.1, h.2.2, by decide⟩

theorem opAt_of {w : Workgroup} {b : List Byte} (h0 : (w.uid, w.redun, w.contain) = (2, none, none)) (h : act (dst w b) iss g0 = [0])
    (h2 : w.threads[0]? = some thr)
    (h1 : (laneBlock (st0 (dst w b)) w 0 (reg (dst w b) iss 5 0 ++ reg (dst w b) iss 4 0 : Word64).toNat).toOption = some (b, none))
    (h3 : laneWaits (st0 (dst w b)) w 0 (reg (dst w b) iss 5 0 ++ reg (dst w b) iss 4 0 : Word64).toNat = false) :
    OpAt (dst w b) iss w g0 4 0 thr b := ⟨plain_dst h0, h, h2, by decide, rfl, ok_of h1, h3⟩

theorem pair_of {α β : Type} {a : α × β} {x : α} (h : a.1 = x) : ∃ y, a = (x, y) := ⟨a.2, by rw [← h]⟩

/-- Slab 0 is owned, slab 1 is not. -/
theorem witness_SlabInstructions :
    let w := dwg [tile0 .ready]
    let s := dst w []
    let f := dst (dwg [.free]) []
    (Plain s iss w ∧ Plain f iss (dwg [.free]) ∧ act s iss g0 = [0] ∧ act f iss g0 = [0]) ∧ (0#4).toNat < w.slabs.length ∧ w.slabs.length ≤ (1#4).toNat ∧
    (∀ y ∈ (dwg [.free]).tiles, y.inSlab 0 = false) ∧ (∃ y ∈ w.tiles, y.inSlab 0 = true) ∧ CanTrap s iss w (vector s w) (act s iss g0) ∧
    ((val s iss (.imm 0xFFF0) 0).toNat % 16 = 0 ∧ ∀ l ∈ act s iss g0, ∃ th : Thread, w.threads[l]? = some th ∧ th.sq = []) ∧
    (anvFormat (slotElem (slotOf s iss ((val s iss (.imm 9) 0).toNat % 8))) = true ∧
      slotResOk (slotOf s iss ((val s iss (.imm 9) 0).toNat % 8)) = true) ∧
    (thr.ctr.c < 63 ∧ (s.cq? w.ctx w.cq).map CopyQueue.enabled = some true) ∧
    (let y := (val64 s iss (.imm 0x10080) 0).toNat
     y % 128 = 0 ∧ ∃ pages, (st0 s).holdPages w [(y, 65536, false)] = ([], pages)) ∧
    (w.tiles[(val s iss (.imm 64) 0).toNat % 64]? = some (tile0 .ready) ∧ descBytes (tile0 .ready).desc ≤ 65536) := by
  refine ⟨⟨plain_dst rfl, plain_dst rfl, by decide +kernel, by decide +kernel⟩, by decide, by decide, by decide +kernel, by decide +kernel,
    canTrap_of rfl (by decide) (by decide) (by decide +kernel), ⟨by decide +kernel, all_ex (by decide +kernel)⟩, by decide +kernel, by decide +kernel,
    ⟨by decide +kernel, ?_⟩, by decide +kernel⟩
  have h : ((st0 (dst (dwg [tile0 .ready]) [])).holdPages (dwg [tile0 .ready])
    [((val64 (dst (dwg [tile0 .ready]) []) iss (.imm 0x10080) 0).toNat, 65536, false)]).1 = [] := by decide +kernel
  exact pair_of h

/-- The head of a slab's order of each kind. -/
theorem witness_SlabOrderActs :
    let w := fun a => { dwg [] with slabQ := [(0, a)] }
    let x : Slab := ⟨true, [], [], []⟩
    (w (.mode true [0])).slabHead 0 = some (.mode true [0]) ∧ (∀ l ∈ [0], ∀ th : Thread, (w (.mode true [0])).threads[l]? = some th → th.sq = []) ∧
    (w (.mapLoad [1] [0])).slabHead 0 = some (.mapLoad [1] [0]) ∧ (w (.scaleLoad [1] [0])).slabHead 0 = some (.scaleLoad [1] [0]) ∧
    (w (.scaleFill 1)).slabHead 0 = some (.scaleFill 1) ∧ (dwg []).slabs[0]? = some x := by
  refine ⟨by decide +kernel, ?_, by decide +kernel, by decide +kernel, by decide +kernel, by decide +kernel⟩
  intro l hl th h
  simp at hl; subst hl; cases h; rfl

/-- One slab of 8 rows of 32 weights, into the last 8 entries of bank 0. -/
def amvBlk (nslab : Byte) (coff : Nat) : List Byte := pad64 ([0, nslab, 8, 0, 32, 0, 0, 0, 0, 0, 0, 0, 16, 0, 1, 9, 8, 0] ++ toBytes 2 coff)

def op0 (k : MatKind) (b : List Byte) (st : MatState) : MatOp :=
  { id := 5, kind := k, wg := 2, tidx := 0, tids := [0], blk := b, slots := [0x0005_3022, 0x0005_3022], maps := [], desc := 0, st := st, group := 0,
    perGroup := 1, permits := 1, bad := false, badAt := [], data := [], geo := [] }

theorem witness_AnvilOperations :
    let w := dwg [tile1 .ready]
    let b := amvBlk 1 4088
    let s := dst w b
    let p := dwg [tile1 .draining]
    let lane := fun (w : Workgroup) (b : List Byte) => amvLane w 0 true b (slotOf s iss (aSlots b % 8)) (slotOf s iss (aSlots b / 8 % 8))
    let q : Workgroup := { dwg [tile1 .ready] with slabQ := [(0, .anvil 5)] }
    let o := { op0 (.amv 0) b .queued with geo := [(0, (tile1 .ready).desc)] }
    let v : Workgroup := { q with slabs := [⟨true, [], [], []⟩, ⟨true, [], [], []⟩] }
    let r := op0 (.amv 0) (amvBlk 2 4088) (.running 100)
    let e := op0 (.amv 0) b (.running 100)
    (OpAt s iss w g0 4 0 thr b ∧ lane w b = .go ∧ amvLane w 0 false b (slotOf s iss (aSlots b % 8)) (slotOf s iss (aSlots b / 8 % 8)) = .go) ∧
    ((st0 s).leaseFate w 0 = .go ∧ (st0 s).leaseFate w 1 = .lost ∧ (st0 s).leaseFate { w with leases := [.spent 3, .none, .none] } 0 = .wait (some 3) ∧
      CanTrap s iss w (vector s w) [0]) ∧ lane w (amvBlk 0 0) = .fault 8 1 ∧ lane p b = .park (.ready 0) ∧
    (let s := { dst q b with ops := [o] }
     s.ops.find? s.amvNext = some o ∧ s.wg? 2 = some q ∧ q.poison = [] ∧ q.flips = [] ∧ q.tiles[aTile b]? = some (tile1 .ready) ∧ o.geo.lookup (aTile b) = some (tile1 .ready).desc ∧ o.data = []) ∧
    (let s := { dst v b with ops := [r] }
     EntriesSound s v (amvRuns r.blk) ∧ r.badAt = [] ∧ (∀ row ∈ r.data, 256 ∉ row) ∧ aNvec r.blk ≤ 1 ∧ s.wg? 2 = some v ∧ s.ops.find? (·.groupEnds s.clk) = some r) ∧
    (let s := { dst q b with ops := [e] }
     EntriesSound s q (amvRuns e.blk) ∧ e.badAt = [] ∧ (∀ row ∈ e.data, 256 ∉ row) ∧ s.wg? 2 = some q ∧ s.ops.find? (fun o => o.isAmv && o.due s.clk && !o.groupEnds s.clk) = some e) := by
  refine ⟨⟨opAt_of rfl (by decide +kernel) rfl (by decide +kernel) (by decide +kernel), by decide +kernel, by decide +kernel⟩,
    ⟨by decide +kernel, by decide +kernel, by decide +kernel, canTrap_of rfl (by decide) (by decide) (by decide +kernel)⟩, by decide +kernel, by decide +kernel,
    ⟨by decide +kernel, rfl, rfl, rfl, rfl, rfl, rfl⟩,
    ⟨⟨rfl, rfl, by decide, by decide, by decide +kernel, by decide +kernel, by decide +kernel⟩, rfl, by decide, by decide +kernel, rfl, by decide +kernel⟩,
    ⟨rfl, rfl, by decide, by decide, by decide +kernel, by decide +kernel, by decide +kernel⟩, rfl, by decide, rfl, by decide +kernel⟩

/-- The last bank, free in one workgroup and held in the other. -/
theorem witness_CrucibleBanks :
    let w := dwg []
    let f := { dwg [] with cr := List.replicate 16 ⟨false, [], 0, []⟩ }
    let s := dst w []
    let n := fun (s : State) x => (val s iss (.imm x) 0).toNat
    let a : CrReq := ⟨5, 0, 2, [0], 15, 1, 3, 90, some 100⟩
    let b : CrReq := ⟨5, 0, 2, [0], 15, 1, 3, 90, none⟩
    (Plain s iss w ∧ Plain (dst f []) iss f ∧ s.ops = [] ∧ (∀ x ∈ w.cr, x.data.wf = true ∧ x.bad = []) ∧ act s iss g0 = [0] ∧ act (dst f []) iss g0 = [0] ∧
      CanTrap s iss w (vector s w) (act s iss g0)) ∧
    (1 ≤ n s 1 ∧ n s 16 ≤ 16 ∧ (15#4).toNat + n s 1 ≤ w.cr.length ∧ (0#4).toNat + n s 16 ≤ w.cr.length ∧ (∀ x ∈ (f.cr.drop 15).take 1, x.held = false) ∧
      (∀ x ∈ (w.cr.drop 0).take 16, x.held = true) ∧ w.cr.length < (15#4).toNat + n s 2 ∧ n s 0 = 0 ∧ 16 < n s 17) ∧
    (n s 0x1000_0000 / 2^12 % 16 = 0 ∧ n s 0x1000_0000 / 2^29 = 0 ∧ n s 0x1000_0000 / 2^16 % 2^13 = 4096 ∧ w.holdsRuns [(4096 * 15, 4096)] = true ∧
      n s 0x1001_0000 / 2^16 % 2^13 = 4097) ∧
    (∃ x : CrBank, w.cr[15]? = some x ∧ x.held = true ∧ ∀ l ∈ act s iss g0, (val s iss (.imm 4095) l).toNat + l % 32 < 4096) ∧
    ((∀ l ∈ act s iss g0, ∃ th : Thread, w.threads[l]? = some th ∧ th.ctr.m < 63) ∧ ∀ x : CrBank, f.cr[15]? = some x → x.held = false) ∧
    (let t := { dst f [] with crReqs := [a] }
     t.crReqs.find? (fun r => (r.due.map fun d => decide (d ≤ t.clk)).getD false && ((t.wg? r.wg).map t.wgRuns).getD false) = some a ∧ t.wg? a.wg = some f) ∧
    (let t := { dst { f with threads := [{ thr with st := .blocked (.cralloc 5) }] } [] with crReqs := [b] }
     (∀ q ∈ t.crReqs, t.crTids q ≠ []) ∧ b ∈ t.crReqs ∧ b.due = none ∧ (∀ q ∈ t.crReqs, q.core = b.core → b.id ≤ q.id) ∧
       t.freeBanks.banksUsed b.core + b.n ≤ 16) ∧
    (let t := { dst f [] with crReqs := [b], clk := 300, noProg := [(0, 44)] }
     t.noProg.find? (fun p => decide (p.2 + 256 ≤ t.clk) && t.noProgress p.1) = some (0, 44) ∧
       bestOf crYounger (t.crReqs.filter (·.core == 0)) = some b) := by
  refine ⟨⟨plain_dst rfl, plain_dst rfl, rfl, by decide +kernel, by decide +kernel, by decide +kernel,
      canTrap_of rfl (by decide) (by decide) (by decide +kernel)⟩, by decide +kernel, by decide +kernel,
    ⟨_, rfl, rfl, only0 (by decide +kernel) (by decide +kernel)⟩, ⟨all_ex (by decide +kernel), ?_⟩, ⟨by decide +kernel, rfl⟩, by decide +kernel, by decide +kernel⟩
  intro x h; cases h; rfl

theorem witness_Leases :
    let w := dwg []
    let s := dst w []
    let n := fun x => (val s iss (.imm x) 0).toNat
    let r : LeaseReq := ⟨0, 1, 2, 256, [0]⟩
    let y := { thr with st := .blocked (.lease 1) }
    let v : Workgroup := { dwg [] with threads := [y] }
    let t := { dst v [] with leaseReqs := [r] }
    (Plain s iss w ∧ w.leases.length = 3 ∧ act s iss g0 = [0] ∧ w.lease 0 = .held 2 2 ∧ (∀ r m, w.lease 1 ≠ .held r m) ∧ n 1 = 1 ∧ n 256 = 256 ∧ n 0 = 0 ∧
      n 257 = 257 ∧ CanTrap s iss w (vector s w) (act s iss g0)) ∧
    (t.leaseReqs.find? t.leaseNext = some r ∧ t.wg? r.wg = some v ∧ r.eng < v.leases.length ∧ v.threads[0]? = some y) := by
  refine ⟨⟨plain_dst rfl, rfl, by decide +kernel, rfl, ?_, by decide +kernel, by decide +kernel, by decide +kernel, by decide +kernel,
    canTrap_of rfl (by decide) (by decide) (by decide +kernel)⟩, by decide +kernel, rfl, by decide, rfl⟩
  intro r m h; cases h

/-- The pair of registers 4 and 5 as a map or a scan, and blocks of the dense pipe: 2 by 2 by 2 of FP32. -/
def pairWg (x : Word64) (ts : List Tile) : Workgroup := { dwg ts with waves := [wave [(4, lo x), (5, hi x)]] }
def mapA : Word64 := 0x10_0000_0200
def mapB : Word64 := 0x10_0000_0201
def scanWord : Word64 := 0x100_2001_0100
def mmaBlk (m itile : Byte) : List Byte := pad64 [0, 1, m, 2, 2, 0, 0, 0, 0, 0, 2, 0, itile]
def epiBlk (m flags : Byte) : List Byte :=
  pad64 ([0, 0, 0, 0, m, 0, 4, 0, 4, 0, 1, 0, 0, 0, 0, 0, flags, 0, 0, 0] ++ toBytes 4 0x3F80_0000 ++ toBytes 4 0xFF00)
def denseWg (ts : List Tile) : Workgroup := { dwg ts with slabs := [⟨false, [], [], []⟩], omaps := [some mapA, some mapB] }
def three (y : TileState) : List Tile := [tile0 .ready, tile0 y, tile0 .ready]

theorem witness_DenseSubmissions :
    let ts := three .empty
    let d := three .ready
    let x := fun (m : Word64) => (reg (dst (pairWg m ts) []) iss 5 0 ++ reg (dst (pairWg m ts) []) iss 4 0 : Word64)
    let w := pairWg mapA ts
    let s := dst w []
    let b := mmaBlk 2 0
    let g := mmaBlk 2 2
    let e := epiBlk 2 15
    let v := denseWg d
    let u := dst v b
    (Plain s iss w ∧ act s iss g0 = [0] ∧ w.threads[0]? = some thr ∧ thr.ctr.m < 63 ∧ CanTrap s iss w (vector s w) [0]) ∧
    ((x mapA).toNat / 2^9 % 8 < 4 ∧ (x mapA).toNat % 64 < w.tiles.length ∧ (x mapA).toNat / 2^36 % 256 ≠ 0 ∧ (x mapA).toNat / 2^44 = 0 ∧
      (x mapA).toNat / 2^6 % 4 = 0) ∧ 4 ≤ (x 0x10_0000_0800).toNat / 2^9 % 8 ∧ w.tiles.length ≤ (x 0x10_0000_0203).toNat % 64 ∧
    (x scanWord = scanWord ∧ scanLane (st0 s) (pairWg scanWord ts) scanWord (slotOf s iss 0) = .go ∧
      scanLane (st0 s) (pairWg scanWord ts) scanWord (slotOf s iss 1) = .fault 7 0 ∧ s.l1 = [] ∧
      scanLane (st0 s) (pairWg scanWord (tile0 .empty :: ts.drop 1)) scanWord (slotOf s iss 0) = .park (.ready 0)) ∧
    (OpAt u iss v g0 4 0 thr b ∧ OpAt (dst v g) iss v g0 4 0 thr g ∧ mmaLane v false b = (.go, mapA, mapB) ∧ mmaLane v true g = (.go, mapA, mapB) ∧
      (st0 u).leaseFate v 2 = .go ∧ mmaLane v false (mmaBlk 0 0) = (.fault 8 2, mapA, mapB) ∧
      mmaLane (denseWg (tile0 .filling :: d.drop 1)) false b = (.park (.ready 0), mapA, mapB) ∧ CanTrap u iss v (vector u v) [0]) ∧
    ((st0 u).leaseFate { v with leases := [.none, .none, .none] } 2 = .lost ∧ (st0 u).leaseFate { v with leases := [.none, .none, .spent 1] } 2 = .wait (some 1)) ∧
    (OpAt (dst (denseWg ts) e) iss (denseWg ts) g0 4 0 thr e ∧ epiLane (st0 (dst (denseWg ts) e)) (denseWg ts) 0 e (slotOf u iss (eSlot e % 8)) = .go ∧
      (denseWg ts).tiles[eTile e]? = some (tile0 .empty) ∧
      epiLane (st0 u) (denseWg ts) 0 (epiBlk 3 0) (slotOf u iss 0) = .fault 8 0x0C ∧ epiLane (st0 u) (denseWg (three .draining)) 0 e (slotOf u iss 0) = .park (.fill 1)) := by
  refine ⟨⟨plain_dst rfl, by decide +kernel, rfl, by decide, canTrap_of rfl (by decide) (by decide) (by decide +kernel)⟩, by decide +kernel, by decide +kernel,
    by decide +kernel, by decide +kernel,
    ⟨opAt_of rfl (by decide +kernel) rfl (by decide +kernel) (by decide +kernel), opAt_of rfl (by decide +kernel) rfl (by decide +kernel) (by decide +kernel),
      by decide +kernel, by decide +kernel, by decide +kernel, by decide +kernel, by decide +kernel, canTrap_of rfl (by decide) (by decide) (by decide +kernel)⟩, by decide +kernel,
    ⟨opAt_of rfl (by decide +kernel) rfl (by decide +kernel) (by decide +kernel), by decide +kernel, rfl, by decide +kernel, by decide +kernel⟩⟩

theorem below2 {m n : Nat} {p : Nat → Nat → Prop} (h : ∀ i, i < m → ∀ j, j < n → p i j) : ∀ i j, i < m → j < n → p i j :=
  fun i j hi hj => h i hi j hj

theorem lsBad_denseWg (ts : List Tile) {a : Nat} (h : a < 65536) : (denseWg ts).lsBad a = none := by
  have h3 : (denseWg ts).lsbytes = 65536 := rfl
  have h4 : (denseWg ts).slabs = [⟨false, [], [], []⟩] := rfl
  simp [Workgroup.lsBad, h3, h4, Nat.div_eq_of_lt h, Nat.not_le.2 h]

/-- Three elements scanned into the second tile; a plain epilogue of zeros with its bias, clearing the entries. -/
theorem witness_DenseOperationsRun :
    let d := three .ready
    let f := three .filling
    let v := denseWg d
    let o := { op0 .mma (mmaBlk 2 0) .queued with maps := [mapA, mapB] }
    let c := { op0 .mma (mmaBlk 2 0) (.running 100) with maps := [mapA, mapB], data := [[0, 0, 0, 0], [0, 0, 0, 0], [2]] }
    let z := { op0 .nzscan [] (.running 100) with desc := scanWord, slots := [1], data := [[0, 5, 0]] }
    let y : Tile := { tile0 .filling with arrived := 0, expected := 16 }
    let q := op0 .epi (epiBlk 2 15) .queued
    let e := { op0 .epi (epiBlk 2 15) (.running 100) with slots := [1], data := [[0, 0, 0, 0]] }
    let zw := denseWg [tile0 .ready, y, tile0 .ready]
    let fw := denseWg f
    let bx := tile1 .filling
    let bw := denseWg [tile0 .ready, bx, tile0 .ready]
    let be := { op0 .epi (pad64 ([0, 0, 0, 0, 2, 0, 32, 0, 32, 0, 1, 0, 0, 0, 0, 0, 8, 0, 16, 0] ++ toBytes 4 0x3F80_0000)) (.running 100) with slots := [0x0005_3022] }
    (let s := { dst v [] with ops := [o] }
     s.ops.find? s.denseNext = some o ∧ s.wg? 2 = some v ∧ v.poison = [] ∧ v.flips = []) ∧
    (let s := { dst v [] with ops := [c] }
     s.ops.find? (fun o => o.dense && o.due s.clk) = some c ∧ s.wg? 2 = some v ∧ EntriesSound s v (matrixRuns 0 2 2 2 1) ∧ dN c.blk ≤ dCld c.blk ∧ dCoff c.blk % 2 = 0) ∧
    (let s := { dst zw [] with ops := [z] }
     s.ops.find? (fun o => o.kind == .nzscan && o.due s.clk) = some z ∧ s.wg? 2 = some zw ∧ zw.tiles[zDst z.desc]? = some y ∧ y.view = none ∧
       y.st = .filling ∧ y.arrived = 0 ∧ y.expected ≤ 4 * (3 + 1) ∧ zw.window.wf = true ∧ (∀ x ∈ [0, 5, 0], x < 2^64) ∧ (∀ p ∈ s.ops, p.bad = false) ∧ descSwz y.desc < 2 ∧ (descSwz y.desc = 1 → descPitch y.desc = 128) ∧
       ∀ k i, k < 4 → i < 4 → zw.lsBad (tileAddr y.desc (k / (descPitch y.desc / 4)) (4 * (k % (descPitch y.desc / 4)) + i)) = none) ∧
    (let s := { dst v [] with ops := [q] }
     s.ops.find? (fun o => o.kind == .epi && s.opStartable o) = some q ∧ s.wg? 2 = some v) ∧
    (let s := { dst fw [] with ops := [e] }
     s.ops.find? (fun o => o.kind == .epi && o.due s.clk) = some e ∧ s.wg? 2 = some fw ∧ fw.tiles[eTile e.blk]? = some (tile0 .filling) ∧
       (tile0 .filling).ovf ≤ 0xFFFF ∧ fw.window.wf = true ∧ descSwz desc0 < 2 ∧ descSwz desc0 ≠ 1 ∧ eSrc e.blk = 0 ∧ blockMode 1 = false ∧ epiFields e.blk 1 (tile0 .filling) = none ∧ EntriesSound s fw e.runs ∧
       (∀ a, descBase desc0 ≤ a → a < descBase desc0 + descBytes desc0 + 4 → fw.lsBad a = none) ∧
       eTile e.blk = 1) ∧
    (let s := { dst bw [] with ops := [be] }
     s.ops.find? (fun o => o.kind == .epi && o.due s.clk) = some be ∧ s.wg? 2 = some bw ∧ bw.tiles[eTile be.blk]? = some bx ∧ bx.view = none ∧ bx.ovf ≤ 0xFFFF ∧
       bw.window.wf = true ∧ blockMode 0x0005_3022 = true ∧ anvWidth (slotElem 0x0005_3022) = 4 ∧ epiFields be.blk 0x0005_3022 bx = none ∧ descSwz bx.desc < 2 ∧
       descSwz bx.desc ≠ 1 ∧ EntriesSound s bw be.runs ∧ ∀ a, descBase bx.desc ≤ a → a < descBase bx.desc + descBytes bx.desc + 4 → bw.lsBad a = none) := by
  refine ⟨by decide +kernel, ⟨by decide +kernel, rfl, ⟨rfl, rfl, by decide, by decide +kernel, by decide +kernel, by decide +kernel⟩, by decide +kernel⟩,
    ⟨by decide +kernel, rfl, rfl, rfl, rfl, rfl, by decide, by decide +kernel, by decide, by decide, by decide +kernel, by decide +kernel, below2 (by decide +kernel)⟩, by decide +kernel,
    ⟨by decide +kernel, rfl, rfl, by decide, by decide +kernel, by decide, by decide, by decide +kernel, by decide +kernel, by decide +kernel, ⟨rfl, rfl, by decide, by decide +kernel, by decide +kernel, by decide +kernel⟩, ?_, by decide⟩, ⟨by decide +kernel, rfl, rfl, rfl, by decide, by decide +kernel, by decide +kernel, by decide +kernel, by decide +kernel, by decide, by decide, ⟨rfl, rfl, by decide, by decide, by decide +kernel, by decide +kernel, by decide +kernel⟩, ?_⟩⟩
  · intro a _ h
    have h1 : descBase desc0 + descBytes desc0 + 4 = 65524 := by decide
    exact lsBad_denseWg _ (by omega)
  · intro a _ h
    have h1 : descBase (tile1 .filling).desc + descBytes (tile1 .filling).desc + 4 ≤ 65536 := by decide
    exact lsBad_denseWg _ (by omega)

/-! Witnesses: results, threads, bundles. -/

/-- A result of thread 0: register 4, predicate 3, a flag. -/
def pend0 (load : Bool) (ctr : Option Ctr) : Pend :=
  { id := 9, seq := 9, due := 100, wg := 2, tids := [0], ctr := ctr, load := load, regs := regWrites [0] 4 (fun _ => 7) noImg, preds := [(0, 3, true)],
    flags := [(0, 1)], sys := [], poison := [], late := none, makes := [], deps := none }

/-- An older result of counter V that is still under way. -/
def oldPend : Pend := { pend0 false (some .v) with id := 8, seq := 8, due := 200, regs := [], preds := [], flags := [] }

/-- Every register image of a home wave, and a register with a write under way. -/
theorem witness_ImagesOfResults :
    let s := { base with cur := some { iss with tids := List.range 32 }, wgs := [{ wgrp with threads := List.replicate 32 thr }] }
    let p := { base with pend := [pend0 false (some .v)] }
    (s.cur = some { iss with tids := List.range 32 } ∧ (List.range 32).Nodup ∧ ∀ j, j < 32 → j ∈ act s { iss with tids := List.range 32 } g0) ∧
    (p.pend = [pend0 false (some .v)] ∧ (pend0 false (some .v)).writesReg 2 0 4 = true ∧ (pend0 false (some .v)).late = none) ∧
    ∀ q ∈ p.pend, q.writesReg 2 0 5 = false := by decide +kernel

theorem witness_ResultsLand :
    let s := { base with pend := [pend0 false (some .v)] }
    let l := { base with pend := [pend0 true none] }
    let o := { base with pend := [oldPend, pend0 false (some .v)] }
    let p := pend0 false (some .v)
    (s.nextLanding false = some p ∧ l.nextLanding true = some (pend0 true none) ∧ o.nextLanding false = some p ∧ s.wg? p.wg = some wgrp ∧
      p.makes = [] ∧ s.l1 = []) ∧
    WritesSound (s.lateWrites p) ∧ (p.preds.map fun x => (x.1, x.2.1)).Nodup ∧ (p.flags.map (·.1)).Nodup ∧ p.tids.Nodup ∧ (∀ th ∈ wgrp.threads, th.fell = [] ∧ th.born ≤ p.seq) ∧
    { s with pend := s.pend.filter (·.id != p.id) }.older 2 0 .v 9 = false ∧ { o with pend := o.pend.filter (·.id != p.id) }.older 2 0 .v 9 = true := by
  refine ⟨⟨by decide +kernel, by decide +kernel, by decide +kernel, rfl, rfl, rfl⟩, ⟨by decide +kernel, ?_⟩, by decide, by decide, by decide, by decide +kernel,
    by decide +kernel, by decide +kernel⟩
  intro x h
  have hx : x = ⟨0, 4, none, [(0, 7)]⟩ := by simpa using (show x ∈ [(⟨0, 4, none, [(0, 7)]⟩ : RegWrite)] from h)
  subst hx
  exact ⟨by decide, by decide, by decide⟩

def wth (st : TStatus) : Thread := { thr with st := st }
def stWg (st : TStatus) : Workgroup := { wgrp with threads := [wth st] }

theorem witness_WaitingThreadsAreWoken :
    let trap : TrapRec := ⟨1, 0, 0x1004, 0⟩
    let a := { base with wgs := [stWg (.trapping trap)] }
    let wd := { ctxt with desc := { ctxt.desc with wdlimit := 5 }, wdcount := 5 }
    let b := fun st => { base with wgs := [stWg st], contexts := [wd] }
    let b0 := fun st => (b st).updCtx 0 fun c => { c with wdcount := 0 }
    let bp := fun (g : Word) => { bc fun x => { x with dbgctl := g, dbgbp := [0x1008, 0, 0, 0x1008] } with clk := 100 }
    let bun := base.bundles.headD ⟨0, 0, 0, [], 0, none, 0, 0, 0, 0, [], none, none⟩
    ((a.wgs.map Workgroup.uid).Nodup ∧ ∃ w ∈ a.wgs, ∃ (l : Nat) (th : Thread) (r : TrapRec), w.threads[l]? = some th ∧ th.st = .trapping r ∧
      a.outstanding w.uid l = false) ∧
    (∀ st ∈ [TStatus.blocked (.bar 0 0), .held], 0 < (b st).contexts.length ∧ wdLimit ((b st).ctx 0) ≤ ((b st).ctx 0).wdcount ∧
      (stWg st).threads = [wth st] ∧ (b0 st).waitsInside (stWg st) (wth st) = true ∧ (wth st).priv = false ∧ vector (b0 st) (stWg st) ≠ 0 ∧
      (b0 st).outstanding 2 0 = false) ∧
    (∀ g ∈ [(0x90#32), 0x91], (bp g).nextIssue = some bun) ∧ bun.tids = [0] ∧ bun.wg = 2 ∧ thr.skipBp = false ∧ (bp 0x90).halted 0 = false ∧
    (bun.hdr + BitVec.ofNat 48 (4 * (bun.idx + 1))).toNat = 0x1008 ∧ ((bp 0x90).ctx 0).dbgctl.getLsbD 4 = true ∧ ((bp 0x91).ctx 0).dbgctl.getLsbD 0 = true ∧
    (((bp 0x80).ctx 0).dbgctl.getLsbD 7 = true ∧ ∀ j, j < 3 → ((bp 0x80).ctx 0).dbgctl.getLsbD (4 + j) = false) ∧
    (((bp 0x90).ctx 0).dbgbp.getD 0 0).toNat / 4 % 2^46 = 0x1008 / 4 := by
  refine ⟨⟨by decide, _, List.mem_singleton.2 rfl, 0, _, _, rfl, rfl, by decide +kernel⟩, by decide +kernel, ?_, by decide, by decide, by decide, by decide +kernel,
    by decide +kernel, by decide +kernel, by decide +kernel, by decide +kernel, by decide +kernel⟩
  intro g hg
  simp only [List.mem_cons, List.not_mem_nil, or_false] at hg
  obtain h | h := hg <;> subst h <;> decide +kernel

theorem witness_SleepBlocksAndReturns :
    let s := { base with wgs := [stWg (.blocked (.sleep 100))] }
    (base.cur = some iss ∧ base.wg? iss.wg = some wgrp ∧ (val base iss (.imm 0) 0).toNat = 0 ∧ (val base iss (.imm 9) 0).toNat = 9) ∧
    ∃ w ∈ s.wgs, s.wgRuns w = true ∧ ∃ (l : Nat) (th : Thread) (till : Nat), w.threads[l]? = some th ∧ th.st = .blocked (.sleep till) ∧ till ≤ s.clk :=
  ⟨⟨rfl, rfl, by decide +kernel, by decide +kernel⟩, _, List.mem_singleton.2 rfl, by decide +kernel, 0, _, 100, rfl, rfl, by decide⟩

theorem witness_YieldDeadlineStopsTheWorkgroup :
    let s := { base with bundles := [], wgs := [{ wgrp with threads := [wth (.blocked (.yield 1)), wth (.blocked (.bar 0 0))], yreq := true, ydeadline := 0 }] }
    (s.wgs.map Workgroup.uid).Nodup ∧ s.nextIssue = none ∧ ∃ w ∈ s.wgs, w.yreq = true ∧ w.ydeadline % 2^32 = 0 ∧ w.allYielded = false :=
  ⟨by decide, by decide +kernel, _, List.mem_singleton.2 rfl, rfl, by decide, by decide +kernel⟩

/-- A pair whose copies have both reached point 5, with equal signatures at point 1 and with others. -/
theorem witness_CommitPointsAreCompared :
    let r := fun (x : Word64) => { lead with sigs := [(1, x)] }
    let q := { lead with trailing := true, partner := 2, sigs := [(1, 7)] }
    let w := fun x => { wgrp with redun := some (r x) }
    let v := { wgrp with uid := 4, redun := some q }
    let s := fun x => { base with wgs := [w x, v] }
    ((s 7).wgs = [w 7, v] ∧ (w 7).uid ≠ v.uid ∧ (r 7).trailing = false ∧ q.trailing = true ∧ (r 7).screen = false ∧ (r 7).partner = v.uid ∧
      q.partner = (w 7).uid ∧ (r 7).matched = q.matched ∧ (r 7).matched < (r 7).point ∧ (r 7).matched < q.point ∧ (r 7).rel = [] ∧ q.rel = []) ∧
    ((r 7).sigs.lookup 1 = q.sigs.lookup 1 ∧ 1 ∉ (r 7).bad ∧ 1 ∉ q.bad ∧ ∀ e ∈ (r 7).buf, 1 < e.point) ∧
    ((r 8).sigs.lookup 1 ≠ q.sigs.lookup 1 ∧ (r 8).rollbacks = 0) :=
  ⟨⟨rfl, by decide, rfl, rfl, rfl, rfl, rfl, rfl, by decide, by decide, rfl, rfl⟩, ⟨by decide, by decide, by decide, by decide⟩, by decide, rfl⟩

/-- A clause of one EXIT, one with words after its EXIT, one of no words, and one entered in its middle. -/
def clauseMem (h : Nat) : Mem := tables.write 0x4000 (toBytes 4 h ++ toBytes 4 0x0804_0000)

theorem witness_BundlesFormAndFetch :
    let w := { wgrp with threads := [{ thr with st := .ready }] }
    let s := { base with wgs := [w], bundles := [] }
    let b : Bundle := { id := 3, core := 0, wg := 2, tids := [0], hdr := 0x4000, words := none, idx := 0, cls := 0, formed := 0, notBefore := 0,
                        rest := [], crwr := none, tlbi := none }
    let f := fun h => { base with mem := clauseMem h, bundles := [b] }
    let m : Bundle := { b with idx := 1 }
    let g := { base with mem := tables.write 0x4000 (toBytes 4 0xA0000042 ++ toBytes 4 0 ++ toBytes 4 0x0804_0000), bundles := [m] }
    (s.wgs = [w] ∧ s.clk % 4 = 0 ∧ s.ports = [] ∧ s.halted w.ctx = false ∧ (∀ l ∈ [0], ∀ th : Thread, w.threads[l]? = some th → th.pc = 0x1008 ∧ th.mid = none ∧ s.clk < th.since + 1024) ∧
      ∀ l, l ∈ [0] ↔ ∃ th : Thread, w.threads[l]? = some th ∧ s.candidate w l th = true) ∧
    ((∃ th : Thread, wgrp.threads[0]? = some th ∧ th.poison = none) ∧ (f 0xA0000041).codeWord wgrp b.hdr.toNat = .ok 0xA0000041 ∧ 0xA0000041 / 2^29 = 5 ∧
      (f 0xA0000041).codeWords wgrp (b.hdr.toNat + 4) 1 = .ok [0x0804_0000] ∧ clauseOk 4 1 0 false [0x0804_0000] = true ∧
      isInstrWord false b.idx [0x0804_0000] = true ∧ b.tids ≠ [] ∧ b.tids.Nodup) ∧
    (g.codeWord wgrp m.hdr.toNat = .ok 0xA0000042 ∧ g.codeWords wgrp (m.hdr.toNat + 4) 2 = .ok [0, 0x0804_0000] ∧ clauseOk 4 2 0 false [0, 0x0804_0000] = true ∧
      m.idx < 2 ∧ isInstrWord false m.idx [0, 0x0804_0000] = true) ∧
    ((f 0xA0000042).codeWords wgrp (b.hdr.toNat + 4) 2 = .ok [0x0804_0000, 0] ∧ clauseOk 4 2 0 false [0x0804_0000, 0] = false) ∧
    (f 0xA0000040).codeWord wgrp b.hdr.toNat = .ok 0xA0000040 ∧
    (base.codeWord wgrp (7 * 2^30) = .error (4, 7 * 2^30) ∧ 4 ≠ 0x0F) ∧
    (vector (f 0) wgrp ≠ 0 ∧ thr.priv = false ∧ (f 0).outstanding 2 0 = false) := by
  refine ⟨⟨rfl, by decide, rfl, by decide +kernel, ?_, ?_⟩, ⟨⟨_, rfl, rfl⟩, ok_of (by decide +kernel), by decide, ok_of (by decide +kernel), by decide +kernel⟩,
    ⟨ok_of (by decide +kernel), ok_of (by decide +kernel), by decide +kernel⟩, ⟨ok_of (by decide +kernel), by decide +kernel⟩, ok_of (by decide +kernel), ⟨error_of (by decide +kernel), by decide⟩, by decide +kernel⟩
  · intro l hl th h
    simp at hl; subst hl; cases h; decide
  · intro l
    refine ⟨fun h => ?_, fun ⟨th, h, _⟩ => ?_⟩
    · simp at h; subst h; exact ⟨_, rfl, by decide +kernel⟩
    · cases l with
      | zero => simp
      | succ n => cases h

/-! Witnesses: dies, links, the host, power, other packages. -/

def die0 (st : DieState) (a z : Nat) (m : Bool) : Die := { Die.reset with state := st, assayAt := some (a, z), measure := m }

theorem witness_AssaysAndPackageReset :
    let s := fun (x : Die) clk => { base with dies := [x], clk := clk, wgs := [stWg (.blocked (.asgn 0 4))] }
    let due := fun (s : State) (early : Bool) (x : Die) => ∃ a z, x.assayAt = some (a, z) ∧
      if early then z ≤ s.clk ∧ z < a + 90000000 else a + 90000000 ≤ s.clk ∧ a + 90000000 ≤ z
    (((s (die0 .assay 90 100 false) 100).wgs.map Workgroup.uid).Nodup ∧ (∀ p ∈ (s (die0 .assay 90 100 false) 100).pend, p.id < 10)) ∧
    due (s (die0 .assay 90 100 false) 100) true (die0 .assay 90 100 false) ∧ due (s (die0 .live 90 100 true) 100) true (die0 .live 90 100 true) ∧
    due (s (die0 .reassay 100 90000100 false) 90000100) false (die0 .reassay 100 90000100 false) ∧
    (State.reset.dies.length = 68 ∧ (∀ x ∈ State.reset.dies, x.assayAt = none) ∧ State.reset.resetEnded = false) ∧
    (base.resetEnded = true ∧ base.mem.wf = true ∧ base.pkgid = 0) := by
  refine ⟨by decide, ⟨_, _, rfl, by decide⟩, ⟨_, _, rfl, by decide⟩, ⟨_, _, rfl, by decide⟩, by decide +kernel, by decide +kernel⟩

/-- Link 2 of die 0: trained from closed, failing once and for the ninth time; a key install that is due, a direction that rolls. -/
theorem witness_LinkEvents :
    let l : Link := { Link.reset 2 with state := .open_ }
    let s := fun (l : Link) => { base with links := [l] }
    let f : Link := { l with failures := 8, lastFail := 99 }
    let r : Link := { l with state := .rolling, d0 := { LinkDir.reset with rolling := true, switched := true } }
    let k : KeyInst := ⟨5, 2, 0, 7, 1, 100⟩
    (∃ x ∈ (s (Link.reset 2)).links, (s (Link.reset 2)).linkTrains x = true) ∧ (∀ d ∈ linkEnds 2 ++ [64, 65, 66, 67], base.dieLive d = true) ∧
    ((s l).link? (2#9).toNat = some l ∧ l.state ≠ .closed ∧ 9 ≤ (if (s f).clk ≤ f.lastFail + 1 then f.failures + 1 else 1) ∧
      (if (s l).clk ≤ l.lastFail + 1 then l.failures + 1 else 1) < 9 ∧ (s f).dieLive (resetEnd 2) = true) ∧
    (let t := { s l with keyInsts := [k], keyStore := [7] }
     (∃ k ∈ t.keyInsts, k.due ≤ t.clk) ∧ t.link? 2 = some l ∧ k.handle ∈ t.keyStore ∧ l.dirOpen (canonDir 2 0) = true ∧ (l.dir (canonDir 2 0)).gen + 1 = k.gen) ∧
    ((l.dir (canonDir 2 0)).flits < 2^39 ∧ 2^39 ≤ ({ l with d0 := { l.d0 with flits := 2^39 }, d1 := { l.d1 with flits := 2^39 } }.dir (canonDir 2 0)).flits) ∧
    ((r.dir (canonDir 2 0)).rolling = true ∧ (r.dir (canonDir 2 0)).switched = true ∧ canonLink 2 = 2) := by
  refine ⟨⟨_, List.mem_singleton.2 rfl, by decide +kernel⟩, by decide +kernel, by decide +kernel, ⟨⟨_, List.mem_singleton.2 rfl, by decide⟩, by decide +kernel⟩, by decide +kernel, by decide +kernel⟩

/-- The last bytes of HBM and the first of host memory; a sector that a command owns. -/
theorem witness_HostWrites :
    let o := { base with owned := [(0x4100 / 128, .cmd 5)] }
    let far := { ctxt with state := .stopped }
    base.mem.wf = true ∧ base.inputSecure = false ∧ { base with inputSecure := true }.inputSecure = true ∧ (∀ x ∈ [0x5FFFFFFFFE, 0x5FFFFFFFFE + 2 - 1], x / 2^43 = base.pkgid.toNat ∧ (x % 2^43 < 0x6000000000 ∨ 0x40000000000 ≤ x % 2^43)) ∧
    (∀ x ∈ [0x40000000000, 0x40000000000 + 2 - 1], x / 2^43 = base.pkgid.toNat ∧ (x % 2^43 < 0x6000000000 ∨ 0x40000000000 ≤ x % 2^43)) ∧
    (∀ x ∈ o.owned, x.1 < 0x4180 / 128 ∨ 0x4181 / 128 < x.1) ∧
    (∀ a ∈ [0x4180, 0x5FFFFFFFFE, 0x40000000000], o.waveHolds a 2 = false ∧ o.pathHeld 64 a = false) ∧ (∃ x ∈ o.owned, 0x417F / 128 ≤ x.1 ∧ x.1 ≤ 0x4180 / 128) ∧
    (base.pkgidSet = false ∧ (431#16).toNat ≤ 431 ∧ ∀ c ∈ base.mem, c.1 < 2^43) ∧ (∃ c ∈ base.contexts, c.state = .running) ∧
    (∀ c ∈ ({ base with contexts := [far] } : State).contexts, c.state ≠ .running) ∧
    (base.windows[63]? = some TaskWin.reset ∧ TaskWin.reset.words.length = 7 ∧ TaskWin.reset.busy = false) := by
  refine ⟨by decide +kernel, rfl, rfl, by decide, by decide, by decide +kernel, by decide +kernel, by decide +kernel, by decide +kernel, ⟨_, List.mem_singleton.2 rfl, rfl⟩, ?_, by decide +kernel⟩
  intro c h
  cases List.mem_singleton.1 h
  decide

theorem witness_PermitGrants :
    let o := op0 (.amv 0) (amvBlk 2 4088) .queued
    let d := List.replicate 68 { Die.reset with state := .live }
    let s := fun (x : Word) => { dst (dwg [tile1 .ready]) [] with dies := d, ops := [o], permitAt := 100, allow := x }
    ((s 2360).dies.length = 68 ∧ (s 2360).permitAt ≤ (s 2360).clk) ∧ (s 2360).permitDemand 0 = (2, 0) ∧ 134 * 2 + 930 * 0 ≤ 1000 * (2360#32).toNat ∧
    1000 * (0#32).toNat < 134 * 2 + 930 * 0 := by decide +kernel

theorem witness_LimitsMirrorsAndOtherPackages :
    let r : RalpexReq := ⟨2, 0, 2^43 + 0x4100, [1, 2], 100, 101, none⟩
    let m : Nat × Nat × Nat × Nat := (2, 0, 100, 0x4100)
    let s := { base with ralpex := [r], mirrors := [m], scrubAt := 100 }
    (s.dies[(63#7).toNat]? ≠ none ∧ s.stackCap[(71#7).toNat - 64]? ≠ none) ∧
    (s.mem.wf = true ∧ s.l1 = [] ∧ (∀ w, s.wg? r.wg = some w → w.ctx < 64) ∧ r.deadline ≤ s.clk + 1 ∧ r.deadline ≤ { s with clk := 101 }.clk) ∧ (s.mirrors = m :: [] ∧ m.2.2.1 ≤ s.clk) ∧
    (s.scrubAt ≤ s.clk ∧ (s.wgs.map Workgroup.uid).Nodup) ∧
    (let e := { base with pkgidSet := true, links := [{ Link.reset 256 with state := .open_ }], route := [(1, 0xFF)] }
     r.due ≤ e.clk ∧ e.pkgReachable r.pa = true ∧ e.pathHeld 64 r.pa = false ∧ r.due < r.deadline ∧ e.mem.wf = true) ∧
    (s.cmds = [] ∧ s.cmds.find? (fun q : Cmd => q.id == 5) = none) := by
  refine ⟨by decide +kernel, ⟨by decide +kernel, rfl, ?_, by decide, by decide⟩, ⟨rfl, by decide⟩, ⟨by decide, by decide⟩, by decide +kernel, ⟨rfl, rfl⟩⟩
  intro w h
  cases (show some wgrp = some w from h)
  decide

/-! Witnesses: decoding and the step. -/

theorem witness_DecodeAfterEncode : wellFormed (.add g0 4 (.reg 3) (.imm 0x10)) = true ∧ wellFormed (.ld g0 1 4 8 (.ext 0)) = true := by decide

theorem witness_EncodeAfterDecode : decode [0x1100_40FF, 0x10, 7] = .ok (.add g0 4 (.reg 3) (.imm 0x10), 2) := ok_of (by decide)

/-- Right after reset with an ADD, with a word of major opcode 13, and in a launch of 4 registers. -/
def fetched (w regs : Nat) : State :=
  let s := State.reset.withFetchWord 64 w
  { s with wgs := s.wgs.map fun x => { x with regs := regs } }

theorem witness_StepRunsTheDecodedInstruction :
    let s := fetched 0x10_1100_40FF
    let b := (s 64).bundles.headD ⟨0, 0, 0, [], 0, none, 0, 0, 0, 0, [], none, none⟩
    ((∀ x ∈ (s 64).inputs, (s 64).clk < x.due) ∧ dueEvent (s 64) = none ∧ (s 64).nextIssue = some b ∧ b.words = some [0x1100_40FF, 0x10] ∧ b.wg = 2) ∧
    (dueEvent (s 4) = none ∧ (s 4).nextIssue = some b) ∧ decode ([0x1100_40FF, 0x10].drop b.idx) = .ok (.add g0 4 (.reg 3) (.imm 0x10), 2) ∧
    ((∀ r ∈ regsOf (.add g0 4 (.reg 3) (.imm 0x10)), r < 64) ∧ ∃ r ∈ regsOf (.add g0 4 (.reg 3) (.imm 0x10)), 4 ≤ r) ∧
    txAdmits (.add g0 4 (.reg 3) (.imm 0x10)) = true ∧ probeWorkgroup.redun = none ∧
    (dueEvent (fetched 0x0D00_0000 64) = none ∧ (fetched 0x0D00_0000 64).nextIssue.isSome = true ∧ (errOf (decode [0x0D00_0000, 0])).isSome = true) := by
  refine ⟨by decide +kernel, by decide +kernel, ok_of (by decide +kernel), by decide, by decide +kernel, by decide +kernel, by decide +kernel⟩

theorem witness_StepTakesInputsThenEventsThenTime :
    let e : Input := ⟨100, true, .allowWrite 7⟩
    let q := { fetched 0 64 with bundles := [] }
    (({ base with inputs := [e] } : State).inputs.find? (fun x => decide (x.due ≤ base.clk)) = some e ∧ isInput e.msg = true) ∧
    (∀ x ∈ State.reset.inputs, State.reset.clk < x.due) ∧ dueEvent State.reset = some .packageReset ∧
    ((∀ x ∈ q.inputs, q.clk < x.due) ∧ dueEvent q = none ∧ q.nextIssue = none) := by
  refine ⟨⟨by decide, rfl⟩, by decide, by decide +kernel, by decide +kernel⟩

theorem witness_StepKeepsMemoryCanonical : base.mem.wf = true ∧ State.reset.mem.wf = true := by decide +kernel

theorem witness_MemoryReadsWhatWasWritten :
    let m : Mem := [(5, 1)]
    m.wf = true ∧ Mem.wf [] = true ∧ 4 < 5 := by decide
/-! Decoding: for every instruction a word put together from its class's encoding table: the switch marker, guard p5, registers 20, 8, 10, 12 and 16,
predicates 3, 6 and 2, the extension word 0x1234 where the row takes one. -/

def gd : Guard := ⟨true, 5⟩
def gu : Guard := ⟨true, 0⟩

/-- The words decode to the instruction, all of them are its own, and it is well-formed. -/
def decodes (x : List Word × Instr) : Bool := decide ((decode x.1).toOption = some (x.2, x.1.length)) && wellFormed x.2 && decide (encode x.2 = x.1)

def words_control : List (List Word × Instr) :=
  ([([0x80A00000], .nop gd), ([0x811ABCDE], .bra gu 0x1abcde), ([0x82BABCDE], .brp gd 0x1abcde), ([0x83BABCDE], .brn gd 0x1abcde),
   ([0x84A00280], .brx gd (.reg 10)), ([0x85A00200], .jmp gd 8), ([0x85A54200], .callr gd 20 8), ([0x85A80000], .ret gd),
   ([0x86BABCDE], .call gd 0x1abcde), ([0x87BABCDE], .meet gd 0x1abcde), ([0x88A00000], .unmeet gd),
   ([0x88A40000], .exit gd)] : List (List Word × Instr)) ++
  ([([0x89A03181], .voteAny gd 3 6 1), ([0x89A43181], .voteAll gd 3 6 1), ([0x89A94181], .voteBallot gd 20 6 1),
   ([0x8AA142BF, 0x1234], .shflIdx gd 20 (.reg 10) (.imm 0x1234)), ([0x8AA542BF, 0x1234], .shflUp gd 20 (.reg 10) (.imm 0x1234)),
   ([0x8AA942BF, 0x1234], .shflDown gd 20 (.reg 10) (.imm 0x1234)), ([0x8AAD42BF, 0x1234], .shflXor gd 20 (.reg 10) (.imm 0x1234)),
   ([0x8BA14282], .shape gd 20 (.reg 10) 2), ([0x8BA54280], .tagq gd 20 (.reg 10)), ([0x8BA94280], .movx gd 20 (.reg 10)),
   ([0x8BAC02BF, 0x1234], .movxw gd (.reg 10) (.imm 0x1234))] : List (List Word × Instr))

theorem test_decode_control : words_control.all decodes = true := by decide +kernel

def words_integer : List (List Word × Instr) :=
  ([([0x90A14200], .mov gd 20 8), ([0x90A54000, 0x1234], .movi gd 20 0x1234), ([0x90A94000, 0x1234], .movh gd 20 0x1234),
   ([0x91A142BF, 0x1234], .add gd 20 (.reg 10) (.imm 0x1234)), ([0x91A542BF, 0x1234], .addc gd 20 (.reg 10) (.imm 0x1234)),
   ([0x91A942BF, 0x1234], .sub gd 20 (.reg 10) (.imm 0x1234)), ([0x91AD42BF, 0x1234], .subb gd 20 (.reg 10) (.imm 0x1234)),
   ([0x91B14280], .neg gd 20 (.reg 10)), ([0x91B54280], .abs gd 20 (.reg 10)), ([0x92A142BF, 0x1234], .mul gd 20 (.reg 10) (.imm 0x1234)),
   ([0x92A542BF, 0x1234], .mulhI gd 20 (.reg 10) (.imm 0x1234)),
   ([0x92A942BF, 0x1234], .mulhN gd 20 (.reg 10) (.imm 0x1234))] : List (List Word × Instr)) ++
  ([([0x92AD42BF, 0x1234], .mad gd 20 (.reg 10) (.imm 0x1234)), ([0x92B142BF, 0x1234], .madwI gd 20 (.reg 10) (.imm 0x1234)),
   ([0x92B542BF, 0x1234], .madwN gd 20 (.reg 10) (.imm 0x1234)), ([0x93A142BF, 0x1234], .minI gd 20 (.reg 10) (.imm 0x1234)),
   ([0x93A542BF, 0x1234], .minN gd 20 (.reg 10) (.imm 0x1234)), ([0x93A942BF, 0x1234], .maxI gd 20 (.reg 10) (.imm 0x1234)),
   ([0x93AD42BF, 0x1234], .maxN gd 20 (.reg 10) (.imm 0x1234)), ([0x94A142BF, 0x1234], .and gd 20 (.reg 10) (.imm 0x1234)),
   ([0x94A542BF, 0x1234], .or gd 20 (.reg 10) (.imm 0x1234)), ([0x94A942BF, 0x1234], .xor gd 20 (.reg 10) (.imm 0x1234)),
   ([0x94AD4280], .not gd 20 (.reg 10)), ([0x95A142BF, 0x1234], .shl gd 20 (.reg 10) (.imm 0x1234))] : List (List Word × Instr)) ++
  ([([0x95A542BF, 0x1234], .shr gd 20 (.reg 10) (.imm 0x1234)), ([0x95A942BF, 0x1234], .sar gd 20 (.reg 10) (.imm 0x1234)),
   ([0x95AD42BF, 0x1234], .rot gd 20 (.reg 10) (.imm 0x1234)), ([0x96A142BF, 0x1234], .bfxI gd 20 (.reg 10) (.imm 0x1234)),
   ([0x96A542BF, 0x1234], .bfxN gd 20 (.reg 10) (.imm 0x1234)), ([0x96A9420C, 0x403], .bfi gd 20 8 12 0x0403),
   ([0x97A14280], .popc gd 20 (.reg 10)), ([0x97A54280], .clz gd 20 (.reg 10)), ([0x97A94280], .brev gd 20 (.reg 10)),
   ([0x98A942BF, 0x1234], .sel gd 2 20 (.reg 10) (.imm 0x1234)), ([0x99A832BF, 0x1234], .icmp gd 2 3 (.reg 10) (.imm 0x1234)),
   ([0x9AA03182, 0x9601], .plop gd 3 6 2 0x9601)] : List (List Word × Instr)) ++
  ([([0x9BA1423F, 0x1234], .adda gd 20 8 (.imm 0x1234)), ([0x9BA5403F, 0x1234], .lea gd 20 (.imm 0x1234))] : List (List Word × Instr))

theorem test_decode_integer : words_integer.all decodes = true := by decide +kernel

def words_floating : List (List Word × Instr) :=
  ([([0xA0A942BF, 0x1234], .fadd gd 2 20 (.reg 10) (.imm 0x1234)), ([0xA1A942BF, 0x1234], .fsub gd 2 20 (.reg 10) (.imm 0x1234)),
   ([0xA2A942BF, 0x1234], .fmul gd 2 20 (.reg 10) (.imm 0x1234)), ([0xA3A942BF, 0x1234], .ffma gd 2 20 (.reg 10) (.imm 0x1234)),
   ([0xA4A942BF, 0x1234], .fmin gd 2 20 (.reg 10) (.imm 0x1234)), ([0xA5A942BF, 0x1234], .fmax gd 2 20 (.reg 10) (.imm 0x1234)),
   ([0xA6A942BF, 0x1234], .fcmp gd 2 20 (.reg 10) (.imm 0x1234)), ([0xA7A94280], .fclass gd 2 20 (.reg 10)),
   ([0xA8A94280], .fsqrt gd 2 20 (.reg 10)), ([0xA9A942BF, 0x1234], .fdiv gd 2 20 (.reg 10) (.imm 0x1234)),
   ([0xAAA94280], .frcp gd 2 20 (.reg 10)), ([0xABA94280], .frsq gd 2 20 (.reg 10))] : List (List Word × Instr)) ++
  ([([0xACA94280], .fex2 gd 2 20 (.reg 10)), ([0xADA94280], .flg2 gd 2 20 (.reg 10)), ([0xAEAD4280], .fsin gd 3 20 (.reg 10)),
   ([0xAFAD4280], .fcos gd 3 20 (.reg 10)), ([0xB0A54284], .cvt gd 1 20 (.reg 10) 4), ([0xB1A94290], .cvtr gd 2 20 (.reg 10) 0x10),
   ([0xB2A942BF, 0x1234], .bpack gd 2 20 (.reg 10) (.imm 0x1234)), ([0xB3A942BF, 0x1234], .bunpack gd 2 20 (.reg 10) (.imm 0x1234)),
   ([0xB4A14282], .bscaleRead gd 20 (.reg 10) 2), ([0xB4A54282], .bscaleWrite gd 20 (.reg 10) 2), ([0xB5A14280], .fmtq gd 20 (.reg 10)),
   ([0xB5A54002], .fmtqSlot gd 20 2)] : List (List Word × Instr)) ++
  ([([0xB5A94002], .fmtqElem gd 20 2), ([0xB6A142BF, 0x1234], .fpack2 gd 20 (.reg 10) (.imm 0x1234)),
   ([0xB6A542BF, 0x1234], .funpk2 gd 20 (.reg 10) (.imm 0x1234))] : List (List Word × Instr))

theorem test_decode_floating : words_floating.all decodes = true := by decide +kernel

def words_memory : List (List Word × Instr) :=
  ([([0xB8A94211], .ld gd 2 20 8 (.scaled 17)), ([0xB9A94211], .st gd 2 20 8 (.scaled 17)), ([0xBAA94211], .ldu gd 2 20 8 (.scaled 17)),
   ([0xBBA94211], .ldl gd 2 20 8 (.scaled 17)), ([0xBCA94211], .stl gd 2 20 8 (.scaled 17)), ([0xBDA80211], .pref gd 2 8 (.scaled 17)),
   ([0xBEA40221], .tdef gd 1 8 33), ([0xBFA00021], .tfree gd 33), ([0xC0A94021], .tqry gd 2 20 33), ([0xC1A9420C, 0x43], .tld gd 2 20 8 12 0x43),
   ([0xC2A5420C, 0x43], .tst gd 1 20 8 12 0x43), ([0xC3A1420C, 0x5], .ldtr gd 20 8 12 0x05)] : List (List Word × Instr)) ++
  ([([0xC4A54000], .lserrq gd 1 20), ([0xC5A80211], .cctl gd 2 8 (.scaled 17))] : List (List Word × Instr))

theorem test_decode_memory : words_memory.all decodes = true := by decide +kernel

def words_ordering : List (List Word × Instr) :=
  ([([0xC8A00FC5, 0x142], .fence gd 5 0x142), ([0xC9A00009], .bar gd 9), ([0xCAA00289], .barx gd (.reg 10) 9), ([0xCBA00000], .gsync gd),
   ([0xCCA54289], .arrive gd 1 20 (.reg 10) 9), ([0xCDA00289], .awaitb gd (.reg 10) 9), ([0xCEB54211], .waitv gd 5 20 8 (.scaled 17)),
   ([0xCFA94211], .lda gd 2 20 8 (.scaled 17)), ([0xD0A94211], .strl gd 2 20 8 (.scaled 17)), ([0xD1A1420C, 0x500], .atom gd 0 20 8 12 0x500),
   ([0xD2A5420C, 0x400], .atomc gd 1 20 8 12 0x400), ([0xD3A0020C, 0xd40], .red gd 8 12 0xD40)] : List (List Word × Instr)) ++
  ([([0xD4BABCDE], .tbegin gd 0x1abcde), ([0xD5A00000], .tend gd), ([0xD6A0003F, 0x1234], .tabort gd (.imm 0x1234)),
   ([0xD7A14000], .tstat gd 20)] : List (List Word × Instr))

theorem test_decode_ordering : words_ordering.all decodes = true := by decide +kernel

def words_copy_and_hearth : List (List Word × Instr) :=
  ([([0xD8A00200], .cpy gd 8), ([0xD9A00200], .cpyg gd 8), ([0xDAA00200], .cpys gd 8), ([0xDBA00200], .cpyx gd 8), ([0xDCA00009], .cqbind gd 9),
   ([0xDDA94009], .cqstat gd 2 20 9), ([0xDEA00009], .cqdrain gd 9), ([0xDFA00200], .hlut gd 8), ([0xE0A00200], .hlutw gd 8),
   ([0xE1A54280], .hsum gd 1 20 (.reg 10))] : List (List Word × Instr))

theorem test_decode_copy_and_hearth : words_copy_and_hearth.all decodes = true := by decide +kernel

def words_anvil : List (List Word × Instr) :=
  ([([0xE4A40009], .slabm gd 1 9), ([0xE5A40289], .wload gd 1 (.reg 10) 9), ([0xE6A40289], .wbmap gd 1 (.reg 10) 9),
   ([0xE7A40289], .wscale gd 1 (.reg 10) 9), ([0xE8A03000], .elect gd 3), ([0xE9A00201], .amv gd 8 1), ([0xEAA00201], .amvb gd 8 1),
   ([0xEBA00001], .await gd 1), ([0xECA03289], .cralloc gd 3 (.reg 10) 9), ([0xEDA00289], .crfree gd (.reg 10) 9),
   ([0xEEA00289], .crzero gd (.reg 10) 9), ([0xEFA14289], .crrd gd 0 20 (.reg 10) 9)] : List (List Word × Instr)) ++
  ([([0xF0A00282], .lease gd (.reg 10) 2), ([0xF1A00002], .unlease gd 2)] : List (List Word × Instr))

theorem test_decode_anvil : words_anvil.all decodes = true := by decide +kernel

def words_dense : List (List Word × Instr) :=
  ([([0xF2A00202], .omap gd 8 2), ([0xF3A00200], .mma gd 8), ([0xF4A00202], .nzscan gd 8 2), ([0xF5A00200], .mmag gd 8), ([0xF6A00200], .epi gd 8),
   ([0xF7A14289], .crwr gd 20 (.reg 10) 9)] : List (List Word × Instr))

theorem test_decode_dense : words_dense.all decodes = true := by decide +kernel

def words_launch_and_tasks : List (List Word × Instr) :=
  ([([0xF8A14200], .launch gd 20 8), ([0xF8A54280], .lwait gd 20 (.reg 10)), ([0xF8A83280], .migrate gd 3 (.reg 10)),
   ([0xF9A03421], .qput gd 3 16 33), ([0xF9A43421], .qputw gd 3 16 33), ([0xF9A94021], .qstat gd 20 33), ([0xF9AD4002], .targ gd 20 2),
   ([0xF9B00281], .tdone gd (.reg 10) 1), ([0xF9B40221], .stnc gd 8 33), ([0xFAA21242], .vdecl gd 33 9 2), ([0xFAA43421], .spawn gd 3 16 33),
   ([0xFAAA1002], .vtile gd 33 2)] : List (List Word × Instr)) ++
  ([([0xFAAC0000], .solder gd), ([0xFAB00000], .vsync gd), ([0xFAB5401D], .vqry gd 20 29)] : List (List Word × Instr))

theorem test_decode_launch_and_tasks : words_launch_and_tasks.all decodes = true := by decide +kernel

def words_traps_and_system : List (List Word × Instr) :=
  ([([0xFCA00021], .trap gd 33), ([0xFCA40000], .eret gd), ([0xFCA80200], .yield gd 8), ([0xFCAC0021], .dbrk gd 33),
   ([0xFCB00280], .sleep gd (.reg 10)), ([0xFCB40021], .scall gd 33), ([0xFCB80000], .sret gd), ([0xFDA14011], .mfs gd 20 0x11),
   ([0xFDA40288], .mts gd (.reg 10) 8), ([0xFDA80201], .tlbi gd 8 1), ([0xFDAD4282], .ctxsw gd 20 (.reg 10) 2)] : List (List Word × Instr))

theorem test_decode_traps_and_system : words_traps_and_system.all decodes = true := by decide +kernel

def words_redundancy_and_identity : List (List Word × Instr) :=
  ([([0xFEA00000], .commit gd), ([0xFEA54002], .sigq gd 20 2), ([0xFEA94284], .errq gd 20 (.reg 10) 4), ([0xFEAC0280], .errclr gd (.reg 10)),
   ([0xFEB00204], .errinj gd 8 4), ([0xFEB43000], .mirf gd 3), ([0xFFA14289], .hmq gd 20 (.reg 10) 9), ([0xFFA54281], .asgn gd 20 (.reg 10) 1),
   ([0xFFA80200], .keyi gd 8), ([0xFFAC3281], .keyroll gd 3 (.reg 10) 1), ([0xFFB00281], .quar gd (.reg 10) 1),
   ([0xFFB54280], .dieq gd 20 (.reg 10))] : List (List Word × Instr))

theorem test_decode_redundancy_and_identity : words_redundancy_and_identity.all decodes = true := by decide +kernel

/-! Ill-formed terms: one for each check of WellFormed; each is refused. -/

theorem test_wellFormed_refuses_registers :
    [Instr.add g0 63 (.reg 1) (.reg 2), .add g0 1 (.reg 63) (.reg 2), .add g0 1 (.reg 1) (.reg 63), .add g0 1 (.imm 1) (.imm 2), .mov g0 63 1,
     .bra ⟨false, 1⟩ 0, .brx g0 (.reg 63), .jmp g0 7, .jmp g0 62, .callr g0 9 8, .callr g0 8 9, .voteBallot g0 63 1 0, .movh g0 5 0, .madwI g0 5 (.reg 1) (.reg 2),
     .bfi g0 1 63 2 0, .bfi g0 1 2 63 0, .adda g0 2 3 (.reg 4), .adda g0 2 4 (.reg 5), .lea g0 3 (.reg 1), .shape g0 1 (.reg 2) 3].any wellFormed = false := by decide

theorem test_wellFormed_refuses_fields :
    [Instr.bfi g0 1 2 3 0x20, .bfi g0 1 2 3 0x4000, .plop g0 1 2 3 8, .plop g0 1 2 3 0x10000, .fadd g0 6 1 (.reg 2) (.reg 3), .fadd g0 1 3 (.reg 2) (.reg 4),
     .fadd g0 1 2 (.reg 3) (.reg 4), .fcmp g0 4 1 (.reg 2) (.reg 3), .fcmp g0 1 1 (.reg 3) (.reg 2), .fclass g0 4 1 (.reg 2), .fdiv g0 4 1 (.reg 2) (.reg 3),
     .frcp g0 4 1 (.reg 2), .fex2 g0 1 2 (.reg 4), .cvt g0 0 1 (.reg 2) 0x0C, .cvt g0 0 3 (.reg 2) 0, .cvt g0 0 2 (.reg 3) 1, .cvtr g0 0 1 (.reg 2) 0x1A,
     .fmtqSlot g0 63 1, .vqry g0 1 33, .vqry g0 63 0].any wellFormed = false := by decide

theorem test_wellFormed_refuses_memory :
    [Instr.ld g0 7 1 2 (.scaled 0), .ld g0 5 1 2 (.scaled 0), .ld g0 6 2 4 (.scaled 0), .ld g0 6 60 4 (.scaled 0), .ld g0 4 1 3 (.scaled 0), .ld g0 4 1 2 (.scaled 63),
     .st g0 1 1 2 (.scaled 0), .ldu g0 6 4 2 (.scaled 0), .ldl g0 4 1 63 (.scaled 0), .stl g0 3 1 2 (.scaled 0), .pref g0 3 2 (.scaled 0), .tdef g0 0 3 1,
     .tqry g0 6 1 2, .tld g0 3 1 2 3 0, .tld g0 0 1 2 3 512, .tst g0 0 63 2 3 0, .ldtr g0 1 2 63 0, .lserrq g0 0 1, .cctl g0 3 2 (.scaled 0),
     .fence g0 0 0x10000].any wellFormed = false := by decide

theorem test_wellFormed_refuses_ordering :
    [Instr.barx g0 (.reg 63) 0, .arrive g0 0 1 (.reg 1) 0, .waitv g0 6 1 2 (.scaled 0), .lda g0 0 1 3 (.scaled 0), .strl g0 0 63 2 (.scaled 0), .atom g0 1 1 2 3 0,
     .atom g0 0 1 2 3 0x80, .atom g0 0 1 2 3 7, .atom g0 0 1 2 3 0x50, .atom g0 0 1 2 3 0x43, .atom g0 0 1 2 3 0x800, .atom g0 0 1 2 4 0x20, .atomc g0 0 1 2 3 1,
     .red g0 2 3 6, .red g0 2 3 0x1000, .red g0 2 3 0x803, .red g0 2 3 0x810, .tabort g0 (.reg 63), .tstat g0 63, .cpy g0 3, .cqstat g0 5 1 0,
     .hsum g0 0 63 (.reg 1)].any wellFormed = false := by decide

theorem test_wellFormed_refuses_engines_and_system :
    [Instr.wload g0 0 (.imm 0) 0, .wload g0 0 (.reg 3) 0, .wload g0 1 (.reg 63) 0, .await g0 0, .crrd g0 1 1 (.reg 1) 0, .crrd g0 1 1 (.reg 0) 1, .lease g0 (.reg 1) 3,
     .unlease g0 3, .omap g0 3 0, .launch g0 1 3, .qput g0 1 4 0, .qput g0 1 56 0, .spawn g0 1 12 0, .tdone g0 (.reg 1) 0, .stnc g0 3 0, .vdecl g0 0 10 0, .yield g0 3,
     .mfs g0 2 0x0D, .mfs g0 1 0x09, .mts g0 (.reg 1) 0, .mts g0 (.reg 1) 0x11, .tlbi g0 2 0, .tlbi g0 3 1, .ctxsw g0 1 (.reg 2) 3, .sigq g0 2 3, .sigq g0 1 0,
     .errq g0 2 (.reg 1) 5, .errinj g0 2 5, .errinj g0 3 0, .hmq g0 2 (.reg 1) 10, .asgn g0 63 (.reg 1) 0, .keyi g0 3, .bundleFormation,
     .thermalLimit 0 0 0].any wellFormed = false := by decide

/-- Majors without an instruction, a reserved bit of NOP, a function that does not exist, a word whose extension word is missing, a load of width 7. -/
theorem test_decode_rejects :
    ([[0x0D00_0000], [0x0000_0001], [0x0810_0000], [0x1100_40FF], [0x381C_5FC0]] : List (List Word)).all (fun w => (decode w).toOption.isNone) = true := by
  decide +kernel

/-! One issue each, with results by hand from the rules. Registers 4 to 7 hold the operands. -/

/-- What thread 0 is given in a register by the word's result. -/
def out (i : Instr) (rs : List (Nat × Word)) (d : Nat) : Option Word :=
  match exec i (br rs) with
  | .next t => (t.pend.getLast?).bind fun p => p.laneWrite 2 0 d 0
  | _ => none

theorem test_integer_wraps :
    out (.add g0 8 (.reg 4) (.reg 5)) [(4, 0xFFFFFFFF), (5, 2)] 8 = some 1 ∧ out (.sub g0 8 (.reg 4) (.imm 1)) [] 8 = some 0xFFFFFFFF ∧
    out (.abs g0 8 (.reg 4)) [(4, 0x80000000)] 8 = some 0x80000000 := by decide +kernel

theorem test_integer_products :
    out (.mulhI g0 8 (.reg 4) (.reg 5)) [(4, 0xFFFFFFFF), (5, 0xFFFFFFFF)] 8 = some 0 ∧
    out (.mulhN g0 8 (.reg 4) (.reg 5)) [(4, 0xFFFFFFFF), (5, 0xFFFFFFFF)] 8 = some 0xFFFFFFFE ∧
    out (.madwN g0 8 (.reg 4) (.reg 5)) [(4, 0xFFFFFFFF), (5, 0xFFFFFFFF), (8, 1), (9, 0)] 8 = some 2 ∧
    out (.madwN g0 8 (.reg 4) (.reg 5)) [(4, 0xFFFFFFFF), (5, 0xFFFFFFFF), (8, 1), (9, 0)] 9 = some 0xFFFFFFFE := by decide +kernel

theorem test_integer_shifts_and_bits :
    out (.sar g0 8 (.reg 4) (.imm 4)) [(4, 0x80000000)] 8 = some 0xF8000000 ∧ out (.rot g0 8 (.reg 4) (.imm 4)) [(4, 0x80000001)] 8 = some 0x18 ∧
    out (.clz g0 8 (.reg 4)) [] 8 = some 32 ∧ out (.brev g0 8 (.reg 4)) [(4, 1)] 8 = some 0x80000000 ∧ out (.popc g0 8 (.reg 4)) [(4, 0xF0F0)] 8 = some 8 := by
  decide +kernel

/-- 1 + 2^-24 is a tie and rounds to even; the smaller of a number and a NaN is the number; 3 / 2; the square root of 2. -/
theorem test_floating_point :
    out (.fadd g0 0 8 (.reg 4) (.reg 5)) [(4, 0x3F800000), (5, 0x33800000)] 8 = some 0x3F800000 ∧
    out (.fmin g0 0 8 (.reg 4) (.reg 5)) [(4, 0x40000000), (5, 0x7FC00000)] 8 = some 0x40000000 ∧
    out (.fdiv g0 0 8 (.reg 4) (.reg 5)) [(4, 0x40400000), (5, 0x40000000)] 8 = some 0x3FC00000 ∧
    out (.fsqrt g0 0 8 (.reg 4)) [(4, 0x40000000)] 8 = some 0x3FB504F3 := by decide +kernel

/-- 2 × 3 + 1 of FFMA; 1.5 in FP16. -/
theorem test_floating_point_fused_and_half :
    out (.ffma g0 0 8 (.reg 4) (.reg 5)) [(4, 0x40000000), (5, 0x40400000), (8, 0x3F800000)] 8 = some 0x40E00000 ∧
    out (.fadd g0 2 8 (.reg 4) (.reg 5)) [(4, 0x3C00), (5, 0x3800)] 8 = some 0x3E00 := by decide +kernel

/-- Bytes in ascending address order make a word with the first one lowest; a byte load with sign. -/
theorem test_load_byte_order :
    (match exec (.ld g0 4 8 4 (.scaled 0)) { br [(4, 0x4100)] with mem := tables.write 0x4100 [0x78, 0x56, 0x34, 0x92] } with
      | .next t => (t.pend.getLast?).bind fun p => p.laneWrite 2 0 8 0
      | _ => none) = some 0x92345678 ∧
    (match exec (.ldl g0 1 8 4 (.scaled 3)) (bw fun w => { w with window := [(3, 0x92)], waves := [wave []] }) with
      | .next t => (t.pend.getLast?).bind fun p => p.laneWrite 2 0 8 0
      | _ => none) = some 0xFFFFFF92 := by decide +kernel

/-- A store enters the queue and leaves it; memory changes only then. -/
theorem test_store_leaves_later :
    (match exec (.st g0 4 5 4 (.scaled 1)) (br [(4, 0x4100), (5, 0)]) with
      | .next t => t.mem == tables && ((t.thread? 2 0).map fun th => (th.sq.length, th.ctr.s)) == some (1, 1)
      | _ => false) = true := by decide +kernel

/-- A misaligned word load: code 0x0A at the vector, with the faulting address. -/
theorem test_misaligned_load_traps :
    (match exec (.ld g0 4 8 4 (.scaled 0)) (br [(4, 0x4102)]) with
      | .next t => (t.thread? 2 0).map fun th => (th.pc, th.priv, th.trap.cause, th.trap.addr, th.trap.pc)
      | _ => none) = some (0x2000, true, 0x0A, 0x4102, 0x1004) := by decide +kernel

/-- SCALL 5 keeps the word after it as its return and enters at SCALLVEC. -/
theorem test_scall :
    (match exec (.scall g0 5) base with
      | .next t => (t.thread? 2 0).map fun th => (th.pc, th.priv, th.trap.cause, th.trap.pc)
      | _ => none) = some (0x3000, true, 0x80000005, 0x1008) := by decide +kernel

/-- A branch of -1 words from 0x1004. -/
theorem test_branch_backward :
    (match exec (.bra ⟨false, 0⟩ 0x1FFFFF) base with
      | .next t => (t.thread? 2 0).map Thread.pc
      | _ => none) = some 0x1000 := by decide +kernel

/-- 3 accumulated into 0x7FFFFFFF under ACC.I32 saturates and is counted; FP32 2 × 3 + 1 by the dense pipe. -/
theorem test_engines :
    addI32 0x7FFFFFFF 3 = (0x7FFFFFFF, true) ∧
    { op0 .mma (mmaBlk 1 0) .queued with maps := [mapA, mapB], data := [[0x40000000, 0], [0x40400000, 0, 0, 0], [2]] }.element 0 0 0x3F800000 = 0x40E00000 := by
  decide +kernel

/-- Only the first of two equal stores of 0 leaves a trace in the canonical form. -/
theorem test_memory_is_canonical : (Mem.write [] 5 [1, 0, 2]) = [(5, 1), (7, 2)] ∧ ((Mem.write [] 5 [1, 0, 2]).write 5 [0]) = [(7, 2)] := by decide +kernel

/-- The first step from reset ends package reset. -/
theorem test_first_step : (match step State.reset with
    | .next t => t.resetEnded
    | _ => false) = true := by decide +kernel

end Sys2Proof.Tests
end

/-! PROOFS. Results that land in predicates: what `opPred` puts in flight, and with it ICMP and PLOP (R78, R93, R107, R108). -/

namespace Sys2Proof.Machine

open Sys2Proof Sys2Proof.Claim

/-- The predicate writes that `fixed` keeps of one predicate's writes: those to p0 are dropped (R78). -/
theorem mem_onePredWrites (ts : List Nat) (d : Nat) (f : Nat → Bool) (l n : Nat) (b : Bool) :
    (l, n, b) ∈ (ts.map fun t => (t, d, f t)).filter (·.2.1 != 0) ↔ l ∈ ts ∧ n ≠ 0 ∧ n = d ∧ f l = b := by
  simp only [List.mem_filter, List.mem_map, Prod.mk.injEq, bne_iff_ne]
  constructor
  · rintro ⟨⟨t, ht, rfl, rfl, rfl⟩, hd⟩
    exact ⟨ht, hd, rfl, rfl⟩
  · rintro ⟨hl, hn, rfl, rfl⟩
    exact ⟨⟨l, hl, rfl, rfl, rfl⟩, hn⟩

theorem Pend.laneWrite_of_regs_nil {p : Pend} (h : p.regs = []) (u hw r j : Nat) : p.laneWrite u hw r j = none := by
  simp [Pend.laneWrite, h]

theorem gives_onePred {p : Pend} {ts : List Nat} {d : Nat} {f : Nat → Bool} (u : Nat) (hr : p.regs = [])
    (hp : p.preds = (ts.map fun t => (t, d, f t)).filter (·.2.1 != 0)) : Gives p u ts [] [(d, f)] := by
  refine ⟨fun hw r j => ?_, fun l n b => ?_⟩
  · simp [Pend.laneWrite_of_regs_nil hr]
  · have lookup_iff : (∃ g, [(d, f)].lookup n = some g ∧ g l = b) ↔ n = d ∧ f l = b := by
      rw [List.lookup_cons]
      by_cases h : n = d
      · simp [h]
      · simp [h, beq_false_of_ne h]
    rw [hp, mem_onePredWrites, lookup_iff]

/-- A predicate result is one result in flight that writes the predicate in the active threads. -/
theorem opPred_lands (s : State) (c : Issue) (lat : Nat) (g : Guard) (d : PredCode) (f : Nat → Bool) :
    Lands s c lat (act s c g) [] [(d.toNat, f)] (opPred lat g d f c s.tickFree) :=
  ⟨_, rfl, rfl, rfl, rfl, rfl, rfl, rfl, rfl, rfl, rfl, rfl, gives_onePred c.wg rfl rfl⟩

/-- ICMP lands the condition of its fn (R107). -/
theorem execIcmp_lands {s : State} {c : Issue} (h : s.cur = some c) (g : Guard) (k : BitVec 3) (d : PredCode) (a b : Src) :
    ∃ t, exec (.icmp g k d a b) s = .next t ∧
      Lands s c 4 (act s c g) [] [(d.toNat, fun l => icmpHolds k (val s c a l) (val s c b l))] t :=
  ⟨_, State.issue_next h _, opPred_lands s c 4 g d _⟩

theorem ite_one_zero_eq_toNat (b : Bool) : (if b then 1 else 0) = b.toNat := by cases b <;> rfl

/-- PLOP lands the bit of the table that the three predicates number (R108). -/
theorem execPlop_lands {s : State} {c : Issue} (h : s.cur = some c) (g : Guard) (d pa pb : PredCode) (x : Word) :
    ∃ t, exec (.plop g d pa pb x) s = .next t ∧
      Lands s c 4 (act s c g) [] [(d.toNat, fun l => x.getLsbD
        (8 + 4 * (pred s c pa.toNat l).toNat + 2 * (pred s c pb.toNat l).toNat + (pred s c (x.toNat % 8) l).toNat))] t := by
  simp only [← ite_one_zero_eq_toNat]
  exact ⟨_, State.issue_next h _, opPred_lands s c 4 g d _⟩

/-- A field of a word is 0 where each of its bits is. -/
theorem wordField_eq_zero_iff (x : Word) (k m : Nat) :
    x.toNat / 2^k % 2^m = 0 ↔ ∀ i, k ≤ i → i < k + m → x.getLsbD i = false := by
  have bit : ∀ i, (x.toNat / 2^k % 2^m).testBit i = (decide (i < m) && x.getLsbD (i + k)) := fun i => by
    rw [Nat.testBit_mod_two_pow, Nat.testBit_div_two_pow, BitVec.testBit_toNat]
  constructor
  · intro h i hk hi
    have h0 := bit (i - k)
    rw [h, Nat.zero_testBit, Nat.sub_add_cancel hk] at h0
    simpa [show i - k < m by omega] using h0.symm
  · intro h
    refine Nat.eq_of_testBit_eq fun i => ?_
    rw [bit, Nat.zero_testBit]
    by_cases hi : i < m
    · rw [h (i + k) (by omega) (by omega), Bool.and_false]
    · rw [decide_eq_false hi, Bool.false_and]

/-- PLOP's extension word is well formed where its reserved bits X[7:3] and X[31:16] are 0 (R108). -/
theorem wellFormed_plop_iff (g : Guard) (d pa pb : PredCode) (x : Word) :
    wellFormed (.plop g d pa pb x) = true ↔ ∀ i, (3 ≤ i ∧ i < 8) ∨ 16 ≤ i → x.getLsbD i = false := by
  have upper : x.toNat / 2^16 = x.toNat / 2^16 % 2^16 := by
    have := x.isLt
    omega
  have fields : wellFormed (.plop g d pa pb x) = true ↔
      x.toNat / 2^3 % 2^5 = 0 ∧ x.toNat / 2^16 % 2^16 = 0 := by
    rw [← upper]
    exact decide_eq_true_iff
  rw [fields, wordField_eq_zero_iff, wordField_eq_zero_iff]
  constructor
  · rintro ⟨low, high⟩ i (⟨h3, h8⟩ | h16)
    · exact low i h3 h8
    · by_cases h32 : i < 32
      · exact high i h16 h32
      · exact BitVec.getLsbD_of_ge x i (by omega)
  · exact fun h => ⟨fun i h3 h8 => h i (.inl ⟨h3, h8⟩), fun i h16 _ => h i (.inr h16)⟩

/-- Settles O2: ICMP and PLOP each put one predicate result in flight, and each condition of ICMP's table is by definition the
comparison of words that its fn names. -/
theorem predicateResults : Obligations.PredicateResults := by
  intro s c g d pa pb a b x h
  have icmp := fun k => execIcmp_lands h g k d a b
  exact ⟨icmp 0, icmp 1, icmp 2, icmp 3, icmp 4, icmp 5, icmp 6, icmp 7, execPlop_lands h g d pa pb x,
    wellFormed_plop_iff g d pa pb x⟩

end Sys2Proof.Machine

/-! PROOFS. Threads that block and are released, one or all of a list: what a blocking word does to the package, and with it SLEEP
(R72, R343). -/

namespace Sys2Proof.Machine

open Sys2Proof Sys2Proof.Claim

/-- One thread updated, in the words of the statements. -/
theorem State.updThread_eq_onThreads (s : State) (u t : Nat) (f : Nat → Thread → Thread) :
    s.updThread u t (f t) = onThreads s u [t] f := by
  have modify_eq : ∀ ths : List Thread, ths.modify t (f t) = ths.mapIdx fun i th => if i ∈ [t] then f i th else th := fun ths => by
    refine List.ext_getElem? fun i => ?_
    rw [List.getElem?_modify, List.getElem?_mapIdx]
    by_cases h : t = i
    · subst h; simp
    · simp [h, Ne.symm h]
  simp only [State.updThread, State.updWg, Workgroup.updThread, onThreads, modify_eq]

/-- A change that a second time changes nothing more is made to a list of threads one thread after another. -/
theorem onThreads_cons (s : State) (u t : Nat) (ts : List Nat) (f : Nat → Thread → Thread) (hf : ∀ l th, f l (f l th) = f l th) :
    onThreads (onThreads s u [t] f) u ts f = onThreads s u (t :: ts) f := by
  have twice : ∀ ths : List Thread, ((ths.mapIdx fun i th => if i ∈ [t] then f i th else th).mapIdx fun i th => if i ∈ ts then f i th else th) =
      ths.mapIdx fun i th => if i ∈ t :: ts then f i th else th := fun ths => by
    rw [List.mapIdx_mapIdx]
    congr 1
    funext i th
    by_cases ht : i = t <;> by_cases hts : i ∈ ts <;> simp [ht, hts, hf]
  simp only [onThreads, List.map_map]
  congr 1
  refine List.map_congr_left fun w _ => ?_
  by_cases hw : w.uid = u
  · simp only [Function.comp_apply, hw, if_true, twice]
  · simp only [Function.comp_apply, hw, if_false]

theorem onThreads_nil (s : State) (u : Nat) (f : Nat → Thread → Thread) : onThreads s u [] f = s := by
  have same : ∀ ths : List Thread, (ths.mapIdx fun i th => if i ∈ [] then f i th else th) = ths := fun ths =>
    List.ext_getElem? fun i => by simp [List.getElem?_mapIdx]
  simp only [onThreads, same, ite_self, List.map_id']

/-- Looking a workgroup up after threads of one have changed. -/
theorem wg?_onThreads (s : State) (u v : Nat) (ts : List Nat) (f : Nat → Thread → Thread) :
    (onThreads s u ts f).wg? v = if v = u then (s.wg? v).map fun w =>
      { w with threads := w.threads.mapIdx fun i th => if i ∈ ts then f i th else th } else s.wg? v :=
  State.wg?_updWg s u v _ fun _ => rfl

/-- A thread that leaves a bundle is no member of what is left of it, and no thread joins (R72). -/
theorem Bundle.mem_members_without {b : Bundle} {t m : Nat} (h : m ∈ (b.without t).members) : m ∈ b.members ∧ m ≠ t := by
  have of_rest : ∀ r : List Group, r = (b.rest.map fun g => { g with tids := g.tids.filter (· != t) }).filter (fun g => !g.tids.isEmpty) →
      ∀ g ∈ r, m ∈ g.tids → m ∈ b.members ∧ m ≠ t := by
    rintro _ rfl g hg hm
    obtain ⟨g0, hg0, rfl⟩ := List.mem_map.1 (List.mem_filter.1 hg).1
    obtain ⟨hm0, hne⟩ := List.mem_filter.1 hm
    exact ⟨List.mem_append_right _ (List.mem_flatMap.2 ⟨g0, hg0, hm0⟩), by simpa using hne⟩
  unfold Bundle.without at h
  dsimp only at h
  split at h
  case h_1 g r _ hrest =>
    obtain hm | hm := List.mem_append.1 h
    · exact of_rest _ hrest.symm g List.mem_cons_self hm
    · obtain ⟨g', hg', hm'⟩ := List.mem_flatMap.1 hm
      exact of_rest _ hrest.symm g' (List.mem_cons_of_mem _ hg') hm'
  case h_2 =>
    obtain hm | hm := List.mem_append.1 h
    · obtain ⟨hm0, hne⟩ := List.mem_filter.1 hm
      exact ⟨List.mem_append_left _ hm0, by simpa using hne⟩
    · obtain ⟨g', hg', hm'⟩ := List.mem_flatMap.1 hm
      exact of_rest _ rfl g' hg' hm'

theorem Bundle.without_wg (b : Bundle) (t : Nat) : (b.without t).wg = b.wg := by
  unfold Bundle.without
  dsimp only
  split <;> rfl

/-- A bundle that a thread's leaving leaves is one that was there, without the thread. -/
theorem State.leaveBundle_members {s : State} {u t : Nat} {b : Bundle} (hb : b ∈ (s.leaveBundle u t).bundles) (hu : b.wg = u) :
    t ∉ b.members ∧ ∃ b0 ∈ s.bundles, b0.wg = u ∧ b.members ⊆ b0.members := by
  obtain ⟨b0, hb0, rfl⟩ := List.mem_map.1 (List.mem_filter.1 hb).1
  by_cases h0 : b0.wg = u
  · simp only [h0, if_true]
    exact ⟨fun h => (Bundle.mem_members_without h).2 rfl, b0, hb0, h0, fun m hm => (Bundle.mem_members_without hm).1⟩
  · rw [if_neg h0] at hu
    exact absurd hu h0

/-- Thread `l` as it blocks (R72). -/
def asBlocked (x : Nat → Wait) (wake : Option Nat) (l : Nat) (th : Thread) : Thread := { th with st := .blocked (x l), wake := wake }

/-- Threads of a list, each blocked in turn. -/
def State.blockEach (s : State) (u : Nat) (ts : List Nat) (x : Nat → Wait) (wake : Option Nat) : State :=
  ts.foldl (fun s1 t => s1.block u t (x t) wake) s

/-- But for the bundles, only the threads of the list change. -/
theorem State.blockEach_keeps (u : Nat) (x : Nat → Wait) (wake : Option Nat) : ∀ (ts : List Nat) (s : State),
    { s.blockEach u ts x wake with bundles := s.bundles } = onThreads s u ts (asBlocked x wake)
  | [], s => (onThreads_nil s u _).symm
  | t :: ts, s => by
    have first : { s.block u t (x t) wake with bundles := s.bundles } = onThreads s u [t] (asBlocked x wake) :=
      State.updThread_eq_onThreads s u t (asBlocked x wake)
    have later := congrArg (fun r : State => { r with bundles := s.bundles }) (State.blockEach_keeps u x wake ts (s.block u t (x t) wake))
    rw [← onThreads_cons s u t ts (asBlocked x wake) fun _ _ => rfl, ← first]
    exact later

/-- No thread of the list is left in a bundle of its workgroup. -/
theorem State.blockEach_members (u : Nat) (x : Nat → Wait) (wake : Option Nat) : ∀ (ts : List Nat) (s : State) (b : Bundle),
    b ∈ (s.blockEach u ts x wake).bundles → b.wg = u →
    (∀ l ∈ ts, l ∉ b.members) ∧ ∃ b0 ∈ s.bundles, b0.wg = u ∧ b.members ⊆ b0.members
  | [], _, b, hb, hu => ⟨by simp, b, hb, hu, List.Subset.refl _⟩
  | t :: ts, s, b, hb, hu => by
    obtain ⟨htail, b1, hb1, hu1, hsub1⟩ := State.blockEach_members u x wake ts (s.block u t (x t) wake) b hb hu
    obtain ⟨ht, b0, hb0, hu0, hsub0⟩ := State.leaveBundle_members (s := s) (t := t) hb1 hu1
    refine ⟨fun l hl => ?_, b0, hb0, hu0, List.Subset.trans hsub1 hsub0⟩
    obtain rfl | hl := List.mem_cons.1 hl
    · exact fun h => ht (hsub1 h)
    · exact htail l hl

/-- A word whose active threads each block blocks them, and does nothing else. -/
theorem State.blockEach_blocks {s : State} {c : Issue} {w : Workgroup} (h : s.wg? c.wg = some w) (ts : List Nat) (x : Nat → Wait)
    (wake : Option Nat) : Blocks s c w ts x wake (s.tickFree.blockEach c.wg ts x wake) := by
  have keeps := State.blockEach_keeps c.wg x wake ts s.tickFree
  have lookup : ∀ u, (s.tickFree.blockEach c.wg ts x wake).wg? u = if u = c.wg then (s.wg? u).map fun w =>
      { w with threads := w.threads.mapIdx fun i th => if i ∈ ts then asBlocked x wake i th else th } else s.wg? u :=
    fun u => (congrArg (·.wg? u) keeps).trans (wg?_onThreads s.tickFree c.wg u ts _)
  have own := lookup c.wg
  rw [if_pos rfl, h] at own
  refine ⟨⟨fun u hu => (lookup u).trans (if_neg hu), ⟨_, own, rfl, fun k hk => ?_⟩, ?_⟩,
    fun b hb hu l hl hm => ?_, ⟨_, own, fun l hl th hth => ?_⟩⟩
  · simp [List.getElem?_mapIdx, hk]
  · exact congrArg (fun r : State => { r with wgs := s.wgs, bundles := s.bundles, fresh := s.fresh }) keeps
  · exact (State.blockEach_members c.wg x wake ts s.tickFree b hb hu).1 l hl (List.mem_append_left _ hm)
  · simp [List.getElem?_mapIdx, hl, hth, asBlocked]

/-- SLEEP's meaning: its active threads block, each for its own count (R343). -/
theorem exec_sleep (g : Guard) (a : Src) (s : State) : exec (.sleep g a) s = s.issue fun c s =>
    s.blockEach c.wg (active s c g)
      (fun l => .sleep (s.clk + if (src s c a l).toNat = 0 then 4 else (src s c a l).toNat)) none := rfl

/-- A release, in the words of the statements. -/
theorem State.release_eq_onThreads (s : State) (u t : Nat) : s.release u t = onThreads s u [t] fun _ th => freed th s.clk :=
  State.updThread_eq_onThreads s u t fun _ th => freed th s.clk

/-- Thread `l` of a workgroup that runs sleeps, and its time is over. -/
def SleepOver (s : State) (w : Workgroup) (l : Nat) (th : Thread) (till : Nat) : Prop :=
  w ∈ s.wgs ∧ s.wgRuns w = true ∧ w.threads[l]? = some th ∧ th.st = .blocked (.sleep till) ∧ till ≤ s.clk

/-- SLEEP_EXPIRY releases a thread whose sleep is over. -/
theorem fireSleepExpiry_eq_some {s t : State} (h : fireSleepExpiry s = some t) :
    ∃ w l th till, SleepOver s w l th till ∧ t = s.release w.uid l := by
  obtain ⟨w, hw, h⟩ := List.exists_of_findSome?_eq_some h
  split at h
  · cases h
  next hrun =>
    obtain ⟨⟨th, l⟩, hp, h⟩ := List.exists_of_findSome?_eq_some h
    split at h
    next till hst =>
      split at h
      next htill =>
        cases h
        exact ⟨w, l, th, till, ⟨hw, by simpa using hrun, List.mk_mem_zipIdx_iff_getElem?.1 hp, hst, htill⟩, rfl⟩
      next => cases h
    next => cases h

/-- SLEEP_EXPIRY is due while a sleep is over. -/
theorem fireSleepExpiry_ne_none {s : State} {w : Workgroup} {l : Nat} {th : Thread} {till : Nat} (h : SleepOver s w l th till) :
    fireSleepExpiry s ≠ none := by
  obtain ⟨hw, hrun, hth, hst, htill⟩ := h
  intro hnone
  have inWg := List.findSome?_eq_none_iff.1 hnone w hw
  simp only [hrun, Bool.not_true, Bool.false_eq_true, if_false] at inWg
  have inThread := List.findSome?_eq_none_iff.1 inWg (th, l) (List.mk_mem_zipIdx_iff_getElem?.2 hth)
  simp [hst, htill] at inThread

/-- A thread that waits outside the core keeps its context's watchdog still (R333). -/
theorem State.wdAdvances_of_outside {s : State} {w : Workgroup} {th : Thread} (hw : w ∈ s.wgs) (hth : th ∈ w.threads)
    (hout : th.outside = true) : s.wdAdvances w.ctx = false := by
  have waits : (s.wgs.any fun v => v.ctx == w.ctx && v.threads.any Thread.outside) = true :=
    List.any_eq_true.2 ⟨w, hw, by rw [beq_self_eq_true, Bool.true_and]; exact List.any_eq_true.2 ⟨th, hth, hout⟩⟩
  simp only [State.wdAdvances, waits, Bool.not_true, Bool.and_false]

theorem Thread.outside_of_sleep {th : Thread} {till : Nat} (h : th.st = .blocked (.sleep till)) : th.outside = true := by
  simp only [Thread.outside, h]

/-- Settles O11: a SLEEP is its threads blocked one after another, SLEEP_EXPIRY finds a sleep that is over wherever there is one, and
a sleeping thread waits outside the core. -/
theorem sleepBlocksAndReturns : Obligations.SleepBlocksAndReturns := by
  refine ⟨fun s c w g a h hw => ⟨_, (exec_sleep g a s).trans (State.issue_next h _), State.blockEach_blocks hw _ _ none⟩, ?_,
    fun s w th till hw hth hst => State.wdAdvances_of_outside hw hth (Thread.outside_of_sleep hst)⟩
  rintro s ⟨w0, hw0, hrun0, l0, th0, till0, hth0, hst0, htill0⟩
  obtain ⟨t, ht⟩ := Option.ne_none_iff_exists'.1 (fireSleepExpiry_ne_none ⟨hw0, hrun0, hth0, hst0, htill0⟩)
  obtain ⟨w, l, th, till, ⟨hw, hrun, hth, hst, htill⟩, rfl⟩ := fireSleepExpiry_eq_some ht
  refine ⟨_, w, l, th, till, ?_, hw, hrun, hth, hst, htill, State.release_eq_onThreads s w.uid l⟩
  change execSleepExpiry s = _
  rw [execSleepExpiry, ht, Option.getD_some]

end Sys2Proof.Machine

/-! PROOFS. The power arbiter: what a draw is, what floor(f × demand) draws, how the remainder is handed out die by die, and with it
POWER_GRANT_PERIOD (R388). -/

namespace Sys2Proof.Machine

open Sys2Proof Sys2Proof.Claim

/-- Draw in mW of one die's permits, slabs and dense pipes (R388). -/
def permitCost (p : Nat × Nat) : Nat := slabMilliwatt * p.1 + denseMilliwatt * p.2

/-- floor(f × demand) of each kind, with f = `budget` / `draw` (R388). -/
def scaledPermits (budget draw : Nat) (p : Nat × Nat) : Nat × Nat := (budget * p.1 / draw, budget * p.2 / draw)

/-- The dense permit that a die's visit adds to its grant with `left` mW, where it fits and demand exceeds grant (R388). -/
def oneMoreDense (left : Nat) (dem g : Nat × Nat) : Nat := if g.2 < dem.2 ∧ denseMilliwatt ≤ left then 1 else 0

/-- The slab permit that the visit adds after it. -/
def oneMoreSlab (left : Nat) (dem g : Nat × Nat) : Nat :=
  if g.1 < dem.1 ∧ slabMilliwatt ≤ left - denseMilliwatt * oneMoreDense left dem g then 1 else 0

/-- A die's grant after its visit. -/
def oneMorePermit (left : Nat) (dem g : Nat × Nat) : Nat × Nat := (g.1 + oneMoreSlab left dem g, g.2 + oneMoreDense left dem g)

theorem sumNat_eq_sum (l : List Nat) : sumNat l = l.sum := List.sum_eq_foldl.symm

theorem drawOf_eq_sum (ps : List (Nat × Nat)) : drawOf ps = (ps.map permitCost).sum := sumNat_eq_sum _

theorem permitCost_scaledPermits_le (b D : Nat) (p : Nat × Nat) : permitCost (scaledPermits b D p) ≤ b * permitCost p / D := by
  have scaled_le (c n : Nat) : c * (b * n / D) ≤ b * (c * n) / D := by
    rw [Nat.mul_left_comm]
    exact Nat.mul_div_le_mul_div_assoc c (b * n) D
  calc permitCost (scaledPermits b D p)
      ≤ b * (slabMilliwatt * p.1) / D + b * (denseMilliwatt * p.2) / D := Nat.add_le_add (scaled_le _ _) (scaled_le _ _)
    _ ≤ (b * (slabMilliwatt * p.1) + b * (denseMilliwatt * p.2)) / D := Nat.div_add_div_le_add_div
    _ = b * permitCost p / D := by rw [← Nat.mul_add, permitCost]

theorem sum_permitCost_scaledPermits_le (b D : Nat) (ps : List (Nat × Nat)) :
    (ps.map fun p => permitCost (scaledPermits b D p)).sum ≤ b * (ps.map permitCost).sum / D := by
  induction ps with
  | nil => exact Nat.zero_le _
  | cons p ps ih =>
    simp only [List.map_cons, List.sum_cons, Nat.mul_add]
    exact Nat.le_trans (Nat.add_le_add (permitCost_scaledPermits_le b D p) ih) Nat.div_add_div_le_add_div

/-- The rounded shares draw no more than the allowance. -/
theorem drawOf_scaleGrants_le (b : Nat) (ps : List (Nat × Nat)) : drawOf (scaleGrants b ps) ≤ b := by
  calc drawOf (scaleGrants b ps)
      = (ps.map fun p => permitCost (scaledPermits b (drawOf ps) p)).sum := by
        rw [drawOf_eq_sum, scaleGrants, List.map_map]; rfl
    _ ≤ b * drawOf ps / drawOf ps := by
        rw [drawOf_eq_sum ps]; exact sum_permitCost_scaledPermits_le b _ ps
    _ ≤ b := Nat.div_le_of_le_mul (Nat.le_of_eq (Nat.mul_comm _ _))

/-- What a die's visit draws. -/
theorem permitCost_oneMorePermit (left : Nat) (dem g : Nat × Nat) :
    permitCost (oneMorePermit left dem g) =
      permitCost g + (denseMilliwatt * oneMoreDense left dem g + slabMilliwatt * oneMoreSlab left dem g) := by
  simp only [oneMorePermit, permitCost, Nat.mul_add]
  omega

/-- A die's visit draws no more than is left. -/
theorem permitCost_oneMorePermit_le (left : Nat) (dem g : Nat × Nat) :
    permitCost (oneMorePermit left dem g) ≤ permitCost g + left := by
  have dense : denseMilliwatt * oneMoreDense left dem g ≤ left := by
    rw [oneMoreDense]
    split
    next h => exact h.2
    next => exact Nat.zero_le _
  have slab : slabMilliwatt * oneMoreSlab left dem g ≤ left - denseMilliwatt * oneMoreDense left dem g := by
    rw [oneMoreSlab]
    split
    next h => exact h.2
    next => exact Nat.zero_le _
  rw [permitCost_oneMorePermit]
  omega

theorem ite_succ_eq_add (p : Prop) [Decidable p] (n : Nat) : (if p then n + 1 else n) = n + if p then 1 else 0 := by
  split <;> rfl

theorem ite_sub_eq_sub_mul (p : Prop) [Decidable p] (n c : Nat) : (if p then n - c else n) = n - c * if p then 1 else 0 := by
  split
  · rw [Nat.mul_one]
  · rfl

/-- The remainder visits the first die, and what that die's draw grew by is gone for the others. -/
theorem grantRemainder_cons (left : Nat) (dem g : Nat × Nat) (r : List ((Nat × Nat) × (Nat × Nat))) :
    grantRemainder left ((dem, g) :: r) = oneMorePermit left dem g ::
      grantRemainder (left - (permitCost (oneMorePermit left dem g) - permitCost g)) r := by
  rw [permitCost_oneMorePermit, Nat.add_sub_cancel_left, Nat.sub_add_eq, grantRemainder]
  simp only [Bool.and_eq_true, decide_eq_true_eq]
  rw [ite_sub_eq_sub_mul (g.2 < dem.2 ∧ denseMilliwatt ≤ left)]
  exact List.cons_eq_cons.2 ⟨Prod.ext (ite_succ_eq_add _ _) (ite_succ_eq_add _ _), congrArg (grantRemainder · r) (ite_sub_eq_sub_mul _ _ _)⟩

/-- A die is visited with what the dies before it left. -/
theorem getElem?_grantRemainder (l : List ((Nat × Nat) × (Nat × Nat))) (left d : Nat) :
    (grantRemainder left l)[d]? = l[d]?.map fun p =>
      oneMorePermit (left - (((grantRemainder left l).zip l).take d |>.map fun q => permitCost q.1 - permitCost q.2.2).sum) p.1 p.2 := by
  induction l generalizing left d with
  | nil => rfl
  | cons p r ih =>
    rw [grantRemainder_cons]
    cases d with
    | zero => rfl
    | succ d =>
      simp only [List.getElem?_cons_succ, List.zip_cons_cons, List.take_succ_cons, List.map_cons, List.sum_cons, Nat.sub_add_eq]
      exact ih _ d

/-- The remainder hands out no more than is left. -/
theorem drawOf_grantRemainder_le (l : List ((Nat × Nat) × (Nat × Nat))) (left : Nat) :
    drawOf (grantRemainder left l) ≤ drawOf (l.map (·.2)) + left := by
  simp only [drawOf_eq_sum]
  induction l generalizing left with
  | nil => exact Nat.zero_le _
  | cons p r ih =>
    have visit := permitCost_oneMorePermit_le left p.1 p.2
    have others := ih (left - (permitCost (oneMorePermit left p.1 p.2) - permitCost p.2))
    rw [grantRemainder_cons]
    simp only [List.map_cons, List.sum_cons]
    omega

theorem grantsFor_of_fits {b : Nat} {ps : List (Nat × Nat)} (h : drawOf ps ≤ b) : grantsFor b ps = ps := if_pos h

theorem grantsFor_of_exceeds {b : Nat} {ps : List (Nat × Nat)} (h : b < drawOf ps) :
    grantsFor b ps = grantRemainder (b - drawOf (scaleGrants b ps)) (ps.map fun p => (p, scaledPermits b (drawOf ps) p)) := by
  have shares : ps.zip (scaleGrants b ps) = ps.map fun p => (p, scaledPermits b (drawOf ps) p) := by
    exact List.map_prod_left_eq_zip.symm
  rw [grantsFor, if_neg (Nat.not_le.2 h)]
  exact congrArg _ shares

/-- What is granted never draws more than the allowance. -/
theorem drawOf_grantsFor_le (b : Nat) (ps : List (Nat × Nat)) : drawOf (grantsFor b ps) ≤ b := by
  rcases Nat.lt_or_ge b (drawOf ps) with h | h
  · have shares := drawOf_scaleGrants_le b ps
    have handed := drawOf_grantRemainder_le (ps.map fun p => (p, scaledPermits b (drawOf ps) p)) (b - drawOf (scaleGrants b ps))
    rw [List.map_map] at handed
    rw [grantsFor_of_exceeds h]
    exact Nat.le_trans handed (Nat.le_of_eq (Nat.add_sub_of_le shares))
  · rwa [grantsFor_of_fits h]

theorem length_grantRemainder (l : List ((Nat × Nat) × (Nat × Nat))) (left : Nat) : (grantRemainder left l).length = l.length := by
  induction l generalizing left with
  | nil => rfl
  | cons p r ih => rw [grantRemainder_cons, List.length_cons, List.length_cons, ih]

theorem length_grantsFor (b : Nat) (ps : List (Nat × Nat)) : (grantsFor b ps).length = ps.length := by
  rcases Nat.lt_or_ge b (drawOf ps) with h | h
  · rw [grantsFor_of_exceeds h, length_grantRemainder, List.length_map]
  · rw [grantsFor_of_fits h]

/-- Where the draw exceeds the allowance, die `d` has its share and what its visit adds, with what the shares and the dies before it
left. -/
theorem grant_of_exceeds {b n d : Nat} {dem grant : Nat → Nat × Nat} {D : Nat}
    (hgrant : grantsFor b ((List.range n).map dem) = (List.range n).map grant)
    (hD : drawOf ((List.range n).map dem) = D) (h : b < D) (hd : d < n) :
    grant d = oneMorePermit
      (b - ((List.range n).map fun e => permitCost (scaledPermits b D (dem e))).sum -
        ((List.range d).map fun e => permitCost (grant e) - permitCost (scaledPermits b D (dem e))).sum)
      (dem d) (scaledPermits b D (dem d)) := by
  subst hD
  have shares : drawOf (scaleGrants b ((List.range n).map dem)) =
      ((List.range n).map fun e => permitCost (scaledPermits b (drawOf ((List.range n).map dem)) (dem e))).sum := by
    rw [drawOf_eq_sum, scaleGrants, List.map_map, List.map_map]; rfl
  have visited := getElem?_grantRemainder (((List.range n).map dem).map fun p => (p, scaledPermits b (drawOf ((List.range n).map dem)) p))
    (b - drawOf (scaleGrants b ((List.range n).map dem))) d
  rw [← grantsFor_of_exceeds h, hgrant, shares, List.map_map, List.zip_map', ← List.map_take, List.take_range,
    Nat.min_eq_left (Nat.le_of_lt hd), List.map_map, List.getElem?_map, List.getElem?_map, List.getElem?_range hd] at visited
  exact Option.some.inj visited

/-- The grants of the period that begins, by compute die. -/
def State.permitGrants (s : State) : List (Nat × Nat) := grantsFor (1000 * s.allow.toNat) ((List.range 64).map s.permitDemand)

/-- A die with its grant; the IO dies have none. -/
def Die.withGrant (x : Die) : Option (Nat × Nat) → Die
  | some g => { x with slabGrant := g.1, denseGrant := g.2 }
  | none => x

theorem State.length_permitGrants (s : State) : s.permitGrants.length = 64 := by
  rw [State.permitGrants, length_grantsFor, List.length_map, List.length_range]

theorem getElem?_map_zipIdx {α β : Type} (l : List α) (f : α × Nat → β) (i : Nat) :
    (l.zipIdx.map f)[i]? = l[i]?.map fun x => f (x, i) := by
  rw [List.getElem?_map, List.getElem?_zipIdx, Option.map_map, Nat.zero_add]
  rfl

/-- POWER_GRANT_PERIOD gives each die and each stack its grant, sets the next period, and changes nothing else. -/
theorem exec_powerGrantPeriod {s : State} (h : s.permitAt ≤ s.clk) :
    ∃ t, exec .powerGrantPeriod s = .next t ∧ { t with permitAt := s.permitAt, dies := s.dies, stackGrant := s.stackGrant } = s ∧
      t.permitAt = s.permitAt + 1800 ∧ (∀ d : Nat, t.dies[d]? = s.dies[d]?.map fun x : Die => x.withGrant s.permitGrants[d]?) ∧
      ∀ k : Nat, t.stackGrant[k]? = s.stackCap[k]?.map (min · (s.hearthDemand k)) := by
  have due : ¬ s.clk < s.permitAt := Nat.not_lt.2 h
  refine ⟨_, congrArg (fun o => Host.Outcome.next (Option.getD o s)) (if_neg due), rfl, rfl, fun d => ?_, fun k => ?_⟩
  · refine (getElem?_map_zipIdx s.dies _ d).trans (congrArg (s.dies[d]?.map ·) (funext fun x => ?_))
    change (match s.permitGrants[d]? with
      | some g => { x with slabGrant := g.1, denseGrant := g.2 }
      | none => x) = x.withGrant s.permitGrants[d]?
    cases s.permitGrants[d]? <;> rfl
  · exact getElem?_map_zipIdx s.stackCap _ k

/-- A grant leaves the rest of its die as it was. -/
theorem Die.withGrant_frame (x : Die) (g : Option (Nat × Nat)) :
    { x.withGrant g with slabGrant := x.slabGrant, denseGrant := x.denseGrant } = x := by
  cases g <;> rfl

/-- A die's demand, under the die's thermal limits. -/
theorem State.permitDemand_eq {s : State} {d : Nat} {x : Die} (hx : s.dies[d]? = some x) :
    let on := fun o : MatOp => (s.wg? o.wg).map (fun w => dieOf w.core) == some d
    s.permitDemand d = (min x.slabCap ((s.ops.filter fun o => on o && o.isAmv).map fun o => aNslab o.blk - o.group).sum,
      min x.denseCap (s.ops.filter fun o => on o && o.dense).length) := by
  simp only [State.permitDemand, State.opCore, Option.map_map, List.getD_eq_getElem?_getD, hx, Option.getD_some, List.filter_filter,
    sumNat_eq_sum, Bool.and_comm, Function.comp_def]
  rfl

/-- What the dies were granted, read off the dies, is the list of the period's grants. -/
theorem State.permitGrants_eq_of_dies {s : State} {ds : List Die} (hlen : s.dies.length = 68)
    (hds : ∀ d : Nat, ds[d]? = s.dies[d]?.map fun x : Die => x.withGrant s.permitGrants[d]?) :
    s.permitGrants = (List.range 64).map fun d => (ds[d]?.map fun y : Die => (y.slabGrant, y.denseGrant)).getD (0, 0) := by
  refine List.ext_getElem (by rw [s.length_permitGrants, List.length_map, List.length_range]) fun d hd _ => ?_
  have hd68 : d < s.dies.length := by
    rw [s.length_permitGrants] at hd
    omega
  rw [List.getElem_map, List.getElem_range, hds, List.getElem?_eq_getElem hd, List.getElem?_eq_getElem hd68]
  rfl

/-- Settles O52: a period's grants are those of `grantsFor`, which grants a demand that fits, and otherwise the rounded shares and what
each die's visit adds. -/
theorem permitGrants : Obligations.PermitGrants := by
  intro s hlen hdue
  obtain ⟨t, hexec, hframe, hnext, hdies, hstacks⟩ := exec_powerGrantPeriod hdue
  refine ⟨t, hexec, hframe, hnext, ?_⟩
  intro allow dem cost sum draw granted base left on
  have grants : s.permitGrants = (List.range 64).map granted := State.permitGrants_eq_of_dies hlen hdies
  have drawOf_range (p : Nat → Nat × Nat) : drawOf ((List.range 64).map p) = sum 64 fun d => cost (p d) := by
    rw [drawOf_eq_sum, List.map_map]; rfl
  refine ⟨fun d x hx => ⟨State.permitDemand_eq hx, _, by rw [hdies, hx]; rfl, x.withGrant_frame _⟩, ?_, ?_, ?_⟩
  · intro hfits d hd
    have fits : s.permitGrants = (List.range 64).map dem := grantsFor_of_fits (Nat.le_trans (Nat.le_of_eq (drawOf_range dem)) hfits)
    exact List.map_inj_left.1 (grants.symm.trans fits) d (List.mem_range.2 hd)
  · intro hexceeds
    refine ⟨?_, fun d hd => grant_of_exceeds grants (drawOf_range dem) hexceeds hd⟩
    rw [← drawOf_range, ← grants]
    exact drawOf_grantsFor_le _ _
  · intro k c hk
    rw [hstacks, hk]
    rfl

end Sys2Proof.Machine
